-- ==== Sys2Proof/Word.lean ====
section
/-! DEFINITION. Word.lean: the bit vectors the OCG-8A manual names, and their plainest abbreviations. -/

namespace Sys2Proof

/-- A 64-bit word (a g register, a data address). -/
abbrev W64 := BitVec 64
/-- A code address (R62: 57 bits). -/
abbrev PcW := BitVec 57
/-- One byte. -/
abbrev Byte := BitVec 8
/-- A trap cause code (R370). -/
abbrev Cause := BitVec 8
/-- A vector register (R62). -/
abbrev V1024 := BitVec 1024
/-- One 64-byte block. -/
abbrev B512 := BitVec 512

/-- A core, numbered package × 2^16 + y × 2^8 + x (R69 without DIE and SRV). -/
abbrev CoreId := Nat
/-- A die, numbered package × 8 + die. -/
abbrev DieId := Nat
/-- A package of the pod, 0-63. -/
abbrev PkgId := Nat
/-- A farrier by its package-wide identifier: package + 64 × FID (R316). -/
abbrev FarId := Nat

end Sys2Proof
end

