-- ==== Sys2Proof/Syntax.lean ====
section
/-! DEFINITION. Syntax.lean: the instruction word's fields (R36, R39, R41) and the one inductive `Instr`,
with one constructor for each row of the table of operations and events. An instruction row carries the
fields of its word; an event row carries what names the place of the event. -/

namespace Sys2Proof

/-- The control registers of a core (R68) and of a farrier (R319). -/
inductive Csr where
  | jord | fround | fflags | mmrev | srctr | jobseed | rank | coord | ctxid | vl
  | lc0 | ls0 | le0 | lc1 | ls1 | le1 | cyc | unack | gen
  | estat | epc | ecause | eaddr | evec | escratch | dflags | pcause
  | fid | fthr | fcurb | fdirb | fdirn
deriving DecidableEq, Repr

/-- An operand field A, B or C after its class and index are read (R39). -/
inductive Opd where
  /-- class 0b000 -/
  | g (n : Fin 16)
  /-- class 0b001: a v register, or a jet index -/
  | v (n : Fin 32)
  /-- class 0b010 -/
  | c (n : Fin 8)
  /-- class 0b011 -/
  | m (n : Fin 8)
  /-- class 0b100 -/
  | z (n : Fin 4)
  /-- class 0b101 -/
  | cr (r : Csr)
  /-- class 0b110: a 9-bit signed immediate -/
  | imm (x : BitVec 9)
  /-- class 0b111 -/
  | none
deriving DecidableEq, Repr

/-- Guard and scheduling fields (R36): G, L, S, GAP and HINT. EXT is zero in every legal word (R46). -/
structure Hdr where
  /-- G[85]: the condition is inverted -/
  neg  : Bool
  /-- G[84:82]: the condition register -/
  gc   : Fin 8
  /-- L: lookahead -/
  look : BitVec 4
  /-- S: switch-away mark -/
  sw   : Bool
  /-- GAP -/
  gap  : BitVec 3
  /-- HINT, ignored at hint level 0 -/
  hint : BitVec 4
deriving DecidableEq, Repr

/-- The fields of one instruction word, opcode and EXT apart. -/
structure Fields where
  hd : Hdr
  a  : Opd
  b  : Opd
  c  : Opd
  mi : BitVec 32
deriving DecidableEq, Repr

/-- A message on its way: the sending core's interface and its retry-buffer slot (R14, R15). A notice the device
sends has source 2^22 + its package and its own number as slot. -/
structure MRef where
  src  : CoreId
  slot : Nat
deriving DecidableEq, Repr

/-- A write on its way to a core's write input queue (R255): of an access, a drain or a dray command. -/
inductive WRef where
  | acc (src : CoreId) (id part : Nat)
  | drain (src : CoreId) (id idx : Nat)
  | dray (src : CoreId) (n : Nat)
deriving DecidableEq, Repr

/-- An arrival counter (R354). -/
inductive CtrId where
  | loc (k : CoreId) (n : Fin 16)
  | glob (d : DieId) (slice : Fin 80) (n : Fin 64)
deriving DecidableEq, Repr

/-- Where an uncorrectable error strikes (R204): a block of global or of local memory. -/
inductive ErrSite where
  | glob (pa : Nat)
  | loc (k : CoreId) (off : BitVec 17)
deriving DecidableEq, Repr

/-- The memories whose corrected soft errors are counted (R362). -/
inductive SoftSite where
  | hbm | loc | l2
deriving DecidableEq, Repr

/-- CXL.cache snoops of port 0 (R393). -/
inductive SnoopKind where
  | data | inv | cur
deriving DecidableEq, Repr

/-- What firmware finds and sets while the device boots (R418). The firmware image itself is in flash or, in recovery, in the mailbox. -/
structure BootCfg where
  /-- memories, links and fabric ports train -/
  trainOk : Bool
  podm : BitVec 64
  /-- port 0 in host mode (R391) -/
  port0Host : Bool
  /-- the boot core mask, where it is not the default one: server cores as y × 256 + x in the package mesh (R33) -/
  servers : Option (List Nat)
  /-- the pools that the decoders of the CXL ports reach, port 0 first (R392); a port beyond the list has a pool to itself -/
  pools : List Nat
  /-- the images of handler sets 0-5 and of the groom (R418 step 6) -/
  imgSets : Vector (List Byte) 6
  imgGroom : List Byte
deriving DecidableEq, Repr

/-- A requester of the host toward a package: its writes keep their order (R394). -/
structure Requester where
  pkg : PkgId
  id  : Nat
deriving DecidableEq, Repr

/-- An object for the loader of a package (R407): the one in the mailbox, or one that the groom submits for itself, at a physical address
and of a size. -/
structure Submission where
  pkg : PkgId
  own : Option (Nat × Nat)
deriving DecidableEq, Repr

/-- The steps of the device: one constructor per row of the table of operations and events. -/
inductive Instr where
  /-- NOP (R52): Does nothing; only class 0b111 operands and a zero MI are accepted. -/
  | nop (f : Fields)
  /-- ADD (R102): gA := b + c, wrapping modulo 2^64. -/
  | add (f : Fields)
  /-- SUB (R102): gA := b - c, wrapping. -/
  | sub (f : Fields)
  /-- MUL (R102): gA := low 64 bits of b × c; occupies 2 issue cycles. -/
  | mul (f : Fields)
  /-- MULH (R102): gA := high 64 bits of the signed 128-bit product. -/
  | mulh (f : Fields)
  /-- MULHN (R102): gA := high 64 bits of the unsigned 128-bit product. -/
  | mulhn (f : Fields)
  /-- DIV (R103): Signed division truncating toward zero, with fixed results for division by zero and overflow. -/
  | div (f : Fields)
  /-- DIVN (R103): Unsigned division, with a fixed result for division by zero. -/
  | divn (f : Fields)
  /-- REM (R103): Signed remainder that takes the sign of the dividend. -/
  | remI (f : Fields)
  /-- REMN (R103): Unsigned remainder. -/
  | remn (f : Fields)
  /-- AND (R102): gA := b AND c. -/
  | andI (f : Fields)
  /-- OR (R102): gA := b OR c. -/
  | orI (f : Fields)
  /-- XOR (R102): gA := b XOR c. -/
  | xorI (f : Fields)
  /-- ANDN (R102): gA := b AND NOT c. -/
  | andn (f : Fields)
  /-- SHL (R102): Logical shift left by the low 6 bits of c. -/
  | shl (f : Fields)
  /-- SHR (R102): Logical shift right, filling with zeros. -/
  | shr (f : Fields)
  /-- SRA (R102): Arithmetic shift right, filling with the sign bit. -/
  | sra (f : Fields)
  /-- MIN (R102): Signed minimum. -/
  | minI (f : Fields)
  /-- MAX (R102): Signed maximum. -/
  | maxI (f : Fields)
  /-- MINN (R102): Unsigned minimum. -/
  | minn (f : Fields)
  /-- MAXN (R102): Unsigned maximum. -/
  | maxn (f : Fields)
  /-- CLZ (R104): Counts leading zero bits, giving 64 for zero. -/
  | clz (f : Fields)
  /-- CTZ (R104): Counts trailing zero bits, giving 64 for zero. -/
  | ctz (f : Fields)
  /-- POPC (R104): Counts one bits. -/
  | popc (f : Fields)
  /-- EXT (R105): Extracts a bit field, zero- or sign-extended. -/
  | extI (f : Fields)
  /-- LI (R106): Loads a sign-extended 32-bit immediate into gA. -/
  | li (f : Fields)
  /-- LIH (R106): Writes the immediate into bits [63:32] of gA and keeps the low half. -/
  | lih (f : Fields)
  /-- SEL (R107): Selects gB or gC by a condition register. -/
  | sel (f : Fields)
  /-- MKADR (R108): Builds an absolute or relative local-window address from coordinates and an offset. -/
  | mkadr (f : Fields)
  /-- ADRX (R109): Extracts the coordinates, the offset or the form of an address. -/
  | adrx (f : Fields)
  /-- CEQ (R110): cA := (b = c). -/
  | ceq (f : Fields)
  /-- CNE (R110): cA := (b ≠ c). -/
  | cne (f : Fields)
  /-- CLT (R110): cA := signed b < c. -/
  | clt (f : Fields)
  /-- CLE (R110): cA := signed b ≤ c. -/
  | cle (f : Fields)
  /-- CLTN (R110): cA := unsigned b < c. -/
  | cltn (f : Fields)
  /-- CLEN (R110): cA := unsigned b ≤ c. -/
  | clen (f : Fields)
  /-- CAND (R111): AND of two optionally inverted conditions. -/
  | cand (f : Fields)
  /-- COR (R111): OR of two optionally inverted conditions. -/
  | cor (f : Fields)
  /-- CXOR (R111): XOR of two optionally inverted conditions. -/
  | cxor (f : Fields)
  /-- CSET (R112): Sets one condition from a value, or c1–c7 from the bits of gB. -/
  | cset (f : Fields)
  /-- CGET (R112): Moves one condition, or all eight, into a g register. -/
  | cget (f : Fields)
  /-- BR (R113): Branches to PC + 12n. -/
  | br (f : Fields)
  /-- JR (R113): Jumps to the address in gB, checking alignment. -/
  | jr (f : Fields)
  /-- CALL (R113): Writes the link and branches to PC + 12n. -/
  | call (f : Fields)
  /-- CALLR (R113): Writes the link and jumps to the address in gB. -/
  | callr (f : Fields)
  /-- RET (R113): Jumps to the address in gB and pops the return-address stack. -/
  | ret (f : Fields)
  /-- LOOP (R115): Sets up a hardware loop level, or skips the body when the count is zero. -/
  | loopI (f : Fields)
  /-- LBRK (R117): Ends a loop level and branches past its end. -/
  | lbrk (f : Fields)
  /-- DONE (R120): Releases at the named scope and waits for the context to be freed. -/
  | doneI (f : Fields)
  /-- WAIT_UNACK (R121): Waits until unack = 0. -/
  | waitUnack (f : Fields)
  /-- WAIT_ENG (R121): Waits until every anvil and dray entry of the context is performed. -/
  | waitEng (f : Fields)
  /-- WAIT_ALL (R121): Waits for both unack = 0 and the engine entries. -/
  | waitAll (f : Fields)
  /-- WAIT_TIME (R121): Waits until cyc reaches the operand. -/
  | waitTime (f : Fields)
  /-- HALT (R122): Stops the core for power-down or a fatal error; it refuses messages until core reset. -/
  | halt (f : Fields)
  /-- CSRR (R123): Reads a control register into gA. -/
  | csrr (f : Fields)
  /-- CSRW (R123): Writes a control register and returns the old value. -/
  | csrw (f : Fields)
  /-- CSRS (R123): Sets bits of a control register and returns the old value. -/
  | csrs (f : Fields)
  /-- CSRC (R123): Clears bits of a control register and returns the old value. -/
  | csrc (f : Fields)
  /-- SYS (R124): Raises system call, cause 0x17. -/
  | sysI (f : Fields)
  /-- BRK (R124): Raises breakpoint, cause 0x16. -/
  | brk (f : Fields)
  /-- ERET (R125): Returns from a trap to epc and restores mode and IEN. -/
  | eret (f : Fields)
  /-- VADD (R131): Masked floating-point addition, or its series rule at jord > 0. -/
  | vadd (f : Fields)
  /-- VSUB (R131): Masked floating-point subtraction. -/
  | vsub (f : Fields)
  /-- VMUL (R131): Masked floating-point multiplication, or the jet product. -/
  | vmul (f : Fields)
  /-- VFMA (R131): Fused multiply-add a + b×c. -/
  | vfma (f : Fields)
  /-- VFMS (R131): Fused a - b×c. -/
  | vfms (f : Fields)
  /-- VFNM (R131): Fused -(a + b×c). -/
  | vfnm (f : Fields)
  /-- VDIV (R131): Correctly rounded division. -/
  | vdiv (f : Fields)
  /-- VMIN (R132): Exact minimum with the NaN and signed-zero rules. -/
  | vmin (f : Fields)
  /-- VMAX (R132): Exact maximum. -/
  | vmax (f : Fields)
  /-- VABS (R132): Clears sign bits. -/
  | vabs (f : Fields)
  /-- VNEG (R132): Inverts sign bits. -/
  | vneg (f : Fields)
  /-- VSQRT (R131): Correctly rounded square root. -/
  | vsqrt (f : Fields)
  /-- VRCP (R135): Approximate reciprocal. -/
  | vrcp (f : Fields)
  /-- VRSQ (R135): Approximate reciprocal square root. -/
  | vrsq (f : Fields)
  /-- VEXP (R133): Exponential. -/
  | vexp (f : Fields)
  /-- VLOG (R133): Natural logarithm. -/
  | vlog (f : Fields)
  /-- VSIN (R133): Sine. -/
  | vsin (f : Fields)
  /-- VCOS (R133): Cosine. -/
  | vcos (f : Fields)
  /-- VTANH (R133): Hyperbolic tangent. -/
  | vtanh (f : Fields)
  /-- VSIGM (R133): Logistic sigmoid. -/
  | vsigm (f : Fields)
  /-- VCMP (R137): Compares elements into a mask, or into a condition with any or all. -/
  | vcmp (f : Fields)
  /-- VSEL (R138): Selects each byte from vB or vC by the mask. -/
  | vsel (f : Fields)
  /-- VBOUND (R140): Writes a mask enabling elements with B + e < C. -/
  | vbound (f : Fields)
  /-- VWIDTH (R140): Writes the element count of a register for a type. -/
  | vwidth (f : Fields)
  /-- VSPLAT (R141): Broadcasts a scalar into enabled elements. -/
  | vsplat (f : Fields)
  /-- VINS (R142): Inserts an element, or writes the sidecar with .side. -/
  | vins (f : Fields)
  /-- VEXTR (R142): Extracts an element or the sidecar into gA. -/
  | vextr (f : Fields)
  /-- VPERM (R143): Permutes elements by index. -/
  | vperm (f : Fields)
  /-- VSLIDE (R143): Slides elements by a signed amount, filling with zero. -/
  | vslide (f : Fields)
  /-- VRED (R144): Reduces a register into gA in a fixed pairwise tree. -/
  | vred (f : Fields)
  /-- VCVT (R145): Converts a slice between element types, applying the scale. -/
  | vcvt (f : Fields)
  /-- VQUANT (R148): Quantises with a scale derived from an absolute maximum and writes the sidecar half. -/
  | vquant (f : Fields)
  /-- VQMAX (R146): Exchanges the largest magnitude across a group of cores. -/
  | vqmax (f : Fields)
  /-- VCOMP (R149): Two-of-four compression, with an index nibble per group. -/
  | vcomp (f : Fields)
  /-- VEXPD (R150): Expands two-of-four compressed data. -/
  | vexpd (f : Fields)
  /-- VIADD (R136): Integer addition, wrapping or saturating. -/
  | viadd (f : Fields)
  /-- VISUB (R136): Integer subtraction. -/
  | visub (f : Fields)
  /-- VIMUL (R136): Integer multiplication. -/
  | vimul (f : Fields)
  /-- VAND (R136): Bitwise AND. -/
  | vand (f : Fields)
  /-- VOR (R136): Bitwise OR. -/
  | vor (f : Fields)
  /-- VXOR (R136): Bitwise XOR. -/
  | vxor (f : Fields)
  /-- VSHL (R136): Element shift left. -/
  | vshl (f : Fields)
  /-- VSHR (R136): Element shift right, arithmetic or logical. -/
  | vshr (f : Fields)
  /-- VMOV (R143): Copies vB and its sidecar. -/
  | vmov (f : Fields)
  /-- MAND (R139): AND of two optionally inverted masks. -/
  | mand (f : Fields)
  /-- MOR (R139): OR of masks. -/
  | mor (f : Fields)
  /-- MXOR (R139): XOR of masks. -/
  | mxor (f : Fields)
  /-- MCNT (R139): Counts the enabled elements of a mask. -/
  | mcnt (f : Fields)
  /-- JSEED (R167): Seeds a jet (x, d, 0, ...). -/
  | jseed (f : Fields)
  /-- JCONST (R167): Writes a constant jet. -/
  | jconst (f : Fields)
  /-- JGET (R167): Extracts a coefficient, optionally times n!. -/
  | jget (f : Fields)
  /-- JSET (R167): Sets one coefficient of a jet. -/
  | jset (f : Fields)
  /-- JSHIFT (R167): Shifts coefficients up or down. -/
  | jshift (f : Fields)
  /-- JDIFF (R167): Differentiates a jet. -/
  | jdiff (f : Fields)
  /-- JINT (R167): Integrates a jet with a constant. -/
  | jint (f : Fields)
  /-- JTRUNC (R167): Zeroes the coefficients above n. -/
  | jtrunc (f : Fields)
  /-- AMMA (R176): Enters a matrix multiply-accumulate into the anvil queue after the issue checks. -/
  | amma (f : Fields)
  /-- AZERO (R179): Queues the zeroing of a tile. -/
  | azero (f : Fields)
  /-- ALD (R180): Queues a tile load from own local memory. -/
  | ald (f : Fields)
  /-- AST (R180): Queues a tile store that relabels the blocks it touches. -/
  | ast (f : Fields)
  /-- AROW (R181): Reads a row pair of a tile into a vector register. -/
  | arow (f : Fields)
  /-- ADRAIN (R183): Queues a drain of a tile to a core's local memory, optionally with a wake-up. -/
  | adrain (f : Fields)
  /-- ASCALE (R182): Queues a row- and column-scaled copy of a tile, with optional ReLU. -/
  | ascale (f : Fields)
  /-- LD (R241): Scalar load. -/
  | ld (f : Fields)
  /-- ST (R241): Scalar store. -/
  | st (f : Fields)
  /-- VLD (R242): Vector or jet load with sidecar, optional fill wait. -/
  | vld (f : Fields)
  /-- VST (R242): Vector or jet store of enabled bytes with the block description. -/
  | vst (f : Fields)
  /-- VLDX (R243): Gathers elements by index. -/
  | vldx (f : Fields)
  /-- VSTX (R243): Scatters elements by index. -/
  | vstx (f : Fields)
  /-- LDBLK (R244): Loads one 64-byte block into a half, with its description, without checks. -/
  | ldblk (f : Fields)
  /-- STBLK (R244): Stores one half as a block with its description. -/
  | stblk (f : Fields)
  /-- LDMETA (R245): Reads a block's FMT, SCALE and TAG. -/
  | ldmeta (f : Fields)
  /-- STMETA (R245): Writes a block's FMT and SCALE. -/
  | stmeta (f : Fields)
  /-- PHASE (R246): Phase boundary: release then acquire at a scope. -/
  | phase (f : Fields)
  /-- FENCE (R246): Waits until the earlier counted accesses are performed at the scope. -/
  | fence (f : Fields)
  /-- AADD (R247): Atomic add at the home. -/
  | aadd (f : Fields)
  /-- AAND (R247): Atomic AND. -/
  | aand (f : Fields)
  /-- AOR (R247): Atomic OR. -/
  | aor (f : Fields)
  /-- AXOR (R247): Atomic XOR. -/
  | axor (f : Fields)
  /-- AMIN (R247): Atomic signed minimum. -/
  | amin (f : Fields)
  /-- AMAX (R247): Atomic signed maximum. -/
  | amax (f : Fields)
  /-- AXCHG (R247): Atomic exchange. -/
  | axchg (f : Fields)
  /-- ACAS (R247): Atomic compare-and-swap. -/
  | acas (f : Fields)
  /-- AFADD (R247): Atomic FP32 add, rounded RNE at the home. -/
  | afadd (f : Fields)
  /-- ABLK (R249): Atomic operation on a whole 64-byte block. -/
  | ablk (f : Fields)
  /-- PREF (R251): Prefetches a line into L1 or L2. -/
  | pref (f : Fields)
  /-- FSET (R252): Sets fill bits after the earlier own-local stores. -/
  | fset (f : Fields)
  /-- FCLR (R252): Clears fill bits. -/
  | fclr (f : Fields)
  /-- SEND (R268): Sends a typed message to a core address. -/
  | send (f : Fields)
  /-- SENDR (R268): Sends a typed message to a logical rank. -/
  | sendr (f : Fields)
  /-- HOP (R271): Releases and moves the activation to another core. -/
  | hop (f : Fields)
  /-- DCOPY (R274): Queues a dray block copy. -/
  | dcopy (f : Fields)
  /-- DGATH (R275): Queues a dray gather with pooling. -/
  | dgath (f : Fields)
  /-- DSCAD (R276): Queues a dray scatter-add of rows as block atomics. -/
  | dscad (f : Fields)
  /-- SLACQ_P (R279): Producer waits for a free slot and takes its address. -/
  | slacqP (f : Fields)
  /-- SLACQ_C (R279): Consumer waits for a filled slot and takes its offset. -/
  | slacqC (f : Fields)
  /-- SLREL (R280): Returns the oldest taken slot after the context's reads finish. -/
  | slrel (f : Fields)
  /-- SLINIT (R278): Initialises a slot buffer and sends the producer its record. -/
  | slinit (f : Fields)
  /-- TJOIN (R281): Releases and contributes to a combining-tree collective. -/
  | tjoin (f : Fields)
  /-- TREAD (R282): Takes a collective result, ORs its flags and acquires. -/
  | tread (f : Fields)
  /-- BAR (R283): Barrier arrival at a scope, with release and acquire. -/
  | bar (f : Fields)
  /-- QFENCE (R284): Records a fence point joining the named queues. -/
  | qfence (f : Fields)
  /-- CARM (R364): Allocates and arms an arrival counter over a window. -/
  | carm (f : Fields)
  /-- CDIS (R365): Disarms a counter, returns COUNT and frees it once PENDN is 0. -/
  | cdis (f : Fields)
  /-- CRD_CNT (R366): Reads a counter's COUNT. -/
  | crdCnt (f : Fields)
  /-- CRD_STAT (R366): Reads a counter's status word. -/
  | crdStat (f : Fields)
  /-- CRD_STAT_W (R366): Waits until FIRES differs from gC, then reads the status and acquires. -/
  | crdStatW (f : Fields)
  /-- CRD_TOT (R366): Reads a counter's TOTAL. -/
  | crdTot (f : Fields)
  /-- CRD_CONS (R366): Reads a slot buffer's consumer state. -/
  | crdCons (f : Fields)
  /-- CRD_PROD (R366): Reads a producer record. -/
  | crdProd (f : Fields)
  /-- CRD_FAB (R366): Supervisor read of a fabric store count. -/
  | crdFab (f : Fields)
  /-- CRD_MON (R366): Supervisor read of a die monitor counter. -/
  | crdMon (f : Fields)
  /-- CADD (R365): Adds a signed value to a counter's COUNT. -/
  | cadd (f : Fields)
  /-- PCRD (R367): Reads a performance counter. -/
  | pcrd (f : Fields)
  /-- PCCFG (R367): Writes a performance counter's configuration. -/
  | pccfg (f : Fields)
  /-- RTSET (R304): Writes a region entry in every replica, rebinding if PROT or HSET changes. -/
  | rtset (f : Fields)
  /-- RTGET (R304): Reads a word of a region entry. -/
  | rtget (f : Fields)
  /-- RKSET (R305): Writes a rank-table entry. -/
  | rkset (f : Fields)
  /-- RKMOV_HOLD (R305): Marks a rank as held in transit. -/
  | rkmovHold (f : Fields)
  /-- RKMOV_REL (R305): Releases a rank to new coordinates. -/
  | rkmovRel (f : Fields)
  /-- TLBINV_PAGE (R306): Releases, then invalidates TLB entries for one page. -/
  | tlbinvPage (f : Fields)
  /-- TLBINV_ALL (R306): Releases, then invalidates every TLB entry in scope. -/
  | tlbinvAll (f : Fields)
  /-- FBRD (R307): Reads a fault-buffer entry or the status word. -/
  | fbrd (f : Fields)
  /-- REPLAY (R295): Releases, empties the fault buffer and re-walks the parked accesses. -/
  | replay (f : Fields)
  /-- REPLAY_DENY (R295): Replays, ending the accesses that are still unmapped or host-owned with a fault. -/
  | replayDeny (f : Fields)
  /-- PGOWN_HOST (R308): Hands a host region to the host after writing back its lines. -/
  | pgownHost (f : Fields)
  /-- PGOWN_DEV (R308): Returns a host region to the device. -/
  | pgownDev (f : Fields)
  /-- HTSET (R309): Writes a handler-table entry and invalidates the handler caches. -/
  | htset (f : Fields)
  /-- GEN_ACK (R310): Drops retired bundles and sets the core's gen to DGEN. -/
  | genAck (f : Fields)
  /-- GEN_RD (R310): Reads DGEN. -/
  | genRd (f : Fields)
  /-- GEN_RET (R310): Advances DGEN and retires a code range. -/
  | genRet (f : Fields)
  /-- GEN_FREE (R310): Clears a code-generation list entry. -/
  | genFree (f : Fields)
  /-- QCFG_FUSE (R312): Fuses or unfuses a quad's L1s. -/
  | qcfgFuse (f : Fields)
  /-- QCFG_ROOT (R312): Sets the die's translation root and empties its TLBs. -/
  | qcfgRoot (f : Fields)
  /-- QCFG_MEMB (R312): Sets a core's scope membership. -/
  | qcfgMemb (f : Fields)
  /-- QCFG_RANKT (R312): Sets the rank table and empties the rank caches. -/
  | qcfgRankt (f : Fields)
  /-- QCFG_HTAB (R312): Sets the handler table base and empties the handler caches. -/
  | qcfgHtab (f : Fields)
  /-- QCFG_CPLAN (R312): Writes a carrier-plan byte, retuning the carrier. -/
  | qcfgCplan (f : Fields)
  /-- QCFG_FEAT (R312): Reads a feature word. -/
  | qcfgFeat (f : Fields)
  /-- FRZ_ON (R311): Freezes a core's local memory against remote writes and messages. -/
  | frzOn (f : Fields)
  /-- FRZ_OFF (R311): Lifts a freeze. -/
  | frzOff (f : Fields)
  /-- PDONE_SAVE (R313): Ends a save entry and discards the context's state until resume. -/
  | pdoneSave (f : Fields)
  /-- PDONE_REST (R313): Ends a restore entry. -/
  | pdoneRest (f : Fields)
  /-- FDONE_RES (R330): Ends the handler; the access resumes, or the requester receives ACK. -/
  | fdoneRes (f : Fields)
  /-- FDONE_SAT (R330): Ends the handler; the access is satisfied, or the requester receives ACK with data. -/
  | fdoneSat (f : Fields)
  /-- FDONE_DENY (R330): Ends the handler with a denial. -/
  | fdoneDeny (f : Fields)
  /-- FDONE_HOLD (R330): Ends the handler, leaving the request on the block's hold list. -/
  | fdoneHold (f : Fields)
  /-- TAGRD (R331): Reads a block's tag, presence and dirtiness at a location. -/
  | tagrd (f : Fields)
  /-- TAGWR (R331): Writes a block's tag at a location, optionally dropping the copy. -/
  | tagwr (f : Fields)
  /-- DIRRD (R332): Reads a directory entry. -/
  | dirrd (f : Fields)
  /-- DIRWR (R332): Writes a directory entry, reporting placement failure. -/
  | dirwr (f : Fields)
  /-- BTX (R333): Transfers blocks between locations with their descriptions. -/
  | btx (f : Fields)
  /-- FREP (R334): Sends a reply to a farrier thread. -/
  | frep (f : Fields)
  /-- FREQ (R335): Sends a request to another farrier, optionally waiting for its reply. -/
  | freq (f : Fields)
  /-- FWAKE (R336): Re-posts a block's held requests. -/
  | fwake (f : Fields)
  /-- FPOISON (R336): Sets a block's FMT to 0xFF at a location. -/
  | fpoison (f : Fields)
  /-- FBLK (R337): Waits for the counted replies and returns their count and status OR. -/
  | fblk (f : Fields)
  /-- FSTO (R338): Combines a source block into a destination block in one act. -/
  | fsto (f : Fields)
  /-- GAP_COUNT_EXPIRY (R264): A context's gap count reaches zero and the context becomes ready again. -/
  | gapCountExpiry (k : CoreId) (c : Fin 8)
  /-- MESSAGE_ARRIVAL (R11): The network interface decides an arriving message in port rotation, accepting it into a context or refusing it. -/
  | messageArrival (k : CoreId) (arr : List MRef)
  /-- HOP_MESSAGE_ARRIVAL (R24): A 24-word hop message is accepted into a free user context or refused. -/
  | hopMessageArrival (k : CoreId) (arr : List MRef)
  /-- REFUSAL (R16): A refusal reaches the sender's interface, which backs off or waits for a notice. -/
  | refusal (k : CoreId) (slot : Nat)
  /-- BACKOFF_RETRY (R16): An unlisted message's back-off delay expires and it is retried. -/
  | backoffRetry (k : CoreId) (slot : Nat)
  /-- CONTEXT_FREE_NOTICE (R17): A context-free notice reaches the sender, which retries at once. -/
  | contextFreeNotice (k : CoreId) (slot : Nat)
  /-- RESERVATION_LAPSE (R18): A reservation lapses 512 L2 clocks after its notice; the context goes to the next entry or becomes free. -/
  | reservationLapse (k : CoreId) (c : Fin 8)
  /-- CONTEXT_FREE (R20): A context returns to the pool once its release, engine entries and unack are complete. -/
  | contextFree (k : CoreId) (c : Fin 8)
  /-- MESSAGE_ACCEPTANCE (R15): Acceptance reaches the sender: the retry slot frees, unack falls and a hopping context frees. -/
  | messageAcceptance (k : CoreId) (slot : Nat)
  /-- FORWARDED_LOAD_REPLY (R25): A load reply for a hopped register is sent on to the destination core. -/
  | forwardedLoadReply (k : CoreId) (id : Nat)
  /-- ACCESS_REPLY (R240): A load, atomic or fill reply writes its destination or enters the reply-fault list. -/
  | accessReply (k : CoreId) (id : Nat)
  /-- STORE_ACK (R15): An acknowledgement decrements the context's unack. -/
  | storeAck (k : CoreId) (id : Nat)
  /-- TAG_REPLY (R197): A sideband request's reply gives an L1-missed store its tag, format and scale. -/
  | tagReply (k : CoreId) (id : Nat)
  /-- REPLY_FAULT_ENTRY (R374): A reply-fault list entry is taken as a trap at a boundary of its context. -/
  | replyFaultEntry (k : CoreId) (c : Fin 8)
  /-- INTERRUPT_ENTRY (R370): A pending interrupt is taken in the lowest busy context with IEN set on a server core. -/
  | interruptEntry (k : CoreId)
  /-- RELEASE_COMPLETE (R209): A release in the core's release engine completes, freeing the accesses ordered behind it. -/
  | releaseComplete (k : CoreId)
  /-- FABRIC_INTERVAL_CONFIRM (R227): The destination's answer to a pod-interval close arrives, completing the release or mismatching. -/
  | fabricIntervalConfirm (p : PkgId) (q : PkgId) (iv : BitVec 32)
  /-- DFLAGS_UPDATE (R72): A change in some fflags reaches dflags after up to 64 L2 clocks. -/
  | dflagsUpdate (d : DieId) (bits : BitVec 40)
  /-- ANVIL_ENTRY_START (R170): The anvil starts the entry at the head of its queue, reading its operands. -/
  | anvilEntryStart (k : CoreId)
  /-- ANVIL_ENTRY_COMPLETE (R170): An anvil entry completes, writing its tile and flags. -/
  | anvilEntryComplete (k : CoreId) (late : Nat)
  /-- DRAIN_WAKEUP (R184): Once every drain write is acknowledged, the wake-up message is formed. -/
  | drainWakeup (k : CoreId) (id : Nat)
  /-- DRAY_ENTRY_START (R254): The dray starts the entry at the head of its queue and performs it. -/
  | drayEntryStart (k : CoreId)
  /-- DRAY_FAULT_REPORT (R273): A stopped dray command is reported; the context takes the cause and its later entries are discarded. -/
  | drayFaultReport (k : CoreId)
  /-- REMOTE_WRITE_PERFORMED (R255): A write from the write input queue is performed at the bank, setting fill bits and counting bytes. -/
  | remoteWritePerformed (k : CoreId) (arr : List WRef)
  /-- REMOTE_LOAD_REQUEST (R194): A local-window load is served at the target bank. -/
  | remoteLoadRequest (k : CoreId) (id part : Nat)
  /-- ATOMIC_AT_HOME (R217): An atomic is performed at its home slice or bank and replies. -/
  | atomicAtHome (k : CoreId) (id : Nat)
  /-- COUNTED_STORE (R218): A written-through store into an armed window is performed and counted at the home. -/
  | countedStore (k : CoreId) (id part : Nat)
  /-- COUNT_MESSAGE (R355): A count from another home slice arrives at the counter's slice and is added. -/
  | countMessage (p : PkgId) (n : Nat)
  /-- COUNTER_FIRE (R356): An armed counter with COUNT ≥ TOTAL fires, re-arming or disarming and forming a launch. -/
  | counterFire (h : CtrId)
  /-- LAUNCH_ENQUEUE (R356): A formed launch enters a retry buffer slot, resolving its rank for ACT 1. -/
  | launchEnqueue (h : CtrId)
  /-- SLOT_FILLED (R359): Slot NEXT reaching the slot size is marked counted and FILLED increments. -/
  | slotFilled (k : CoreId) (b : Fin 8)
  /-- SLOT_RETURN (R280): A slot return arrives at the producer and FREE increments. -/
  | slotReturn (k : CoreId) (n : Nat)
  /-- SLINIT_RECORD (R278): A producer record message installs or replaces the record and is acknowledged. -/
  | slinitRecord (k : CoreId) (n : Nat)
  /-- TREE_INJECT (R258): A contribution leaves the inject queue once its release completes and the node can take it. -/
  | treeInject (k : CoreId)
  /-- TREE_RESULT (R258): A collective result or a mismatch enters the extract queue. -/
  | treeResult (k : CoreId) (scope : BitVec 3)
  /-- BARRIER_COMPLETE (R283): All members have arrived and the waiting `bar` instructions acquire. -/
  | barrierComplete (k : CoreId) (scope : BitVec 3)
  /-- VQMAX_CONTRIBUTION (R147): An arriving vqmax contribution joins an exchange entry or is refused. -/
  | vqmaxContribution (k : CoreId) (n : Nat)
  /-- TRANSLATION_WALK (R291): A page walk ends translated, missed or denied. -/
  | translationWalk (k : CoreId) (id part : Nat) (evict : Bool)
  /-- ACCESS_PARK (R261): A missing access parks in the die pool and is listed in the fault buffer. -/
  | accessPark (k : CoreId) (id part : Nat)
  /-- FARRIER_DISPATCH (R320): A farrier starts a free thread on the oldest dispatchable request. -/
  | farrierDispatch (f : FarId)
  /-- GETS (R321): A die posts a read whose tag forbids it. -/
  | gets (f : FarId) (t : Fin 16)
  /-- GETX (R321): A die posts a store that awaits a writable tag. -/
  | getx (f : FarId) (t : Fin 16)
  /-- WR (R321): A release or write-back write meets a non-writable tag. -/
  | wrI (f : FarId) (t : Fin 16)
  /-- AT (R321): The home slice posts an atomic that its tag forbids. -/
  | atI (f : FarId) (t : Fin 16)
  /-- RGETS (R321): A proxy forwards a read to the home. -/
  | rgets (f : FarId) (t : Fin 16)
  /-- RGETX (R321): A proxy forwards a store request to the home. -/
  | rgetx (f : FarId) (t : Fin 16)
  /-- RWR (R321): A proxy forwards a write to the home. -/
  | rwr (f : FarId) (t : Fin 16)
  /-- INV (R321): Home tells a holder to drop its copy and return dirty data. -/
  | inv (f : FarId) (t : Fin 16)
  /-- FWD (R321): Home tells an owner to write back and set a tag. -/
  | fwd (f : FarId) (t : Fin 16)
  /-- WBK (R321): A die or proxy evicts a writable copy. -/
  | wbk (f : FarId) (t : Fin 16)
  /-- PUSH (R321): Home tells a proxy to install a read-only copy. -/
  | push (f : FarId) (t : Fin 16)
  /-- UPD (R321): Home overwrites a holder's copy. -/
  | upd (f : FarId) (t : Fin 16)
  /-- HSNP (R349): The host port posts a snoop of a line held exclusive. -/
  | hsnp (f : FarId) (t : Fin 16)
  /-- CUSTOM_REQUEST (R321): A custom type sent by freq is dispatched. -/
  | customRequest (f : FarId) (t : Fin 16)
  /-- INIT (R322): Dispatched once per farrier when a handler set is loaded. -/
  | initI (f : FarId) (t : Fin 16)
  /-- REBIND (R350): Dispatched for each directory entry of a region being rebound. -/
  | rebind (f : FarId) (t : Fin 16)
  /-- RCV (R328): A supervisor access to a held block dispatches the recovery handler. -/
  | rcv (f : FarId) (t : Fin 16)
  /-- FARRIER_REPLY (R259): A reply is delivered at once to the awaiting farrier thread. -/
  | farrierReply (f : FarId)
  /-- CURB_KILL (R327): A handler would retire instruction CURB + 1 and is killed, the block held and the groom noticed. -/
  | curbKill (f : FarId) (t : Fin 16)
  /-- CURB_WAIT_TIMEOUT (R326): A handler's waiting time passes 65,536 L2 clocks and it is killed. -/
  | curbWaitTimeout (f : FarId) (t : Fin 16)
  /-- JOB_TEARDOWN (R257): Frees contexts, clears user refusals, retry messages, counters, exchanges and freezes. -/
  | jobTeardown (ks : List CoreId)
  /-- UNCORRECTABLE_ERROR (R204): An uncorrectable memory error poisons the block and raises platform event 3. -/
  | uncorrectableError (e : ErrSite)
  /-- PREEMPT_REQUEST (R379): A write of REQ 0x01–0x05 in state 0 starts pre-emption of the die. -/
  | preemptRequest (d : DieId) (reason : Byte)
  /-- TIME_SLICE_EXPIRY (R379): The SLICE period expires in state 0 and acts as REQ 0x01. -/
  | timeSliceExpiry (d : DieId)
  /-- PREEMPT_LOCAL_COPY (R380): Step 2: after the core's acknowledgement, the controller copies local memory, sideband and fill bits. -/
  | preemptLocalCopy (k : CoreId)
  /-- SAVE_ENTRY (R381): Step 3: each busy context writes its resume record and enters at evec + 192. -/
  | saveEntry (k : CoreId)
  /-- PREEMPT_IMAGE_COPY (R380): Step 4: after every pdone.save, the controller copies the context image, header and GEN. -/
  | preemptImageCopy (k : CoreId)
  /-- RESUME_REQUEST (R383): A write of REQ 0x00 in state 5 restores the context images. -/
  | resumeRequest (d : DieId)
  /-- RESUME_WRITEBACK (R383): After every pdone.rest, local memory, core state and L1 are restored and pcause cleared. -/
  | resumeWriteback (k : CoreId)
  /-- CORE_RESUME (R383): The core leaves the refusal rule and each context continues from its record. -/
  | coreResume (k : CoreId)
  /-- HOST_WINDOW_READ (R390): A host read through BAR2/3, served at the home slice as a supervisor access. -/
  | hostWindowRead (p : PkgId) (off len : Nat)
  /-- HOST_WINDOW_WRITE (R390): A host write through BAR2/3, counted and ordered under R394. -/
  | hostWindowWrite (r : Requester) (off : Nat) (data : List Byte) (relaxed : Bool)
  /-- HOST_SNOOP (R393): A CXL.cache snoop, answered miss at once or posted as HSNP. -/
  | hostSnoop (p : PkgId) (snp : SnoopKind) (line : Nat)
  /-- FEATURE_ACCEPT_WRITE (R389): The first write to an FACC word after reset sets the accepted offered bits. -/
  | featureAcceptWrite (r : Requester) (w : Fin 4) (val : W64)
  /-- PREQ_WRITE (R389): A value of 0x05 acts as REQ 0x05 to a die's controller. -/
  | preqWrite (r : Requester) (die : Fin 8) (val : Byte)
  /-- WIN_WRITE (R389): Writes a host-window entry if valid; otherwise ignored. -/
  | winWrite (r : Requester) (w : Fin 64) (val : W64)
  /-- BAR_REGISTER_WRITE (R389): A write to a control-BAR or controller-page register with no row of its own. -/
  | barRegisterWrite (r : Requester) (off : Nat) (val : W64)
  /-- UPLOAD_FIRMWARE (R421): Mailbox command 0x01 verifies and writes a firmware image to flash. -/
  | uploadFirmware (p : PkgId)
  /-- LOAD_HANDLER_SET (R421): Mailbox command 0x02 verifies and loads a farrier handler set. -/
  | loadHandlerSet (p : PkgId)
  /-- SUBMIT_CODE_OBJECT (R407): Mailbox command 0x03 runs the loader gates and places the object. -/
  | submitCodeObject (o : Submission)
  /-- ATTEST (R422): Mailbox command 0x04 writes a signed report, or the key and certificate for a zero-length nonce. -/
  | attest (p : PkgId)
  /-- IMAGE_LOAD_REQUEST (R419): Message 0xF20 verifies, measures and loads an image, answered by 0xF21. -/
  | imageLoadRequest (p : PkgId) (n : Nat)
  /-- DEVICE_RESET (R418): Power-good or a device reset runs the verified boot sequence. -/
  | deviceReset (p : PkgId) (cfg : BootCfg)
  /-- FUNCTION_LEVEL_RESET (R387): A PCIe function-level reset performs a device reset. -/
  | functionLevelReset (p : PkgId) (cfg : BootCfg)
  /-- FREQUENCY_STEP_DOWN (R423): Over the power limit or the WARN temperature, a die moves one frequency point slower. -/
  | frequencyStepDown (d : DieId) (power : Nat) (temp : Int)
  /-- FREQUENCY_STEP_UP (R423): After 10 ms clear of both conditions, the die moves one point back. -/
  | frequencyStepUp (d : DieId) (power : Nat) (temp : Int)
  /-- THERMAL_PREEMPT (R423): Above THR.PRE, monitors write REQ 0x04, repeated every 10 ms. -/
  | thermalPreempt (d : DieId) (temp : Int)
  /-- THERMAL_TRIP (R423): At 125 °C the compute dies power down with no save. -/
  | thermalTrip (p : PkgId) (temp : Int)
  /-- PLATFORM_EVENT (R425): A platform event fires its MSI-X vector and interrupts the server core. -/
  | platformEvent (p : PkgId) (die : Fin 8) (n : BitVec 5)
  /-- ASSAY_RUN (R426): Every 24 hours and after boot, margins of each point are measured and recorded. -/
  | assayRun (d : DieId) (margins : List Byte) (removed : List (Fin 5))
  /-- CARRIER_RETUNE_COMPLETE (R300): A carrier finishes retuning within 50 ns and enters TRAINING. -/
  | carrierRetuneComplete (p : PkgId) (i : Nat)
  /-- CARRIER_UP (R397): A training carrier's receiver locks and the carrier becomes UP. -/
  | carrierUp (p : PkgId) (i : Nat)
  /-- FABRIC_FRAME (R400): A frame arrives, is CRC-checked and delivered in flow order or NAKed. -/
  | fabricFrame (p : PkgId) (i : Nat) (crcOk : Bool)
  /-- FRAME_NAK (R401): A NAK makes the sender replay frames go-back-N. -/
  | frameNak (p : PkgId) (i : Nat)
  /-- CARRIER_DOWN (R401): After 8 successive NAKs the carrier goes DOWN, notices 0xF13 and its flows are rebound. -/
  | carrierDown (p : PkgId) (i : Nat)
  /-- POWER_LOSS (R414): Loss of package power while the device runs, cutting short any image being written to flash. -/
  | powerLoss (p : PkgId)
  /-- CORRECTED_SOFT_ERROR (R362): A corrected soft error in HBM4, local memory or L2 raises die monitor counter 5, 7 or 8. -/
  | correctedSoftError (d : DieId) (m : SoftSite)
  /-- WAIT_TIME_DEADLINE (R121): cyc reaches the operand of a waiting wait.time, which then completes. -/
  | waitTimeDeadline (k : CoreId) (c : Fin 8)
  /-- INSTRUCTION_COMPLETION (R48): A long-latency vector, special-function or jet instruction completes, writing its destination and ORing its flags. -/
  | instructionCompletion (k : CoreId) (c : Fin 8) (id : Nat)
  /-- OCCUPANCY_END (R264): An instruction's issue occupancy ends, freeing its unit and making its context ready again. -/
  | occupancyEnd (k : CoreId) (c : Fin 8)
  /-- TABLE_INSTRUCTION_COMPLETE (R303): A table instruction completes once every replica, cache or TLB it updates has acknowledged, and its context becomes ready. -/
  | tableInstructionComplete (k : CoreId) (c : Fin 8)
  /-- WINDOW_REGISTRATION_COMPLETE (R364): A global carm completes when every home slice of the window has registered it, after which bytes count. -/
  | windowRegistrationComplete (k : CoreId) (c : Fin 8)
deriving DecidableEq, Repr

end Sys2Proof
end

