-- ==== Sys2Proof/Machine/Fields.lean ====
section
/-! DEFINITION. Machine/Fields.lean: the fields of an instruction word by name (R36-R45, R126-R127, R238, R241-R247)
and what each instruction accepts in them (R40, R42, R46): the legality of every constructor's word. -/

namespace Sys2Proof

/-! ### Bit fields -/

/-- Bits [lo+n-1:lo] of MI, as a number. -/
def Fields.bits (f : Fields) (lo n : Nat) : Nat := (f.mi.extractLsb' lo n).toNat
def Fields.bit (f : Fields) (i : Nat) : Bool := f.mi.getLsbD i
/-- TY [3:0] (R42). -/
def Fields.ty (f : Fields) : BitVec 4 := f.mi.extractLsb' 0 4
/-- RND [6:4] (R44). -/
def Fields.rnd (f : Fields) : BitVec 3 := f.mi.extractLsb' 4 3
/-- MK [9:7] of layout M3. -/
def Fields.mkn (f : Fields) : Fin 8 := (f.mi.extractLsb' 7 3).toFin
/-- SC [12:10]. -/
def Fields.sc (f : Fields) : BitVec 3 := f.mi.extractLsb' 10 3
/-- ORD [14:13]: acquire is bit 13, release bit 14. -/
def Fields.ordAcq (f : Fields) : Bool := f.bit 13
def Fields.ordRel (f : Fields) : Bool := f.bit 14
def Fields.fw (f : Fields) : Bool := f.bit 15
def Fields.xq (f : Fields) : Bool := f.bit 16
/-- ZR [17] of a masked vector instruction (R127). -/
def Fields.zr (f : Fields) : Bool := f.bit 17
/-- FROM [21:18] of `vcvt`, `vquant` and `ascale`; TYB of `amma`. -/
def Fields.from_ (f : Fields) : BitVec 4 := f.mi.extractLsb' 18 4
/-- PART [26:22]. -/
def Fields.part (f : Fields) : Nat := f.bits 22 5
/-- M1: the immediate [23:0], sign-extended. -/
def Fields.imm24 (f : Fields) : W64 := (f.mi.extractLsb' 0 24).signExtend 64
/-- M1: AF [28] (R237). -/
def Fields.af1 (f : Fields) : Bool := f.bit 28
/-- M3: AF [17] of gathers, scatters and atomics. -/
def Fields.af3 (f : Fields) : Bool := f.bit 17
/-- M1: SZ [26:24] (R241). -/
def Fields.sz (f : Fields) : BitVec 3 := f.mi.extractLsb' 24 3
/-- M1: MK [26:24] (R242). -/
def Fields.mk1 (f : Fields) : Fin 8 := (f.mi.extractLsb' 24 3).toFin
/-- The post-increment address mode (R238). -/
def Fields.post (f : Fields) : Bool := f.c ≠ .none

/-- The bits of MI outside `mask` are zero (R42). -/
def Fields.only (f : Fields) (mask : BitVec 32) : Bool := f.mi &&& ~~~mask == 0

/-! ### Operand classes (R39) -/

def Opd.isG : Opd → Bool | .g _ => true | _ => false
def Opd.isV : Opd → Bool | .v _ => true | _ => false
def Opd.isC : Opd → Bool | .c _ => true | _ => false
def Opd.isM : Opd → Bool | .m _ => true | _ => false
def Opd.isZ : Opd → Bool | .z _ => true | _ => false
def Opd.isCr : Opd → Bool | .cr _ => true | _ => false
def Opd.isImm : Opd → Bool | .imm _ => true | _ => false
def Opd.isNone : Opd → Bool | .none => true | _ => false
def Opd.isGI (o : Opd) : Bool := o.isG || o.isImm
def Opd.isGN (o : Opd) : Bool := o.isG || o.isNone
def Opd.isGIN (o : Opd) : Bool := o.isG || o.isImm || o.isNone
def Opd.isVGI (o : Opd) : Bool := o.isV || o.isG || o.isImm
/-- An even g register, naming a pair (R172). -/
def Opd.isGEven : Opd → Bool | .g n => n.val % 2 == 0 | _ => false
/-- A v register whose index is a multiple of `k`. -/
def Opd.isVMul (k : Nat) : Opd → Bool | .v n => n.val % k == 0 | _ => false
def Opd.isLoop : Opd → Bool | .cr .lc0 => true | .cr .lc1 => true | _ => false

/-- The three operand fields accept the classes given. -/
def Fields.opds (f : Fields) (a b c : Opd → Bool) : Bool := a f.a && b f.b && c f.c

end Sys2Proof

namespace Sys2Proof.Machine

/-! ### Type codes (R45, R78, R126) -/

/-- TY names a float format. -/
def tyFloat (t : BitVec 4) : Bool := 4 ≤ t && t ≤ 9
/-- TY names an integer format (INT8, NAT8, INT32, INT16, INT64). -/
def tyInt (t : BitVec 4) : Bool := t == 1 || t == 2 || (0xA ≤ t && t ≤ 0xC)
/-- The codes R45 defines. -/
def tyAny (t : BitVec 4) : Bool := t ≤ 0xC
/-- Element width in bits (R126). -/
def tyWidth (t : BitVec 4) : Nat :=
  if t == 3 then 2 else if t == 6 then 4 else if t == 7 || t == 8 || t == 0xB then 16
  else if t == 9 || t == 0xA then 32 else if t == 0xC then 64 else 8
/-- The BF16, FP16 and FP32 codes. -/
def ty789 (t : BitVec 4) : Bool := 7 ≤ t && t ≤ 9

/-- Control registers whose write raises cause 0x01 in any mode: RO and SRO of R68 and R319. -/
def readOnlyCsr : Csr → Bool
  | .rank | .coord | .ctxid | .vl | .cyc | .unack | .gen | .dflags | .pcause | .fid | .fthr | .fcurb => true
  | _ => false

/-! ### What each form accepts -/

/-- The binary mould (R100) with destination class `d`. -/
def binLegal (d : Opd → Bool) (f : Fields) : Bool :=
  f.opds d Opd.isG (fun c => c.isGI || c.isNone) && (f.c.isNone || f.mi == 0)

/-- An instruction that performs no rounding carries RND 7 (R127). -/
def noRound (f : Fields) : Bool := f.rnd == 7
/-- One that rounds accepts every code but 6 (R44). -/
def mayRound (f : Fields) : Bool := f.rnd != 6

/-- TY, RND, MK and ZR: the common bits of a masked vector instruction (R127). -/
def vMask : BitVec 32 := 0x203FF
/-- Without ZR. -/
def uMask : BitVec 32 := 0x3FF

def vecBin (f : Fields) (rounds : Bool) : Bool :=
  f.opds Opd.isV Opd.isV Opd.isVGI && f.only vMask && ty789 f.ty && (if rounds then mayRound f else noRound f)
def vecUn (f : Fields) (rounds : Bool) : Bool :=
  f.opds Opd.isV Opd.isV Opd.isNone && f.only vMask && ty789 f.ty && (if rounds then mayRound f else noRound f)
def tyViadd (t : BitVec 4) : Bool := t == 1 || t == 2 || (0xA ≤ t && t ≤ 0xC)
def vecInt (f : Fields) (extra : BitVec 32) (bitwise : Bool) : Bool :=
  f.opds Opd.isV Opd.isV Opd.isVGI && f.only (vMask ||| extra) && noRound f && (tyViadd f.ty || (bitwise && f.ty == 0))
def maskOp (f : Fields) : Bool :=
  f.opds Opd.isM Opd.isM Opd.isM && f.only (0x70 ||| 0x60000) && noRound f
def jetLegal (f : Fields) (b c : Opd → Bool) (rounds : Bool) (extra : BitVec 32) : Bool :=
  f.opds Opd.isV b c && f.only (vMask ||| extra) && (f.ty == 7 || f.ty == 9) && (if rounds then mayRound f else noRound f)

/-- The slice number of `vcvt` and `vquant` lies below the width ratio (R145). -/
def partOk (f : Fields) : Bool :=
  let ws := tyWidth f.from_; let wd := tyWidth f.ty
  decide (f.part < max ws wd / min ws wd)

/-- An M1 memory form: address mode of R238, the modifier bits of `mask`, and no register named as data and base of a
post-increment. -/
def memLegal (f : Fields) (a : Opd → Bool) (mask : BitVec 32) : Bool :=
  f.opds a Opd.isG Opd.isGN && f.only (mask ||| 0xFFFFFF) && (f.c.isNone || (f.c == f.b && f.a != f.b))

/-- An atomic's modifier (R247). -/
def ordLegal (f : Fields) : Bool :=
  decide (f.sc ≤ 4) && (f.ordAcq || f.ordRel || f.sc == 0) && (f.ordRel || !f.xq)
def atomLegal (f : Fields) (tys : BitVec 4 → Bool) : Bool :=
  f.opds Opd.isGN Opd.isG Opd.isGI && f.only 0x37C0F && tys f.ty && ordLegal f
def tyAC (t : BitVec 4) : Bool := t == 0xA || t == 0xC

/-- The mode pair of `amma` (R176). -/
def ammaPair (a b : BitVec 4) : Bool :=
  ((a == 7 || a == 8) && (b == 7 || b == 8)) || ((a == 4 || a == 5) && (b == 4 || b == 5)) ||
  (a == 6 && b == 6) || (a == 3 && b == 1) || (a == 0 && b == 0)

/-- The signature of a contribution (R28) and its operand (R281). R28 has a bad signature trap at issue, R281 at decode: the model
takes R281, so the trap comes whatever the guard holds (DESIGN CHOICE, log 78). -/
def sigLegal (sig : BitVec 32) (src : Opd) : Bool :=
  let opn := (sig.extractLsb' 0 8).toNat; let ty := (sig.extractLsb' 8 8).toNat
  let cnt := (sig.extractLsb' 16 5).toNat; let sc := (sig.extractLsb' 21 3).toNat
  decide (opn ≤ 6) && (ty == 9 || ty == 10 || (ty == 0 && (opn == 0 || decide (4 ≤ opn)))) &&
  (if opn == 0 then cnt == 0 else decide (1 ≤ cnt) && decide (cnt ≤ 16)) &&
  decide (1 ≤ sc) && decide (sc ≤ 3) && sig.extractLsb' 24 8 == 0 &&
  (match src with | .v _ => decide (1 ≤ cnt) | .g _ => cnt == 1 | _ => opn == 0)

/-- `send` and `sendr` (R267, R268). -/
def sendLegal (f : Fields) : Bool :=
  f.opds Opd.isG Opd.isGN Opd.isNone && f.only 0xF0FFF &&
  (match f.b with
   | .g n => decide (1 ≤ f.bits 16 4) && decide (f.bits 16 4 ≤ 14) && decide (n.val + f.bits 16 4 ≤ 16)
   | _ => f.bits 16 4 == 0)

/-- `qcfg` with selector `sel` (R312). -/
def qcfgLegal (f : Fields) (sel : Nat) (b : Opd → Bool) : Bool :=
  f.only 0x3E0000 && f.bits 17 4 == sel && f.a.isGN && b f.b && (if f.bit 21 then f.c.isNone else f.c.isGI)

/-- `crd` with selector `sel` (R366). -/
def crdLegal (f : Fields) (sel : Nat) : Bool :=
  f.opds Opd.isG Opd.isGI Opd.isNone && f.only 0xE0000 && f.bits 17 3 == sel

def waitLegal (f : Fields) (cond : Nat) (b : Opd → Bool) : Bool :=
  f.opds Opd.isNone b Opd.isNone && f.only 0xE0000 && f.bits 17 3 == cond

def fdoneLegal (f : Fields) (act : Nat) : Bool :=
  f.opds Opd.isNone Opd.isNone Opd.isNone && f.only 0x60000 && f.bits 17 2 == act

def genLegal (f : Fields) (opg : Nat) (a b c : Opd → Bool) : Bool :=
  f.opds a b c && f.only 0x60000 && f.bits 17 2 == opg

/-- The type and operation pairs of `fsto` (R338). -/
def fstoPair (opf : Nat) (ty : BitVec 4) : Bool :=
  if opf == 0 || opf == 7 then ty == 0 else if decide (opf ≤ 3) then ty == 9 || ty == 0xA else ty == 0xA

/-- The word of an instruction breaks none of the kind-independent checks of R46: classes and indexes (R40), reserved
codes and bits (R42, R43), and writes of read-only control registers (R67). An event is no word. -/
def legal : Instr → Bool
  | .nop f => f.opds Opd.isNone Opd.isNone Opd.isNone && f.mi == 0
  | .add f | .sub f | .mul f | .mulh f | .mulhn f | .div f | .divn f | .remI f | .remn f | .andI f | .orI f | .xorI f
  | .andn f | .shl f | .shr f | .sra f | .minI f | .maxI f | .minn f | .maxn f => binLegal Opd.isG f
  | .clz f | .ctz f | .popc f => f.opds Opd.isG Opd.isG Opd.isNone && f.mi == 0
  | .extI f => f.opds Opd.isG Opd.isG Opd.isNone && f.only 0x3FFE0000 && decide (f.bits 17 6 + f.bits 23 6 ≤ 63)
  | .li f | .lih f => f.opds Opd.isG Opd.isNone Opd.isNone
  | .sel f => f.opds Opd.isG Opd.isGI Opd.isGI && f.only 0x1E0000
  | .mkadr f => f.opds Opd.isG Opd.isG Opd.isGI && f.only 0x20000
  | .adrx f => f.opds Opd.isG Opd.isG Opd.isNone && f.only 0x60000 && f.bits 17 2 != 3
  | .ceq f | .cne f | .clt f | .cle f | .cltn f | .clen f => binLegal Opd.isC f
  | .cand f | .cor f | .cxor f => f.opds Opd.isC Opd.isC Opd.isC && f.only 0x60000
  | .cset f => (f.opds Opd.isC Opd.isGI Opd.isNone || f.opds Opd.isNone Opd.isG Opd.isNone) && f.mi == 0
  | .cget f => f.opds Opd.isG (fun b => b.isC || b.isNone) Opd.isNone && f.mi == 0
  | .br f => f.opds Opd.isNone Opd.isNone Opd.isNone
  | .jr f | .ret f => f.opds Opd.isNone Opd.isG Opd.isNone && f.mi == 0
  | .call f => f.opds Opd.isG Opd.isNone Opd.isNone
  | .callr f => f.opds Opd.isG Opd.isG Opd.isNone && f.mi == 0
  | .loopI f => f.opds Opd.isLoop Opd.isGI Opd.isNone && decide (1 ≤ f.mi.toNat) && decide (f.mi.toNat < 2 ^ 31)
  | .lbrk f => f.opds Opd.isLoop Opd.isNone Opd.isNone && f.mi == 0
  | .doneI f => f.opds Opd.isNone Opd.isNone Opd.isNone && f.only 0x11C00 && decide (f.sc ≤ 4)
  | .waitUnack f => waitLegal f 0 Opd.isNone
  | .waitEng f => waitLegal f 1 Opd.isNone
  | .waitAll f => waitLegal f 2 Opd.isNone
  | .waitTime f => waitLegal f 3 Opd.isGI
  | .halt f | .eret f => f.opds Opd.isNone Opd.isNone Opd.isNone && f.mi == 0
  | .csrr f => f.opds Opd.isG Opd.isCr Opd.isNone && f.mi == 0
  | .csrw f | .csrs f | .csrc f =>
    f.opds Opd.isCr Opd.isGI Opd.isGN && f.mi == 0 && (match f.a with | .cr r => !readOnlyCsr r | _ => false)
  | .sysI f | .brk f => f.opds Opd.isNone Opd.isNone Opd.isNone
  | .vadd f | .vsub f | .vmul f | .vfma f | .vfms f | .vfnm f | .vdiv f => vecBin f true
  | .vmin f | .vmax f => vecBin f false
  | .vabs f | .vneg f => vecUn f false
  | .vsqrt f | .vrcp f | .vrsq f | .vexp f | .vlog f | .vsin f | .vcos f | .vtanh f | .vsigm f => vecUn f true
  | .vcmp f =>
    f.opds (fun a => a.isM || a.isC) Opd.isV Opd.isVGI && f.only 0x3E03FF && noRound f && (tyInt f.ty || ty789 f.ty) &&
    f.bits 18 3 != 7 && (f.bits 18 3 != 6 || tyFloat f.ty) && (if f.a.isC then !f.zr else !f.bit 21)
  | .vsel f => f.opds Opd.isV Opd.isV Opd.isV && f.only uMask && noRound f && f.ty == 0
  | .vbound f => f.opds Opd.isM Opd.isGI Opd.isGI && f.only 0x7F && noRound f && tyAny f.ty
  | .vwidth f => f.opds Opd.isG Opd.isNone Opd.isNone && f.only 0x7F && noRound f && tyAny f.ty
  | .vsplat f =>
    f.opds Opd.isV Opd.isGI Opd.isNone && f.only vMask && tyAny f.ty &&
    (if tyFloat f.ty && f.b.isImm then mayRound f else noRound f) &&
    (match f.b with | .imm x => f.ty != 3 || x == 0 || x == 1 || x == -1 | _ => true)
  | .vins f =>
    f.only 0x2007F && noRound f && tyAny f.ty && f.opds Opd.isV Opd.isG (fun c => if f.bit 17 then c.isNone else c.isGI)
  | .vextr f =>
    f.only 0x2007F && noRound f && tyAny f.ty && f.opds Opd.isG Opd.isV (fun c => if f.bit 17 then c.isNone else c.isGI)
  | .vperm f => f.opds Opd.isV Opd.isV Opd.isV && f.only vMask && noRound f && tyAny f.ty && f.ty != 3 && f.ty != 6
  | .vslide f => f.opds Opd.isV Opd.isV Opd.isGI && f.only vMask && noRound f && tyAny f.ty && f.ty != 3 && f.ty != 6
  | .vred f =>
    f.opds Opd.isG Opd.isV Opd.isNone && f.only 0x1E03FF && (tyInt f.ty || ty789 f.ty) && decide (f.bits 17 3 ≤ 5) &&
    (decide (f.bits 17 3 ≤ 2) || tyInt f.ty) && (!f.bit 20 || (f.bits 17 3 == 0 && tyInt f.ty)) &&
    (if f.bits 17 3 == 0 && tyFloat f.ty then mayRound f else noRound f)
  | .vcvt f =>
    f.opds Opd.isV Opd.isV Opd.isNone && f.only 0xFFE03FF && mayRound f && tyAny f.ty && f.ty != 0 && tyAny f.from_ &&
    f.from_ != 0 && partOk f
  | .vquant f =>
    f.opds Opd.isV Opd.isV (fun c => c.isV || c.isG) && f.only 0x7FE03FF && mayRound f &&
    (f.ty == 1 || (3 ≤ f.ty && f.ty ≤ 6)) && ty789 f.from_ && partOk f
  | .vqmax f => f.opds Opd.isV Opd.isV Opd.isGI && f.only 0x1C03FF && noRound f && ty789 f.ty && decide (f.bits 18 3 ≤ 4)
  | .vcomp f | .vexpd f =>
    f.opds Opd.isV Opd.isV Opd.isNone && f.only 0x7F && noRound f &&
    (f.ty == 1 || f.ty == 2 || f.ty == 4 || f.ty == 5 || (7 ≤ f.ty && f.ty ≤ 0xA))
  | .viadd f | .visub f | .vimul f => vecInt f 0x40000 false
  | .vand f | .vor f | .vxor f => vecInt f 0 true
  | .vshl f => vecInt f 0 false
  | .vshr f => vecInt f 0x80000 false
  | .vmov f => f.opds Opd.isV Opd.isV Opd.isNone && f.mi == 0x70
  | .mand f | .mor f | .mxor f => maskOp f
  | .mcnt f => f.opds Opd.isG Opd.isM Opd.isNone && f.only 0x7F && noRound f && tyAny f.ty
  | .jseed f => jetLegal f Opd.isV (fun c => c.isVGI || c.isNone) false 0
  | .jconst f => jetLegal f Opd.isVGI Opd.isNone false 0
  | .jget f => jetLegal f Opd.isV Opd.isGI (f.bit 18) 0x40000
  | .jset f | .jshift f | .jtrunc f => jetLegal f Opd.isV Opd.isGI false 0
  | .jdiff f => jetLegal f Opd.isV Opd.isNone true 0
  | .jint f => jetLegal f Opd.isV (fun c => c.isVGI || c.isNone) true 0
  | .amma f =>
    f.opds Opd.isZ (fun b => b.isGEven || b.isVMul 4)
      (fun c => c.isGEven || c.isVMul (if f.ty == 3 then 16 else 4)) &&
    f.only 0x3E800F && ammaPair f.ty f.from_ && (f.ty != 3 || !f.bit 17)
  | .azero f => f.opds Opd.isZ Opd.isNone Opd.isNone && f.mi == 0
  | .ald f => f.opds Opd.isZ Opd.isGEven Opd.isNone && f.only 0x8000
  | .ast f => f.opds Opd.isGEven Opd.isZ Opd.isNone && f.only 0xF && (f.ty == 9 || f.ty == 0xA)
  | .arow f => f.opds Opd.isV Opd.isZ Opd.isGI && f.only 0x20380
  | .adrain f =>
    f.opds Opd.isG Opd.isZ Opd.isGN && f.only 0x3FFE000F && (f.ty == 9 || f.ty == 0xA || f.ty == 7) &&
    (!f.bit 17 || (f.bits 18 12 == 0 && f.c.isNone))
  | .ascale f => f.opds Opd.isZ Opd.isZ Opd.isV && f.only 0x3E000F && f.ty == 9 && (f.from_ == 9 || f.from_ == 0xA)
  | .ld f => memLegal f Opd.isG 0x17000000 && f.sz != 7
  | .st f => memLegal f Opd.isG 0x17000000 && !f.bit 24
  | .vld f => memLegal f Opd.isV 0x3F000000 && (!f.bit 27 || !f.af1)
  | .vst f => memLegal f Opd.isV 0x17000000
  | .vldx f =>
    f.opds Opd.isV Opd.isG Opd.isV && f.only 0x1E838F && (f.ty == 9 || tyAC f.ty) && (!f.fw || !f.af3)
  | .vstx f => f.opds Opd.isV Opd.isG Opd.isV && f.only 0xE038F && (f.ty == 9 || tyAC f.ty)
  | .ldblk f | .stblk f => memLegal f Opd.isV 0x11000000
  | .ldmeta f | .stmeta f => memLegal f Opd.isG 0x10000000
  | .phase f => f.opds Opd.isNone Opd.isNone Opd.isNone && f.only 0x11C00 && decide (f.sc ≤ 4)
  | .fence f => f.opds Opd.isNone Opd.isNone Opd.isNone && f.only 0x1C00 && decide (f.sc ≤ 4)
  | .aadd f | .aand f | .aor f | .axor f | .amin f | .amax f | .axchg f => atomLegal f tyAC
  | .acas f => atomLegal f tyAC && f.a.isG
  | .afadd f => atomLegal f (fun t => t == 9)
  | .ablk f =>
    f.opds (fun a => a.isV || a.isNone) Opd.isG Opd.isV && f.only 0x1F7C0F && ordLegal f && f.bits 18 3 != 7 &&
    (f.ty == 0xA || (f.ty == 9 && (f.bits 18 3 == 0 || decide (4 ≤ f.bits 18 3))))
  | .pref f => memLegal f Opd.isNone 0x13000000 && !f.bit 25 && f.af1
  | .fset f | .fclr f => f.opds Opd.isNone Opd.isG Opd.isGI && f.only 0xFFFFFF
  | .send f | .sendr f => sendLegal f
  | .hop f => f.opds Opd.isNone Opd.isG Opd.isNone && f.only 0x20000
  | .dcopy f => f.opds Opd.isG Opd.isG Opd.isGI && f.only 0x400E8000
  | .dgath f =>
    f.opds Opd.isG Opd.isGEven Opd.isGN && f.only 0x7FFE800F && (f.ty == 7 || f.ty == 9 || f.ty == 0xA) &&
    decide (1 ≤ f.bits 24 5) && decide (f.bits 24 5 ≤ 16)
  | .dscad f => f.opds Opd.isGEven Opd.isG Opd.isGN && f.only 0x20FC800F && (f.ty == 9 || f.ty == 0xA)
  | .slacqP f => f.opds Opd.isG Opd.isG Opd.isNone && f.mi == 0
  | .slacqC f => f.a.isG && (match f.b with | .imm x => x.toNat < 8 | _ => false) && f.c.isNone && f.mi == 0x20000
  | .slrel f => f.opds Opd.isNone Opd.isGI Opd.isNone && f.mi == 0
  | .slinit f =>
    f.opds Opd.isG Opd.isG Opd.isGI && f.only 0x7FE0000 &&
    (match f.c with | .imm x => decide (1 ≤ x.toNat) && decide (x.toNat ≤ 64) | _ => true)
  | .tjoin f => f.opds Opd.isNone (fun b => b.isV || b.isG || b.isNone) Opd.isNone && sigLegal f.mi f.b
  | .tread f => f.opds (fun a => a.isV || a.isG || a.isNone) Opd.isNone Opd.isNone && f.mi == 0
  | .bar f => f.opds Opd.isNone Opd.isNone Opd.isNone && f.only 0x1C00 && decide (1 ≤ f.sc) && decide (f.sc ≤ 4)
  | .qfence f => f.opds Opd.isNone Opd.isNone Opd.isNone && f.only 0xE0000 && f.mi != 0
  | .carm f =>
    f.opds Opd.isG (fun b => match b with | .g n => n.val % 4 == 0 | _ => false) (fun c => c.isGEven || c.isNone) &&
    f.only 0x1E0000 && f.bits 17 2 != 3 && (f.bits 17 2 != 2 || f.c.isNone)
  | .cdis f => f.opds Opd.isGN Opd.isG Opd.isNone && f.mi == 0
  | .crdCnt f => crdLegal f 0
  | .crdStat f => crdLegal f 1
  | .crdStatW f => f.opds Opd.isG Opd.isGI Opd.isG && f.only 0x1E1C00 && f.bits 17 4 == 9 && decide (f.sc ≤ 4)
  | .crdTot f => crdLegal f 2
  | .crdCons f => crdLegal f 3
  | .crdProd f => crdLegal f 4
  | .crdFab f => crdLegal f 5
  | .crdMon f => crdLegal f 6
  | .cadd f => f.opds Opd.isNone Opd.isG Opd.isGI && f.mi == 0
  | .pcrd f => f.opds Opd.isG Opd.isGI Opd.isNone && f.mi == 0
  | .pccfg f => f.opds Opd.isGN Opd.isGI Opd.isG && f.mi == 0
  | .rtset f =>
    f.opds Opd.isNone (fun b => match b with | .g n => n.val ≤ 13 | _ => false) Opd.isGI && f.mi == 0
  | .rtget f => f.opds Opd.isG Opd.isNone Opd.isGI && f.only 0x60000 && f.bits 17 2 != 3
  | .rkset f => f.opds Opd.isNone Opd.isG Opd.isG && f.mi == 0
  | .rkmovHold f => f.opds Opd.isNone Opd.isG Opd.isNone && f.mi == 0
  | .rkmovRel f => f.opds Opd.isNone Opd.isG Opd.isG && f.mi == 0x20000
  | .tlbinvPage f => f.opds Opd.isNone Opd.isG Opd.isNone && f.only 0x1C00 && (f.sc == 2 || f.sc == 3)
  | .tlbinvAll f => f.opds Opd.isNone Opd.isNone Opd.isNone && f.only 0x21C00 && f.bit 17 && (f.sc == 2 || f.sc == 3)
  | .fbrd f => f.opds Opd.isG Opd.isNone Opd.isGI && f.mi == 0
  | .replay f => f.opds Opd.isGN Opd.isNone Opd.isNone && f.only 0x1C00 && (f.sc == 2 || f.sc == 3)
  | .replayDeny f => f.opds Opd.isGN Opd.isNone Opd.isNone && f.only 0x21C00 && f.bit 17 && (f.sc == 2 || f.sc == 3)
  | .pgownHost f => f.opds Opd.isNone Opd.isGI Opd.isNone && f.mi == 0x20000
  | .pgownDev f => f.opds Opd.isNone Opd.isGI Opd.isNone && f.mi == 0
  | .htset f => f.opds Opd.isNone Opd.isGI Opd.isG && f.mi == 0
  | .genAck f => genLegal f 0 Opd.isG Opd.isNone Opd.isNone
  | .genRd f => genLegal f 1 Opd.isG Opd.isNone Opd.isNone
  | .genRet f => genLegal f 2 Opd.isG Opd.isG Opd.isGI
  | .genFree f => genLegal f 3 Opd.isNone Opd.isGI Opd.isNone
  | .qcfgFuse f => qcfgLegal f 0 Opd.isGI
  | .qcfgRoot f => qcfgLegal f 1 Opd.isNone
  | .qcfgMemb f => qcfgLegal f 2 Opd.isGI
  | .qcfgRankt f => qcfgLegal f 3 Opd.isGI
  | .qcfgHtab f => qcfgLegal f 4 Opd.isNone
  | .qcfgCplan f => qcfgLegal f 5 Opd.isGI
  | .qcfgFeat f => qcfgLegal f 6 Opd.isGI && f.bit 21
  | .frzOn f => f.opds Opd.isNone Opd.isG Opd.isNone && f.mi == 0
  | .frzOff f => f.opds Opd.isNone Opd.isG Opd.isNone && f.mi == 0x20000
  | .pdoneSave f => f.opds Opd.isNone Opd.isGN Opd.isNone && f.mi == 0
  | .pdoneRest f => f.opds Opd.isNone Opd.isGN Opd.isNone && f.mi == 0x20000
  | .fdoneRes f => fdoneLegal f 0
  | .fdoneSat f => fdoneLegal f 1
  | .fdoneDeny f => fdoneLegal f 2
  | .fdoneHold f => fdoneLegal f 3
  | .tagrd f => f.opds Opd.isG Opd.isG Opd.isGI && f.mi == 0
  | .tagwr f => f.opds Opd.isNone Opd.isG Opd.isGI && f.only 0xE0000
  | .dirrd f => f.opds Opd.isGEven Opd.isG Opd.isNone && f.mi == 0
  | .dirwr f => f.opds (fun a => a.isC || a.isNone) Opd.isG Opd.isGEven && f.mi == 0
  | .btx f => f.opds Opd.isG Opd.isG Opd.isGI && f.mi == 0
  | .frep f => f.opds Opd.isG Opd.isGI Opd.isNone && f.only 0x20000
  | .freq f => f.opds Opd.isGN Opd.isG Opd.isG && f.only 0x1FE0000
  | .fwake f => f.opds Opd.isNone Opd.isG Opd.isNone && f.mi == 0
  | .fpoison f => f.opds Opd.isNone Opd.isG Opd.isGI && f.mi == 0
  | .fblk f => f.opds Opd.isGN Opd.isNone Opd.isNone && f.mi == 0
  | .fsto f => f.opds Opd.isG Opd.isG Opd.isGN && f.only 0xE000F && fstoPair (f.bits 17 3) f.ty
  | .gapCountExpiry _ _ | .messageArrival _ _ | .hopMessageArrival _ _ | .refusal _ _ | .backoffRetry _ _
  | .contextFreeNotice _ _ | .reservationLapse _ _ | .contextFree _ _ | .messageAcceptance _ _
  | .forwardedLoadReply _ _ | .accessReply _ _ | .storeAck _ _ | .tagReply _ _ | .replyFaultEntry _ _
  | .interruptEntry _ | .releaseComplete _ | .fabricIntervalConfirm _ _ _ | .dflagsUpdate _ _ | .anvilEntryStart _
  | .anvilEntryComplete _ _ | .drainWakeup _ _ | .drayEntryStart _ | .drayFaultReport _ | .remoteWritePerformed _ _
  | .remoteLoadRequest _ _ _ | .atomicAtHome _ _ | .countedStore _ _ _ | .countMessage _ _ | .counterFire _
  | .launchEnqueue _ | .slotFilled _ _ | .slotReturn _ _ | .slinitRecord _ _ | .treeInject _ | .treeResult _ _
  | .barrierComplete _ _ | .vqmaxContribution _ _ | .translationWalk _ _ _ _ | .accessPark _ _ _ | .farrierDispatch _
  | .gets _ _ | .getx _ _ | .wrI _ _ | .atI _ _ | .rgets _ _ | .rgetx _ _ | .rwr _ _ | .inv _ _ | .fwd _ _ | .wbk _ _
  | .push _ _ | .upd _ _ | .hsnp _ _ | .customRequest _ _ | .initI _ _ | .rebind _ _ | .rcv _ _ | .farrierReply _
  | .curbKill _ _ | .curbWaitTimeout _ _ | .jobTeardown _ | .uncorrectableError _ | .preemptRequest _ _
  | .timeSliceExpiry _ | .preemptLocalCopy _ | .saveEntry _ | .preemptImageCopy _ | .resumeRequest _
  | .resumeWriteback _ | .coreResume _ | .hostWindowRead _ _ _ | .hostWindowWrite _ _ _ _ | .hostSnoop _ _ _
  | .featureAcceptWrite _ _ _ | .preqWrite _ _ _ | .winWrite _ _ _ | .barRegisterWrite _ _ _ | .uploadFirmware _
  | .loadHandlerSet _ | .submitCodeObject _ | .attest _ | .imageLoadRequest _ _ | .deviceReset _ _
  | .functionLevelReset _ _ | .frequencyStepDown _ _ _ | .frequencyStepUp _ _ _ | .thermalPreempt _ _
  | .thermalTrip _ _ | .platformEvent _ _ _ | .assayRun _ _ _ | .carrierRetuneComplete _ _ | .carrierUp _ _
  | .fabricFrame _ _ _ | .frameNak _ _ | .carrierDown _ _ | .powerLoss _ | .correctedSoftError _ _
  | .waitTimeDeadline _ _ | .instructionCompletion _ _ _ | .occupancyEnd _ _ | .tableInstructionComplete _ _
  | .windowRegistrationComplete _ _ => false

end Sys2Proof.Machine
end

