-- ==== Sys2Proof/WellFormed.lean ====
section
/-! DEFINITION. WellFormed.lean: which terms of `Instr` are instructions the device has: those whose word breaks no
check of R40, R42, R43 and R67. Events have no word. -/

namespace Sys2Proof

/-- The term is the reading of a legal word (R40, R42, R43, R46, R67). -/
abbrev WellFormed (i : Instr) : Prop := Machine.legal i = true

end Sys2Proof
end

