-- ==== Sys2Proof/Decode.lean ====
section
/-! DEFINITION. Decode.lean: from the 96 bits of a word to an instruction, or to none where one of the checks of R46
that raise cause 0x01 fails; the encoder; and words written out from the encodings of the manual. Whether a word may
execute in the mode, on the processor kind and at the jet order at hand is decided by `wordCause` (Machine/Ops.lean). -/

namespace Sys2Proof

/-! ### Fields of the word (R36, R39, R68, R319) -/

/-- The number of a control register (R68, R319). -/
def csrNum : Csr → BitVec 9
  | .jord => 0x000
  | .fround => 0x001
  | .fflags => 0x002
  | .mmrev => 0x003
  | .srctr => 0x004
  | .jobseed => 0x005
  | .rank => 0x006
  | .coord => 0x007
  | .ctxid => 0x008
  | .vl => 0x009
  | .lc0 => 0x00A
  | .ls0 => 0x00B
  | .le0 => 0x00C
  | .lc1 => 0x00D
  | .ls1 => 0x00E
  | .le1 => 0x00F
  | .cyc => 0x010
  | .unack => 0x011
  | .gen => 0x012
  | .estat => 0x020
  | .epc => 0x021
  | .ecause => 0x022
  | .eaddr => 0x023
  | .evec => 0x024
  | .escratch => 0x025
  | .dflags => 0x026
  | .pcause => 0x027
  | .fid => 0x100
  | .fthr => 0x101
  | .fcurb => 0x102
  | .fdirb => 0x103
  | .fdirn => 0x104

/-- The control register of a number; the others are out of range (R39). -/
def csrOfNum (n : Nat) : Option Csr :=
  match n with
  | 0x000 => some .jord
  | 0x001 => some .fround
  | 0x002 => some .fflags
  | 0x003 => some .mmrev
  | 0x004 => some .srctr
  | 0x005 => some .jobseed
  | 0x006 => some .rank
  | 0x007 => some .coord
  | 0x008 => some .ctxid
  | 0x009 => some .vl
  | 0x00A => some .lc0
  | 0x00B => some .ls0
  | 0x00C => some .le0
  | 0x00D => some .lc1
  | 0x00E => some .ls1
  | 0x00F => some .le1
  | 0x010 => some .cyc
  | 0x011 => some .unack
  | 0x012 => some .gen
  | 0x020 => some .estat
  | 0x021 => some .epc
  | 0x022 => some .ecause
  | 0x023 => some .eaddr
  | 0x024 => some .evec
  | 0x025 => some .escratch
  | 0x026 => some .dflags
  | 0x027 => some .pcause
  | 0x100 => some .fid
  | 0x101 => some .fthr
  | 0x102 => some .fcurb
  | 0x103 => some .fdirb
  | 0x104 => some .fdirn
  | _ => none

/-- Class and index of an operand field (R39). -/
def encodeOpd : Opd → BitVec 12
  | .g n => 0b000#3 ++ BitVec.ofNat 9 n.val
  | .v n => 0b001#3 ++ BitVec.ofNat 9 n.val
  | .c n => 0b010#3 ++ BitVec.ofNat 9 n.val
  | .m n => 0b011#3 ++ BitVec.ofNat 9 n.val
  | .z n => 0b100#3 ++ BitVec.ofNat 9 n.val
  | .cr r => 0b101#3 ++ csrNum r
  | .imm x => 0b110#3 ++ x
  | .none => 0b111#3 ++ 0#9

/-- An operand field, none where the index lies outside the limit of its class (R39, R40). -/
def decodeOpd (w : BitVec 12) : Option Opd :=
  let i := (w.extractLsb' 0 9).toNat
  match (w.extractLsb' 9 3).toNat with
  | 0 => if h : i < 16 then some (.g ⟨i, h⟩) else none
  | 1 => if h : i < 32 then some (.v ⟨i, h⟩) else none
  | 2 => if h : i < 8 then some (.c ⟨i, h⟩) else none
  | 3 => if h : i < 8 then some (.m ⟨i, h⟩) else none
  | 4 => if h : i < 4 then some (.z ⟨i, h⟩) else none
  | 5 => (csrOfNum i).map .cr
  | 6 => some (.imm (w.extractLsb' 0 9))
  | _ => if i = 0 then some .none else none

/-- G, L, S, GAP and HINT: bits [85:70] (R36). -/
def encodeHdr (h : Hdr) : BitVec 16 :=
  BitVec.ofBool h.neg ++ BitVec.ofNat 3 h.gc.val ++ h.look ++ BitVec.ofBool h.sw ++ h.gap ++ h.hint

def decodeHdr (w : BitVec 16) : Hdr where
  neg := w.getLsbD 15
  gc := (w.extractLsb' 12 3).toFin
  look := w.extractLsb' 8 4
  sw := w.getLsbD 7
  gap := w.extractLsb' 4 3
  hint := w.extractLsb' 0 4

/-- The word with opcode `op`, EXT zero (R36). -/
def encodeWord (op : BitVec 10) (f : Fields) : BitVec 96 :=
  op ++ encodeHdr f.hd ++ 0#2 ++ encodeOpd f.a ++ encodeOpd f.b ++ encodeOpd f.c ++ f.mi

/-! ### The opcode map (R50) -/

/-- The fields of an instruction word; an event has none. -/
def Instr.fields : Instr → Option Fields
  | .nop f | .add f | .sub f | .mul f | .mulh f | .mulhn f | .div f | .divn f | .remI f | .remn f | .andI f | .orI f
  | .xorI f | .andn f | .shl f | .shr f | .sra f | .minI f | .maxI f | .minn f | .maxn f | .clz f | .ctz f | .popc f
  | .extI f | .li f | .lih f | .sel f | .mkadr f | .adrx f | .ceq f | .cne f | .clt f | .cle f | .cltn f | .clen f
  | .cand f | .cor f | .cxor f | .cset f | .cget f | .br f | .jr f | .call f | .callr f | .ret f | .loopI f | .lbrk f
  | .doneI f | .waitUnack f | .waitEng f | .waitAll f | .waitTime f | .halt f | .csrr f | .csrw f | .csrs f | .csrc f
  | .sysI f | .brk f | .eret f | .vadd f | .vsub f | .vmul f | .vfma f | .vfms f | .vfnm f | .vdiv f | .vmin f
  | .vmax f | .vabs f | .vneg f | .vsqrt f | .vrcp f | .vrsq f | .vexp f | .vlog f | .vsin f | .vcos f | .vtanh f
  | .vsigm f | .vcmp f | .vsel f | .vbound f | .vwidth f | .vsplat f | .vins f | .vextr f | .vperm f | .vslide f
  | .vred f | .vcvt f | .vquant f | .vqmax f | .vcomp f | .vexpd f | .viadd f | .visub f | .vimul f | .vand f
  | .vor f | .vxor f | .vshl f | .vshr f | .vmov f | .mand f | .mor f | .mxor f | .mcnt f | .jseed f | .jconst f
  | .jget f | .jset f | .jshift f | .jdiff f | .jint f | .jtrunc f | .amma f | .azero f | .ald f | .ast f | .arow f
  | .adrain f | .ascale f | .ld f | .st f | .vld f | .vst f | .vldx f | .vstx f | .ldblk f | .stblk f | .ldmeta f
  | .stmeta f | .phase f | .fence f | .aadd f | .aand f | .aor f | .axor f | .amin f | .amax f | .axchg f | .acas f
  | .afadd f | .ablk f | .pref f | .fset f | .fclr f | .send f | .sendr f | .hop f | .dcopy f | .dgath f | .dscad f
  | .slacqP f | .slacqC f | .slrel f | .slinit f | .tjoin f | .tread f | .bar f | .qfence f | .carm f | .cdis f
  | .crdCnt f | .crdStat f | .crdStatW f | .crdTot f | .crdCons f | .crdProd f | .crdFab f | .crdMon f | .cadd f
  | .pcrd f | .pccfg f | .rtset f | .rtget f | .rkset f | .rkmovHold f | .rkmovRel f | .tlbinvPage f | .tlbinvAll f
  | .fbrd f | .replay f | .replayDeny f | .pgownHost f | .pgownDev f | .htset f | .genAck f | .genRd f | .genRet f
  | .genFree f | .qcfgFuse f | .qcfgRoot f | .qcfgMemb f | .qcfgRankt f | .qcfgHtab f | .qcfgCplan f | .qcfgFeat f
  | .frzOn f | .frzOff f | .pdoneSave f | .pdoneRest f | .fdoneRes f | .fdoneSat f | .fdoneDeny f | .fdoneHold f
  | .tagrd f | .tagwr f | .dirrd f | .dirwr f | .btx f | .frep f | .freq f | .fwake f | .fpoison f | .fblk f
  | .fsto f => some f
  | .gapCountExpiry _ _ | .messageArrival _ _ | .hopMessageArrival _ _ | .refusal _ _ | .backoffRetry _ _
  | .contextFreeNotice _ _ | .reservationLapse _ _ | .contextFree _ _ | .messageAcceptance _ _
  | .forwardedLoadReply _ _ | .accessReply _ _ | .storeAck _ _ | .tagReply _ _ | .replyFaultEntry _ _
  | .interruptEntry _ | .releaseComplete _ | .fabricIntervalConfirm _ _ _ | .dflagsUpdate _ _ | .anvilEntryStart _
  | .anvilEntryComplete _ _ | .drainWakeup _ _ | .drayEntryStart _ | .drayFaultReport _ | .remoteWritePerformed _ _
  | .remoteLoadRequest _ _ _ | .atomicAtHome _ _ | .countedStore _ _ _ | .countMessage _ _ | .counterFire _
  | .launchEnqueue _ | .slotFilled _ _ | .slotReturn _ _ | .slinitRecord _ _ | .treeInject _ | .treeResult _ _
  | .barrierComplete _ _ | .vqmaxContribution _ _ | .translationWalk _ _ _ _ | .accessPark _ _ _ | .farrierDispatch _
  | .gets _ _ | .getx _ _ | .wrI _ _ | .atI _ _ | .rgets _ _ | .rgetx _ _ | .rwr _ _ | .inv _ _ | .fwd _ _ | .wbk _ _
  | .push _ _ | .upd _ _ | .hsnp _ _ | .customRequest _ _ | .initI _ _ | .rebind _ _ | .rcv _ _ | .farrierReply _
  | .curbKill _ _ | .curbWaitTimeout _ _ | .jobTeardown _ | .uncorrectableError _ | .preemptRequest _ _
  | .timeSliceExpiry _ | .preemptLocalCopy _ | .saveEntry _ | .preemptImageCopy _ | .resumeRequest _
  | .resumeWriteback _ | .coreResume _ | .hostWindowRead _ _ _ | .hostWindowWrite _ _ _ _ | .hostSnoop _ _ _
  | .featureAcceptWrite _ _ _ | .preqWrite _ _ _ | .winWrite _ _ _ | .barRegisterWrite _ _ _ | .uploadFirmware _
  | .loadHandlerSet _ | .submitCodeObject _ | .attest _ | .imageLoadRequest _ _ | .deviceReset _ _
  | .functionLevelReset _ _ | .frequencyStepDown _ _ _ | .frequencyStepUp _ _ _ | .thermalPreempt _ _
  | .thermalTrip _ _ | .platformEvent _ _ _ | .assayRun _ _ _ | .carrierRetuneComplete _ _ | .carrierUp _ _
  | .fabricFrame _ _ _ | .frameNak _ _ | .carrierDown _ _ | .powerLoss _ | .correctedSoftError _ _
  | .waitTimeDeadline _ _ | .instructionCompletion _ _ _ | .occupancyEnd _ _ | .tableInstructionComplete _ _
  | .windowRegistrationComplete _ _ => none

/-- The opcode of a constructor (R50); an event has none, and 0x3FF is unassigned. -/
def Instr.opcode : Instr → BitVec 10
  | .nop _ => 0x000
  | .add _ => 0x001
  | .sub _ => 0x002
  | .mul _ => 0x003
  | .mulh _ => 0x004
  | .mulhn _ => 0x005
  | .div _ => 0x006
  | .divn _ => 0x007
  | .remI _ => 0x008
  | .remn _ => 0x009
  | .andI _ => 0x00A
  | .orI _ => 0x00B
  | .xorI _ => 0x00C
  | .andn _ => 0x00D
  | .shl _ => 0x00E
  | .shr _ => 0x00F
  | .sra _ => 0x010
  | .minI _ => 0x011
  | .maxI _ => 0x012
  | .minn _ => 0x013
  | .maxn _ => 0x014
  | .clz _ => 0x015
  | .ctz _ => 0x016
  | .popc _ => 0x017
  | .extI _ => 0x018
  | .li _ => 0x019
  | .lih _ => 0x01A
  | .sel _ => 0x01B
  | .mkadr _ => 0x01C
  | .adrx _ => 0x01D
  | .ceq _ => 0x01E
  | .cne _ => 0x01F
  | .clt _ => 0x020
  | .cle _ => 0x021
  | .cltn _ => 0x022
  | .clen _ => 0x023
  | .cand _ => 0x024
  | .cor _ => 0x025
  | .cxor _ => 0x026
  | .cset _ => 0x027
  | .cget _ => 0x028
  | .br _ => 0x040
  | .jr _ => 0x041
  | .call _ => 0x042
  | .callr _ => 0x043
  | .ret _ => 0x044
  | .loopI _ => 0x045
  | .lbrk _ => 0x046
  | .doneI _ => 0x047
  | .waitUnack _ | .waitEng _ | .waitAll _ | .waitTime _ => 0x048
  | .csrr _ => 0x049
  | .csrw _ => 0x04A
  | .csrs _ => 0x04B
  | .csrc _ => 0x04C
  | .sysI _ => 0x04D
  | .brk _ => 0x04E
  | .eret _ => 0x04F
  | .halt _ => 0x050
  | .vadd _ => 0x080
  | .vsub _ => 0x081
  | .vmul _ => 0x082
  | .vfma _ => 0x083
  | .vfms _ => 0x084
  | .vfnm _ => 0x085
  | .vdiv _ => 0x086
  | .vmin _ => 0x087
  | .vmax _ => 0x088
  | .vabs _ => 0x089
  | .vneg _ => 0x08A
  | .vsqrt _ => 0x08B
  | .vrcp _ => 0x08C
  | .vrsq _ => 0x08D
  | .vexp _ => 0x08E
  | .vlog _ => 0x08F
  | .vsin _ => 0x090
  | .vcos _ => 0x091
  | .vtanh _ => 0x092
  | .vsigm _ => 0x093
  | .vcmp _ => 0x094
  | .vsel _ => 0x095
  | .vbound _ => 0x096
  | .vwidth _ => 0x097
  | .vsplat _ => 0x098
  | .vins _ => 0x099
  | .vextr _ => 0x09A
  | .vperm _ => 0x09B
  | .vslide _ => 0x09C
  | .vred _ => 0x09D
  | .vcvt _ => 0x09E
  | .vquant _ => 0x09F
  | .vqmax _ => 0x0A0
  | .vcomp _ => 0x0A1
  | .vexpd _ => 0x0A2
  | .viadd _ => 0x0A3
  | .visub _ => 0x0A4
  | .vimul _ => 0x0A5
  | .vand _ => 0x0A6
  | .vor _ => 0x0A7
  | .vxor _ => 0x0A8
  | .vshl _ => 0x0A9
  | .vshr _ => 0x0AA
  | .vmov _ => 0x0AB
  | .mand _ => 0x0AC
  | .mor _ => 0x0AD
  | .mxor _ => 0x0AE
  | .mcnt _ => 0x0AF
  | .jseed _ => 0x0C0
  | .jconst _ => 0x0C1
  | .jget _ => 0x0C2
  | .jset _ => 0x0C3
  | .jshift _ => 0x0C4
  | .jdiff _ => 0x0C5
  | .jint _ => 0x0C6
  | .jtrunc _ => 0x0C7
  | .amma _ => 0x100
  | .azero _ => 0x101
  | .ald _ => 0x102
  | .ast _ => 0x103
  | .arow _ => 0x104
  | .adrain _ => 0x105
  | .ascale _ => 0x106
  | .ld _ => 0x140
  | .st _ => 0x141
  | .vld _ => 0x142
  | .vst _ => 0x143
  | .vldx _ => 0x144
  | .vstx _ => 0x145
  | .ldblk _ => 0x146
  | .stblk _ => 0x147
  | .ldmeta _ => 0x148
  | .stmeta _ => 0x149
  | .phase _ => 0x14A
  | .fence _ => 0x14B
  | .aadd _ => 0x14C
  | .aand _ => 0x14D
  | .aor _ => 0x14E
  | .axor _ => 0x14F
  | .amin _ => 0x150
  | .amax _ => 0x151
  | .axchg _ => 0x152
  | .acas _ => 0x153
  | .afadd _ => 0x154
  | .ablk _ => 0x155
  | .pref _ => 0x156
  | .fset _ => 0x157
  | .fclr _ => 0x158
  | .send _ => 0x180
  | .sendr _ => 0x181
  | .hop _ => 0x182
  | .dcopy _ => 0x183
  | .dgath _ => 0x184
  | .dscad _ => 0x185
  | .slacqP _ | .slacqC _ => 0x186
  | .slrel _ => 0x187
  | .slinit _ => 0x188
  | .tjoin _ => 0x189
  | .tread _ => 0x18A
  | .bar _ => 0x18B
  | .qfence _ => 0x18C
  | .carm _ => 0x1A0
  | .cdis _ => 0x1A1
  | .crdCnt _ | .crdStat _ | .crdStatW _ | .crdTot _ | .crdCons _ | .crdProd _ | .crdFab _ | .crdMon _ => 0x1A2
  | .cadd _ => 0x1A3
  | .pcrd _ => 0x1A4
  | .pccfg _ => 0x1A5
  | .rtset _ => 0x1C0
  | .rtget _ => 0x1C1
  | .rkset _ => 0x1C2
  | .rkmovHold _ | .rkmovRel _ => 0x1C3
  | .tlbinvPage _ | .tlbinvAll _ => 0x1C4
  | .fbrd _ => 0x1C5
  | .replay _ | .replayDeny _ => 0x1C6
  | .pgownHost _ | .pgownDev _ => 0x1C7
  | .htset _ => 0x1C8
  | .genAck _ | .genRd _ | .genRet _ | .genFree _ => 0x1C9
  | .qcfgFuse _ | .qcfgRoot _ | .qcfgMemb _ | .qcfgRankt _ | .qcfgHtab _ | .qcfgCplan _ | .qcfgFeat _ => 0x1CA
  | .frzOn _ | .frzOff _ => 0x1CB
  | .pdoneSave _ | .pdoneRest _ => 0x1CC
  | .fdoneRes _ | .fdoneSat _ | .fdoneDeny _ | .fdoneHold _ => 0x200
  | .tagrd _ => 0x201
  | .tagwr _ => 0x202
  | .dirrd _ => 0x203
  | .dirwr _ => 0x204
  | .btx _ => 0x205
  | .frep _ => 0x206
  | .freq _ => 0x207
  | .fwake _ => 0x208
  | .fpoison _ => 0x209
  | .fblk _ => 0x20A
  | .fsto _ => 0x20B
  | .gapCountExpiry _ _ | .messageArrival _ _ | .hopMessageArrival _ _ | .refusal _ _ | .backoffRetry _ _
  | .contextFreeNotice _ _ | .reservationLapse _ _ | .contextFree _ _ | .messageAcceptance _ _
  | .forwardedLoadReply _ _ | .accessReply _ _ | .storeAck _ _ | .tagReply _ _ | .replyFaultEntry _ _
  | .interruptEntry _ | .releaseComplete _ | .fabricIntervalConfirm _ _ _ | .dflagsUpdate _ _ | .anvilEntryStart _
  | .anvilEntryComplete _ _ | .drainWakeup _ _ | .drayEntryStart _ | .drayFaultReport _ | .remoteWritePerformed _ _
  | .remoteLoadRequest _ _ _ | .atomicAtHome _ _ | .countedStore _ _ _ | .countMessage _ _ | .counterFire _
  | .launchEnqueue _ | .slotFilled _ _ | .slotReturn _ _ | .slinitRecord _ _ | .treeInject _ | .treeResult _ _
  | .barrierComplete _ _ | .vqmaxContribution _ _ | .translationWalk _ _ _ _ | .accessPark _ _ _ | .farrierDispatch _
  | .gets _ _ | .getx _ _ | .wrI _ _ | .atI _ _ | .rgets _ _ | .rgetx _ _ | .rwr _ _ | .inv _ _ | .fwd _ _ | .wbk _ _
  | .push _ _ | .upd _ _ | .hsnp _ _ | .customRequest _ _ | .initI _ _ | .rebind _ _ | .rcv _ _ | .farrierReply _
  | .curbKill _ _ | .curbWaitTimeout _ _ | .jobTeardown _ | .uncorrectableError _ | .preemptRequest _ _
  | .timeSliceExpiry _ | .preemptLocalCopy _ | .saveEntry _ | .preemptImageCopy _ | .resumeRequest _
  | .resumeWriteback _ | .coreResume _ | .hostWindowRead _ _ _ | .hostWindowWrite _ _ _ _ | .hostSnoop _ _ _
  | .featureAcceptWrite _ _ _ | .preqWrite _ _ _ | .winWrite _ _ _ | .barRegisterWrite _ _ _ | .uploadFirmware _
  | .loadHandlerSet _ | .submitCodeObject _ | .attest _ | .imageLoadRequest _ _ | .deviceReset _ _
  | .functionLevelReset _ _ | .frequencyStepDown _ _ _ | .frequencyStepUp _ _ _ | .thermalPreempt _ _
  | .thermalTrip _ _ | .platformEvent _ _ _ | .assayRun _ _ _ | .carrierRetuneComplete _ _ | .carrierUp _ _
  | .fabricFrame _ _ _ | .frameNak _ _ | .carrierDown _ _ | .powerLoss _ | .correctedSoftError _ _
  | .waitTimeDeadline _ _ | .instructionCompletion _ _ _ | .occupancyEnd _ _ | .tableInstructionComplete _ _
  | .windowRegistrationComplete _ _ => 0x3FF

/-- The forms that share the opcode of `wait`, by their modifier field. -/
def waitForm (f : Fields) : Option Instr :=
  match f.bits 17 3 with | 0 => some (.waitUnack f) | 1 => some (.waitEng f) | 2 => some (.waitAll f) | 3 => some (.waitTime f) | _ => none

/-- The forms that share the opcode of `slacq`, by their modifier field. -/
def slacqForm (f : Fields) : Option Instr :=
  if f.bit 17 then some (.slacqC f) else some (.slacqP f)

/-- The forms that share the opcode of `crd`, by their modifier field. -/
def crdForm (f : Fields) : Option Instr :=
  if f.bit 20 then (if f.bits 17 3 == 1 then some (.crdStatW f) else none) else
    match f.bits 17 3 with
    | 0 => some (.crdCnt f) | 1 => some (.crdStat f) | 2 => some (.crdTot f) | 3 => some (.crdCons f) | 4 => some (.crdProd f)
    | 5 => some (.crdFab f) | 6 => some (.crdMon f) | _ => none

/-- The forms that share the opcode of `rkmov`, by their modifier field. -/
def rkmovForm (f : Fields) : Option Instr :=
  if f.bit 17 then some (.rkmovRel f) else some (.rkmovHold f)

/-- The forms that share the opcode of `tlbinv`, by their modifier field. -/
def tlbinvForm (f : Fields) : Option Instr :=
  if f.bit 17 then some (.tlbinvAll f) else some (.tlbinvPage f)

/-- The forms that share the opcode of `replay`, by their modifier field. -/
def replayForm (f : Fields) : Option Instr :=
  if f.bit 17 then some (.replayDeny f) else some (.replay f)

/-- The forms that share the opcode of `pgown`, by their modifier field. -/
def pgownForm (f : Fields) : Option Instr :=
  if f.bit 17 then some (.pgownHost f) else some (.pgownDev f)

/-- The forms that share the opcode of `gen`, by their modifier field. -/
def genForm (f : Fields) : Option Instr :=
  match f.bits 17 2 with | 0 => some (.genAck f) | 1 => some (.genRd f) | 2 => some (.genRet f) | _ => some (.genFree f)

/-- The forms that share the opcode of `qcfg`, by their modifier field. -/
def qcfgForm (f : Fields) : Option Instr :=
  match f.bits 17 4 with
    | 0 => some (.qcfgFuse f) | 1 => some (.qcfgRoot f) | 2 => some (.qcfgMemb f) | 3 => some (.qcfgRankt f)
    | 4 => some (.qcfgHtab f) | 5 => some (.qcfgCplan f) | 6 => some (.qcfgFeat f) | _ => none

/-- The forms that share the opcode of `frz`, by their modifier field. -/
def frzForm (f : Fields) : Option Instr :=
  if f.bit 17 then some (.frzOff f) else some (.frzOn f)

/-- The forms that share the opcode of `pdone`, by their modifier field. -/
def pdoneForm (f : Fields) : Option Instr :=
  if f.bit 17 then some (.pdoneRest f) else some (.pdoneSave f)

/-- The forms that share the opcode of `fdone`, by their modifier field. -/
def fdoneForm (f : Fields) : Option Instr :=
  match f.bits 17 2 with | 0 => some (.fdoneRes f) | 1 => some (.fdoneSat f) | 2 => some (.fdoneDeny f) | _ => some (.fdoneHold f)

/-- The scalar group of the opcode map (R50). -/
def opsScalar : List (Nat × (Fields → Option Instr)) :=
  [(0x000, fun f => some (.nop f)), (0x001, fun f => some (.add f)), (0x002, fun f => some (.sub f)),
   (0x003, fun f => some (.mul f)), (0x004, fun f => some (.mulh f)), (0x005, fun f => some (.mulhn f)),
   (0x006, fun f => some (.div f)), (0x007, fun f => some (.divn f)), (0x008, fun f => some (.remI f)),
   (0x009, fun f => some (.remn f)), (0x00A, fun f => some (.andI f)), (0x00B, fun f => some (.orI f)),
   (0x00C, fun f => some (.xorI f)), (0x00D, fun f => some (.andn f)), (0x00E, fun f => some (.shl f)),
   (0x00F, fun f => some (.shr f)), (0x010, fun f => some (.sra f)), (0x011, fun f => some (.minI f)),
   (0x012, fun f => some (.maxI f)), (0x013, fun f => some (.minn f)), (0x014, fun f => some (.maxn f)),
   (0x015, fun f => some (.clz f)), (0x016, fun f => some (.ctz f)), (0x017, fun f => some (.popc f)),
   (0x018, fun f => some (.extI f)), (0x019, fun f => some (.li f)), (0x01A, fun f => some (.lih f)),
   (0x01B, fun f => some (.sel f)), (0x01C, fun f => some (.mkadr f)), (0x01D, fun f => some (.adrx f)),
   (0x01E, fun f => some (.ceq f)), (0x01F, fun f => some (.cne f)), (0x020, fun f => some (.clt f)),
   (0x021, fun f => some (.cle f)), (0x022, fun f => some (.cltn f)), (0x023, fun f => some (.clen f)),
   (0x024, fun f => some (.cand f)), (0x025, fun f => some (.cor f)), (0x026, fun f => some (.cxor f)),
   (0x027, fun f => some (.cset f)), (0x028, fun f => some (.cget f))]

/-- The control group of the opcode map (R50). -/
def opsControl : List (Nat × (Fields → Option Instr)) :=
  [(0x040, fun f => some (.br f)), (0x041, fun f => some (.jr f)), (0x042, fun f => some (.call f)),
   (0x043, fun f => some (.callr f)), (0x044, fun f => some (.ret f)), (0x045, fun f => some (.loopI f)),
   (0x046, fun f => some (.lbrk f)), (0x047, fun f => some (.doneI f)), (0x048, waitForm),
   (0x049, fun f => some (.csrr f)), (0x04A, fun f => some (.csrw f)), (0x04B, fun f => some (.csrs f)),
   (0x04C, fun f => some (.csrc f)), (0x04D, fun f => some (.sysI f)), (0x04E, fun f => some (.brk f)),
   (0x04F, fun f => some (.eret f)), (0x050, fun f => some (.halt f))]

/-- The vector group of the opcode map (R50). -/
def opsVector : List (Nat × (Fields → Option Instr)) :=
  [(0x080, fun f => some (.vadd f)), (0x081, fun f => some (.vsub f)), (0x082, fun f => some (.vmul f)),
   (0x083, fun f => some (.vfma f)), (0x084, fun f => some (.vfms f)), (0x085, fun f => some (.vfnm f)),
   (0x086, fun f => some (.vdiv f)), (0x087, fun f => some (.vmin f)), (0x088, fun f => some (.vmax f)),
   (0x089, fun f => some (.vabs f)), (0x08A, fun f => some (.vneg f)), (0x08B, fun f => some (.vsqrt f)),
   (0x08C, fun f => some (.vrcp f)), (0x08D, fun f => some (.vrsq f)), (0x08E, fun f => some (.vexp f)),
   (0x08F, fun f => some (.vlog f)), (0x090, fun f => some (.vsin f)), (0x091, fun f => some (.vcos f)),
   (0x092, fun f => some (.vtanh f)), (0x093, fun f => some (.vsigm f)), (0x094, fun f => some (.vcmp f)),
   (0x095, fun f => some (.vsel f)), (0x096, fun f => some (.vbound f)), (0x097, fun f => some (.vwidth f)),
   (0x098, fun f => some (.vsplat f)), (0x099, fun f => some (.vins f)), (0x09A, fun f => some (.vextr f)),
   (0x09B, fun f => some (.vperm f)), (0x09C, fun f => some (.vslide f)), (0x09D, fun f => some (.vred f)),
   (0x09E, fun f => some (.vcvt f)), (0x09F, fun f => some (.vquant f)), (0x0A0, fun f => some (.vqmax f)),
   (0x0A1, fun f => some (.vcomp f)), (0x0A2, fun f => some (.vexpd f)), (0x0A3, fun f => some (.viadd f)),
   (0x0A4, fun f => some (.visub f)), (0x0A5, fun f => some (.vimul f)), (0x0A6, fun f => some (.vand f)),
   (0x0A7, fun f => some (.vor f)), (0x0A8, fun f => some (.vxor f)), (0x0A9, fun f => some (.vshl f)),
   (0x0AA, fun f => some (.vshr f)), (0x0AB, fun f => some (.vmov f)), (0x0AC, fun f => some (.mand f)),
   (0x0AD, fun f => some (.mor f)), (0x0AE, fun f => some (.mxor f)), (0x0AF, fun f => some (.mcnt f))]

/-- The jet group of the opcode map (R50). -/
def opsJet : List (Nat × (Fields → Option Instr)) :=
  [(0x0C0, fun f => some (.jseed f)), (0x0C1, fun f => some (.jconst f)), (0x0C2, fun f => some (.jget f)),
   (0x0C3, fun f => some (.jset f)), (0x0C4, fun f => some (.jshift f)), (0x0C5, fun f => some (.jdiff f)),
   (0x0C6, fun f => some (.jint f)), (0x0C7, fun f => some (.jtrunc f))]

/-- The anvil group of the opcode map (R50). -/
def opsAnvil : List (Nat × (Fields → Option Instr)) :=
  [(0x100, fun f => some (.amma f)), (0x101, fun f => some (.azero f)), (0x102, fun f => some (.ald f)),
   (0x103, fun f => some (.ast f)), (0x104, fun f => some (.arow f)), (0x105, fun f => some (.adrain f)),
   (0x106, fun f => some (.ascale f))]

/-- The memory group of the opcode map (R50). -/
def opsMemory : List (Nat × (Fields → Option Instr)) :=
  [(0x140, fun f => some (.ld f)), (0x141, fun f => some (.st f)), (0x142, fun f => some (.vld f)),
   (0x143, fun f => some (.vst f)), (0x144, fun f => some (.vldx f)), (0x145, fun f => some (.vstx f)),
   (0x146, fun f => some (.ldblk f)), (0x147, fun f => some (.stblk f)), (0x148, fun f => some (.ldmeta f)),
   (0x149, fun f => some (.stmeta f)), (0x14A, fun f => some (.phase f)), (0x14B, fun f => some (.fence f)),
   (0x14C, fun f => some (.aadd f)), (0x14D, fun f => some (.aand f)), (0x14E, fun f => some (.aor f)),
   (0x14F, fun f => some (.axor f)), (0x150, fun f => some (.amin f)), (0x151, fun f => some (.amax f)),
   (0x152, fun f => some (.axchg f)), (0x153, fun f => some (.acas f)), (0x154, fun f => some (.afadd f)),
   (0x155, fun f => some (.ablk f)), (0x156, fun f => some (.pref f)), (0x157, fun f => some (.fset f)),
   (0x158, fun f => some (.fclr f))]

/-- The message group of the opcode map (R50). -/
def opsMessage : List (Nat × (Fields → Option Instr)) :=
  [(0x180, fun f => some (.send f)), (0x181, fun f => some (.sendr f)), (0x182, fun f => some (.hop f)),
   (0x183, fun f => some (.dcopy f)), (0x184, fun f => some (.dgath f)), (0x185, fun f => some (.dscad f)),
   (0x186, slacqForm), (0x187, fun f => some (.slrel f)), (0x188, fun f => some (.slinit f)),
   (0x189, fun f => some (.tjoin f)), (0x18A, fun f => some (.tread f)), (0x18B, fun f => some (.bar f)),
   (0x18C, fun f => some (.qfence f))]

/-- The counter group of the opcode map (R50). -/
def opsCounter : List (Nat × (Fields → Option Instr)) :=
  [(0x1A0, fun f => some (.carm f)), (0x1A1, fun f => some (.cdis f)), (0x1A2, crdForm),
   (0x1A3, fun f => some (.cadd f)), (0x1A4, fun f => some (.pcrd f)), (0x1A5, fun f => some (.pccfg f))]

/-- The table group of the opcode map (R50). -/
def opsTable : List (Nat × (Fields → Option Instr)) :=
  [(0x1C0, fun f => some (.rtset f)), (0x1C1, fun f => some (.rtget f)), (0x1C2, fun f => some (.rkset f)),
   (0x1C3, rkmovForm), (0x1C4, tlbinvForm), (0x1C5, fun f => some (.fbrd f)), (0x1C6, replayForm),
   (0x1C7, pgownForm), (0x1C8, fun f => some (.htset f)), (0x1C9, genForm), (0x1CA, qcfgForm), (0x1CB, frzForm),
   (0x1CC, pdoneForm)]

/-- The farrier group of the opcode map (R50). -/
def opsFarrier : List (Nat × (Fields → Option Instr)) :=
  [(0x200, fdoneForm), (0x201, fun f => some (.tagrd f)), (0x202, fun f => some (.tagwr f)),
   (0x203, fun f => some (.dirrd f)), (0x204, fun f => some (.dirwr f)), (0x205, fun f => some (.btx f)),
   (0x206, fun f => some (.frep f)), (0x207, fun f => some (.freq f)), (0x208, fun f => some (.fwake f)),
   (0x209, fun f => some (.fpoison f)), (0x20A, fun f => some (.fblk f)), (0x20B, fun f => some (.fsto f))]

/-- The opcode map (R50): 190 values. -/
def opTable : List (Nat × (Fields → Option Instr)) :=
  opsScalar ++ opsControl ++ opsVector ++ opsJet ++ opsAnvil ++ opsMemory ++ opsMessage ++ opsCounter ++ opsTable ++
  opsFarrier

/-- The instruction of an opcode with these fields, before its legality. -/
def build (op : Nat) (f : Fields) : Option Instr := (opTable.lookup op).bind fun mk => mk f

/-- R46 up to the control-register write check: the instruction of a word, none where cause 0x01 is raised. -/
def decode (w : BitVec 96) : Option Instr :=
  if w.extractLsb' 68 2 ≠ 0 then none else
  match decodeOpd (w.extractLsb' 56 12), decodeOpd (w.extractLsb' 44 12), decodeOpd (w.extractLsb' 32 12) with
  | some a, some b, some c =>
    match build (w.extractLsb' 86 10).toNat ⟨decodeHdr (w.extractLsb' 70 16), a, b, c, w.extractLsb' 0 32⟩ with
    | some i => if Machine.legal i then some i else none
    | none => none
  | _, _, _ => none

/-- The word of an instruction; zero for an event, which has none. -/
def encode (i : Instr) : BitVec 96 :=
  match i.fields with
  | some f => encodeWord i.opcode f
  | none => 0

/-! ### Words as bytes (R37) -/

/-- The twelve bytes of a word: its low 32 bits first, each byte little-endian. -/
def wordBytes (w : BitVec 96) : List Byte := (List.range 12).map fun j => w.extractLsb' (8 * j) 8

/-- The word of twelve bytes. -/
def bytesWord (bs : List Byte) : BitVec 96 :=
  bs.reverse.foldl (fun (acc : BitVec 96) (b : Byte) => (acc <<< 8) ||| b.setWidth 96) 0

/-- The instruction the decoder reads from bits numbered as the opcode table numbers them; the bits above are zero. -/
def decodeTableWord (nbits w : Nat) : Option Instr := decode (bytesWord (wordBytes (BitVec.ofNat 96 (w % 2 ^ nbits))))

/-! ### One word for every form, written out from the encodings (R36, R39, R50)

Each line gives a word in the bits of R36, composed field by field from the opcode map, the operand classes and the modifier layout, and
the instruction that the manual reads in it. -/

def scalarWordsA : List (BitVec 96 × Instr) :=
  [(0x0000000E00E00E0000000000, .nop ⟨⟨false, 0, 0, false, 0, 0⟩, .none, .none, .none, 0x0⟩),
   (0x004C41400000500900000000, .add ⟨⟨false, 3, 1, false, 0, 5⟩, .g 0, .g 5, .g 9, 0x0⟩),
   (0x00B6280001006DF800000000, .sub ⟨⟨true, 5, 8, true, 2, 0⟩, .g 1, .g 6, .imm 0x1F8, 0x0⟩),
   (0x00C09E4002007E0089ABF011, .mul ⟨⟨false, 0, 2, false, 7, 9⟩, .g 2, .g 7, .none, 0x89ABF011⟩),
   (0x010000000300800C00000000, .mulh ⟨⟨false, 0, 0, false, 0, 0⟩, .g 3, .g 8, .g 12, 0x0⟩),
   (0x014C414004009DE300000000, .mulhn ⟨⟨false, 3, 1, false, 0, 5⟩, .g 4, .g 9, .imm 0x1E3, 0x0⟩),
   (0x01B628000500AE0089AC2344, .div ⟨⟨true, 5, 8, true, 2, 0⟩, .g 5, .g 10, .none, 0x89AC2344⟩),
   (0x01C09E400600B00F00000000, .divn ⟨⟨false, 0, 2, false, 7, 9⟩, .g 6, .g 11, .g 15, 0x0⟩),
   (0x020000000700CDCE00000000, .remI ⟨⟨false, 0, 0, false, 0, 0⟩, .g 7, .g 12, .imm 0x1CE, 0x0⟩),
   (0x024C41400800DE0089AC5677, .remn ⟨⟨false, 3, 1, false, 0, 5⟩, .g 8, .g 13, .none, 0x89AC5677⟩),
   (0x02B628000900E00200000000, .andI ⟨⟨true, 5, 8, true, 2, 0⟩, .g 9, .g 14, .g 2, 0x0⟩),
   (0x02C09E400A00FDB900000000, .orI ⟨⟨false, 0, 2, false, 7, 9⟩, .g 10, .g 15, .imm 0x1B9, 0x0⟩),
   (0x030000000B000E0089AC89AA, .xorI ⟨⟨false, 0, 0, false, 0, 0⟩, .g 11, .g 0, .none, 0x89AC89AA⟩),
   (0x034C41400C00100500000000, .andn ⟨⟨false, 3, 1, false, 0, 5⟩, .g 12, .g 1, .g 5, 0x0⟩),
   (0x03B628000D002DA400000000, .shl ⟨⟨true, 5, 8, true, 2, 0⟩, .g 13, .g 2, .imm 0x1A4, 0x0⟩),
   (0x03C09E400E003E0089ACBCDD, .shr ⟨⟨false, 0, 2, false, 7, 9⟩, .g 14, .g 3, .none, 0x89ACBCDD⟩),
   (0x040000000F00400800000000, .sra ⟨⟨false, 0, 0, false, 0, 0⟩, .g 15, .g 4, .g 8, 0x0⟩),
   (0x044C414000005D8F00000000, .minI ⟨⟨false, 3, 1, false, 0, 5⟩, .g 0, .g 5, .imm 0x18F, 0x0⟩),
   (0x04B6280001006E0089ACF010, .maxI ⟨⟨true, 5, 8, true, 2, 0⟩, .g 1, .g 6, .none, 0x89ACF010⟩),
   (0x04C09E400200700B00000000, .minn ⟨⟨false, 0, 2, false, 7, 9⟩, .g 2, .g 7, .g 11, 0x0⟩),
   (0x0500000003008D7A00000000, .maxn ⟨⟨false, 0, 0, false, 0, 0⟩, .g 3, .g 8, .imm 0x17A, 0x0⟩),
   (0x054C41400300EE0000000000, .clz ⟨⟨false, 3, 1, false, 0, 5⟩, .g 3, .g 14, .none, 0x0⟩),
   (0x05B628000300EE0000000000, .ctz ⟨⟨true, 5, 8, true, 2, 0⟩, .g 3, .g 14, .none, 0x0⟩),
   (0x05C09E400300EE0000000000, .popc ⟨⟨false, 0, 2, false, 7, 9⟩, .g 3, .g 14, .none, 0x0⟩)]

def scalarWordsB : List (BitVec 96 × Instr) :=
  [(0x0600000001002E00248A0000, .extI ⟨⟨false, 0, 0, false, 0, 0⟩, .g 1, .g 2, .none, 0x248A0000⟩),
   (0x064C414009E00E0080000001, .li ⟨⟨false, 3, 1, false, 0, 5⟩, .g 9, .none, .none, 0x80000001⟩),
   (0x06B6280009E00E0080000001, .lih ⟨⟨true, 5, 8, true, 2, 0⟩, .g 9, .none, .none, 0x80000001⟩),
   (0x06C09E4001002DFC00160000, .sel ⟨⟨false, 0, 2, false, 7, 9⟩, .g 1, .g 2, .imm 0x1FC, 0x160000⟩),
   (0x0700000001002D2C00020000, .mkadr ⟨⟨false, 0, 0, false, 0, 0⟩, .g 1, .g 2, .imm 0x12C, 0x20000⟩),
   (0x074C414001002E0000040000, .adrx ⟨⟨false, 3, 1, false, 0, 5⟩, .g 1, .g 2, .none, 0x40000⟩),
   (0x07B628040200100700000000, .ceq ⟨⟨true, 5, 8, true, 2, 0⟩, .c 2, .g 1, .g 7, 0x0⟩),
   (0x07C09E4403002D0000000000, .cne ⟨⟨false, 0, 2, false, 7, 9⟩, .c 3, .g 2, .imm 0x100, 0x0⟩),
   (0x0800000404003E007FFFFFFF, .clt ⟨⟨false, 0, 0, false, 0, 0⟩, .c 4, .g 3, .none, 0x7FFFFFFF⟩),
   (0x084C41440500400700000000, .cle ⟨⟨false, 3, 1, false, 0, 5⟩, .c 5, .g 4, .g 7, 0x0⟩),
   (0x08B6280406005D0000000000, .cltn ⟨⟨true, 5, 8, true, 2, 0⟩, .c 6, .g 5, .imm 0x100, 0x0⟩),
   (0x08C09E4407006E007FFFFFFF, .clen ⟨⟨false, 0, 2, false, 7, 9⟩, .c 7, .g 6, .none, 0x7FFFFFFF⟩),
   (0x090000040140740400060000, .cand ⟨⟨false, 0, 0, false, 0, 0⟩, .c 1, .c 7, .c 4, 0x60000⟩),
   (0x094C41440140740400060000, .cor ⟨⟨false, 3, 1, false, 0, 5⟩, .c 1, .c 7, .c 4, 0x60000⟩),
   (0x09B628040140740400060000, .cxor ⟨⟨true, 5, 8, true, 2, 0⟩, .c 1, .c 7, .c 4, 0x60000⟩),
   (0x09C09E440500BE0000000000, .cset ⟨⟨false, 0, 2, false, 7, 9⟩, .c 5, .g 11, .none, 0x0⟩),
   (0x0A00000002406E0000000000, .cget ⟨⟨false, 0, 0, false, 0, 0⟩, .g 2, .c 6, .none, 0x0⟩)]

theorem scalarWordsA_decode : ∀ e ∈ scalarWordsA, decode e.1 = some e.2 ∧ encode e.2 = e.1 := by decide +kernel
theorem scalarWordsB_decode : ∀ e ∈ scalarWordsB, decode e.1 = some e.2 ∧ encode e.2 = e.1 := by decide +kernel

def controlWords : List (BitVec 96 × Instr) :=
  [(0x1000000E00E00E00FFFFFFFE, .br ⟨⟨false, 0, 0, false, 0, 0⟩, .none, .none, .none, 0xFFFFFFFE⟩),
   (0x104C414E0000FE0000000000, .jr ⟨⟨false, 3, 1, false, 0, 5⟩, .none, .g 15, .none, 0x0⟩),
   (0x10B628000DE00E0000000123, .call ⟨⟨true, 5, 8, true, 2, 0⟩, .g 13, .none, .none, 0x123⟩),
   (0x10C09E4001002E0000000000, .callr ⟨⟨false, 0, 2, false, 7, 9⟩, .g 1, .g 2, .none, 0x0⟩),
   (0x1100000E0000FE0000000000, .ret ⟨⟨false, 0, 0, false, 0, 0⟩, .none, .g 15, .none, 0x0⟩),
   (0x114C414A0DCC8E0000000003, .loopI ⟨⟨false, 3, 1, false, 0, 5⟩, .cr .lc1, .imm 0xC8, .none, 0x3⟩),
   (0x11B6280A0AE00E0000000000, .lbrk ⟨⟨true, 5, 8, true, 2, 0⟩, .cr .lc0, .none, .none, 0x0⟩),
   (0x11C09E4E00E00E0000010800, .doneI ⟨⟨false, 0, 2, false, 7, 9⟩, .none, .none, .none, 0x10800⟩),
   (0x1200000E00E00E0000000000, .waitUnack ⟨⟨false, 0, 0, false, 0, 0⟩, .none, .none, .none, 0x0⟩),
   (0x120C414E00E00E0000020000, .waitEng ⟨⟨false, 3, 1, false, 0, 5⟩, .none, .none, .none, 0x20000⟩),
   (0x1236280E00E00E0000040000, .waitAll ⟨⟨true, 5, 8, true, 2, 0⟩, .none, .none, .none, 0x40000⟩),
   (0x12009E4E00C64E0000060000, .waitTime ⟨⟨false, 0, 2, false, 7, 9⟩, .none, .imm 0x64, .none, 0x60000⟩),
   (0x1400000E00E00E0000000000, .halt ⟨⟨false, 0, 0, false, 0, 0⟩, .none, .none, .none, 0x0⟩),
   (0x124C414004A09E0000000000, .csrr ⟨⟨false, 3, 1, false, 0, 5⟩, .g 4, .cr .vl, .none, 0x0⟩),
   (0x12B6280A2400200300000000, .csrw ⟨⟨true, 5, 8, true, 2, 0⟩, .cr .evec, .g 2, .g 3, 0x0⟩),
   (0x12C09E4A02C05E0000000000, .csrs ⟨⟨false, 0, 2, false, 7, 9⟩, .cr .fflags, .imm 0x5, .none, 0x0⟩),
   (0x1300000A2000100000000000, .csrc ⟨⟨false, 0, 0, false, 0, 0⟩, .cr .estat, .g 1, .g 0, 0x0⟩),
   (0x134C414E00E00E0012345678, .sysI ⟨⟨false, 3, 1, false, 0, 5⟩, .none, .none, .none, 0x12345678⟩),
   (0x13B6280E00E00E0000000001, .brk ⟨⟨true, 5, 8, true, 2, 0⟩, .none, .none, .none, 0x1⟩),
   (0x13C09E4E00E00E0000000000, .eret ⟨⟨false, 0, 2, false, 7, 9⟩, .none, .none, .none, 0x0⟩)]

theorem controlWords_decode : ∀ e ∈ controlWords, decode e.1 = some e.2 ∧ encode e.2 = e.1 := by decide +kernel

def vectorWordsA : List (BitVec 96 × Instr) :=
  [(0x200000021420021F00000087, .vadd ⟨⟨false, 0, 0, false, 0, 0⟩, .v 20, .v 0, .v 31, 0x87⟩),
   (0x204C41421520100900020118, .vsub ⟨⟨false, 3, 1, false, 0, 5⟩, .v 21, .v 1, .g 9, 0x20118⟩),
   (0x20B6280216202DFD000001A9, .vmul ⟨⟨true, 5, 8, true, 2, 0⟩, .v 22, .v 2, .imm 0x1FD, 0x1A9⟩),
   (0x20C09E421720321F00020237, .vfma ⟨⟨false, 0, 2, false, 7, 9⟩, .v 23, .v 3, .v 31, 0x20237⟩),
   (0x2100000218204009000002C8, .vfms ⟨⟨false, 0, 0, false, 0, 0⟩, .v 24, .v 4, .g 9, 0x2C8⟩),
   (0x214C414219205DFD00020359, .vfnm ⟨⟨false, 3, 1, false, 0, 5⟩, .v 25, .v 5, .imm 0x1FD, 0x20359⟩),
   (0x21B628021A20621F000003F7, .vdiv ⟨⟨true, 5, 8, true, 2, 0⟩, .v 26, .v 6, .v 31, 0x3F7⟩),
   (0x21C09E4201202203000200F8, .vmin ⟨⟨false, 0, 2, false, 7, 9⟩, .v 1, .v 2, .v 3, 0x200F8⟩),
   (0x2200000201202203000200F9, .vmax ⟨⟨false, 0, 0, false, 0, 0⟩, .v 1, .v 2, .v 3, 0x200F9⟩),
   (0x224C414201202E00000200F7, .vabs ⟨⟨false, 3, 1, false, 0, 5⟩, .v 1, .v 2, .none, 0x200F7⟩),
   (0x22B6280201202E00000200F8, .vneg ⟨⟨true, 5, 8, true, 2, 0⟩, .v 1, .v 2, .none, 0x200F8⟩),
   (0x22C09E4209203E0000020077, .vsqrt ⟨⟨false, 0, 2, false, 7, 9⟩, .v 9, .v 3, .none, 0x20077⟩),
   (0x230000020A204E0000000088, .vrcp ⟨⟨false, 0, 0, false, 0, 0⟩, .v 10, .v 4, .none, 0x88⟩),
   (0x234C41420B205E0000020119, .vrsq ⟨⟨false, 3, 1, false, 0, 5⟩, .v 11, .v 5, .none, 0x20119⟩),
   (0x23B628020C206E00000001A7, .vexp ⟨⟨true, 5, 8, true, 2, 0⟩, .v 12, .v 6, .none, 0x1A7⟩),
   (0x23C09E420D207E0000020238, .vlog ⟨⟨false, 0, 2, false, 7, 9⟩, .v 13, .v 7, .none, 0x20238⟩),
   (0x240000020E208E00000002C9, .vsin ⟨⟨false, 0, 0, false, 0, 0⟩, .v 14, .v 8, .none, 0x2C9⟩),
   (0x244C41420F209E0000020357, .vcos ⟨⟨false, 3, 1, false, 0, 5⟩, .v 15, .v 9, .none, 0x20357⟩),
   (0x24B628021020AE00000003F8, .vtanh ⟨⟨true, 5, 8, true, 2, 0⟩, .v 16, .v 10, .none, 0x3F8⟩),
   (0x24C09E421120BE0000020009, .vsigm ⟨⟨false, 0, 2, false, 7, 9⟩, .v 17, .v 11, .none, 0x20009⟩),
   (0x2500000603204205001A0179, .vcmp ⟨⟨false, 0, 0, false, 0, 0⟩, .m 3, .v 4, .v 5, 0x1A0179⟩),
   (0x254C414201202203000002F0, .vsel ⟨⟨false, 3, 1, false, 0, 5⟩, .v 1, .v 2, .v 3, 0x2F0⟩),
   (0x25B6280606001C200000007A, .vbound ⟨⟨true, 5, 8, true, 2, 0⟩, .m 6, .g 1, .imm 0x20, 0x7A⟩),
   (0x25C09E4008E00E0000000079, .vwidth ⟨⟨false, 0, 2, false, 7, 9⟩, .g 8, .none, .none, 0x79⟩)]

def vectorWordsB : List (BitVec 96 × Instr) :=
  [(0x2600000208DFFE00000003F3, .vsplat ⟨⟨false, 0, 0, false, 0, 0⟩, .v 8, .imm 0x1FF, .none, 0x3F3⟩),
   (0x264C414201002E0000020079, .vins ⟨⟨false, 3, 1, false, 0, 5⟩, .v 1, .g 2, .none, 0x20079⟩),
   (0x26B6280002201C070000007C, .vextr ⟨⟨true, 5, 8, true, 2, 0⟩, .g 2, .v 1, .imm 0x7, 0x7C⟩),
   (0x26C09E4201202203000200F1, .vperm ⟨⟨false, 0, 2, false, 7, 9⟩, .v 1, .v 2, .v 3, 0x200F1⟩),
   (0x2700000201202DFE000001FA, .vslide ⟨⟨false, 0, 0, false, 0, 0⟩, .v 1, .v 2, .imm 0x1FE, 0x1FA⟩),
   (0x274C414004209E00001000FA, .vred ⟨⟨false, 3, 1, false, 0, 5⟩, .g 4, .v 9, .none, 0x1000FA⟩),
   (0x27B6280201202E0008E401A4, .vcvt ⟨⟨true, 5, 8, true, 2, 0⟩, .v 1, .v 2, .none, 0x8E401A4⟩),
   (0x27C09E4201202003005C0001, .vquant ⟨⟨false, 0, 2, false, 7, 9⟩, .v 1, .v 2, .g 3, 0x5C0001⟩),
   (0x2800000201202C10000C0079, .vqmax ⟨⟨false, 0, 0, false, 0, 0⟩, .v 1, .v 2, .imm 0x10, 0xC0079⟩),
   (0x284C414205206E0000000071, .vcomp ⟨⟨false, 3, 1, false, 0, 5⟩, .v 5, .v 6, .none, 0x71⟩),
   (0x28B6280205206E0000000072, .vexpd ⟨⟨true, 5, 8, true, 2, 0⟩, .v 5, .v 6, .none, 0x72⟩),
   (0x28C09E4201202003000600F1, .viadd ⟨⟨false, 0, 2, false, 7, 9⟩, .v 1, .v 2, .g 3, 0x600F1⟩),
   (0x2900000201202003000600FB, .visub ⟨⟨false, 0, 0, false, 0, 0⟩, .v 1, .v 2, .g 3, 0x600FB⟩),
   (0x294C414201202003000600FC, .vimul ⟨⟨false, 3, 1, false, 0, 5⟩, .v 1, .v 2, .g 3, 0x600FC⟩),
   (0x29B6280201202DFF000200F0, .vand ⟨⟨true, 5, 8, true, 2, 0⟩, .v 1, .v 2, .imm 0x1FF, 0x200F0⟩),
   (0x29C09E4201202DFF000200F2, .vor ⟨⟨false, 0, 2, false, 7, 9⟩, .v 1, .v 2, .imm 0x1FF, 0x200F2⟩),
   (0x2A00000201202DFF000200FA, .vxor ⟨⟨false, 0, 0, false, 0, 0⟩, .v 1, .v 2, .imm 0x1FF, 0x200FA⟩),
   (0x2A4C414201202C09000200FB, .vshl ⟨⟨false, 3, 1, false, 0, 5⟩, .v 1, .v 2, .imm 0x9, 0x200FB⟩),
   (0x2AB6280201202203000A017A, .vshr ⟨⟨true, 5, 8, true, 2, 0⟩, .v 1, .v 2, .v 3, 0xA017A⟩),
   (0x2AC09E421F21EE0000000070, .vmov ⟨⟨false, 0, 2, false, 7, 9⟩, .v 31, .v 30, .none, 0x70⟩),
   (0x2B0000060160260300020070, .mand ⟨⟨false, 0, 0, false, 0, 0⟩, .m 1, .m 2, .m 3, 0x20070⟩),
   (0x2B4C41460160260300040070, .mor ⟨⟨false, 3, 1, false, 0, 5⟩, .m 1, .m 2, .m 3, 0x40070⟩),
   (0x2BB628060160260300060070, .mxor ⟨⟨true, 5, 8, true, 2, 0⟩, .m 1, .m 2, .m 3, 0x60070⟩),
   (0x2BC09E4001607E0000000079, .mcnt ⟨⟨false, 0, 2, false, 7, 9⟩, .g 1, .m 7, .none, 0x79⟩)]

theorem vectorWordsA_decode : ∀ e ∈ vectorWordsA, decode e.1 = some e.2 ∧ encode e.2 = e.1 := by decide +kernel
theorem vectorWordsB_decode : ∀ e ∈ vectorWordsB, decode e.1 = some e.2 ∧ encode e.2 = e.1 := by decide +kernel

def jetWords : List (BitVec 96 × Instr) :=
  [(0x3000000204208C02000200F9, .jseed ⟨⟨false, 0, 0, false, 0, 0⟩, .v 4, .v 8, .imm 0x2, 0x200F9⟩),
   (0x304C414204001E00000200F7, .jconst ⟨⟨false, 3, 1, false, 0, 5⟩, .v 4, .g 1, .none, 0x200F7⟩),
   (0x30B6280201204C02000600F9, .jget ⟨⟨true, 5, 8, true, 2, 0⟩, .v 1, .v 4, .imm 0x2, 0x600F9⟩),
   (0x30C09E4204208C01000200F7, .jset ⟨⟨false, 0, 2, false, 7, 9⟩, .v 4, .v 8, .imm 0x1, 0x200F7⟩),
   (0x3100000204208C01000200F9, .jshift ⟨⟨false, 0, 0, false, 0, 0⟩, .v 4, .v 8, .imm 0x1, 0x200F9⟩),
   (0x314C414204208E00000200A9, .jdiff ⟨⟨false, 3, 1, false, 0, 5⟩, .v 4, .v 8, .none, 0x200A9⟩),
   (0x31B6280204208003000200D7, .jint ⟨⟨true, 5, 8, true, 2, 0⟩, .v 4, .v 8, .g 3, 0x200D7⟩),
   (0x31C09E4204208C01000200F9, .jtrunc ⟨⟨false, 0, 2, false, 7, 9⟩, .v 4, .v 8, .imm 0x1, 0x200F9⟩)]

theorem jetWords_decode : ∀ e ∈ jetWords, decode e.1 = some e.2 ∧ encode e.2 = e.1 := by decide +kernel

def anvilWords : List (BitVec 96 × Instr) :=
  [(0x400000080320800600168004, .amma ⟨⟨false, 0, 0, false, 0, 0⟩, .z 3, .v 8, .g 6, 0x168004⟩),
   (0x404C414802E00E0000000000, .azero ⟨⟨false, 3, 1, false, 0, 5⟩, .z 2, .none, .none, 0x0⟩),
   (0x40B628080100AE0000008000, .ald ⟨⟨true, 5, 8, true, 2, 0⟩, .z 1, .g 10, .none, 0x8000⟩),
   (0x40C09E4004802E000000000A, .ast ⟨⟨false, 0, 2, false, 7, 9⟩, .g 4, .z 2, .none, 0xA⟩),
   (0x4100000207801C1F00020180, .arow ⟨⟨false, 0, 0, false, 0, 0⟩, .v 7, .z 1, .imm 0x1F, 0x20180⟩),
   (0x414C4140018030052AF00009, .adrain ⟨⟨false, 3, 1, false, 0, 5⟩, .g 1, .z 3, .g 5, 0x2AF00009⟩),
   (0x41B628080180220300280009, .ascale ⟨⟨true, 5, 8, true, 2, 0⟩, .z 1, .z 2, .v 3, 0x280009⟩)]

theorem anvilWords_decode : ∀ e ∈ anvilWords, decode e.1 = some e.2 ∧ encode e.2 = e.1 := by decide +kernel

def memoryWordsA : List (BitVec 96 × Instr) :=
  [(0x500000000100200215FFFFF8, .ld ⟨⟨false, 0, 0, false, 0, 0⟩, .g 1, .g 2, .g 2, 0x15FFFFF8⟩),
   (0x504C414004005E0006000040, .st ⟨⟨false, 3, 1, false, 0, 5⟩, .g 4, .g 5, .none, 0x6000040⟩),
   (0x50B6280201002E002B000080, .vld ⟨⟨true, 5, 8, true, 2, 0⟩, .v 1, .g 2, .none, 0x2B000080⟩),
   (0x50C09E420100200217FFFF80, .vst ⟨⟨false, 0, 2, false, 7, 9⟩, .v 1, .g 2, .g 2, 0x17FFFF80⟩),
   (0x510000020100220300020109, .vldx ⟨⟨false, 0, 0, false, 0, 0⟩, .v 1, .g 2, .v 3, 0x20109⟩),
   (0x514C4142010022030000008C, .vstx ⟨⟨false, 3, 1, false, 0, 5⟩, .v 1, .g 2, .v 3, 0x8C⟩),
   (0x51B6280208002E0001000100, .ldblk ⟨⟨true, 5, 8, true, 2, 0⟩, .v 8, .g 2, .none, 0x1000100⟩),
   (0x51C09E4208002E0011000100, .stblk ⟨⟨false, 0, 2, false, 7, 9⟩, .v 8, .g 2, .none, 0x11000100⟩),
   (0x520000000100200200000008, .ldmeta ⟨⟨false, 0, 0, false, 0, 0⟩, .g 1, .g 2, .g 2, 0x8⟩),
   (0x524C41400100200210000008, .stmeta ⟨⟨false, 3, 1, false, 0, 5⟩, .g 1, .g 2, .g 2, 0x10000008⟩),
   (0x52B6280E00E00E0000010C00, .phase ⟨⟨true, 5, 8, true, 2, 0⟩, .none, .none, .none, 0x10C00⟩),
   (0x52C09E4E00E00E0000001000, .fence ⟨⟨false, 0, 2, false, 7, 9⟩, .none, .none, .none, 0x1000⟩),
   (0x5300000E000020030000200A, .aadd ⟨⟨false, 0, 0, false, 0, 0⟩, .none, .g 2, .g 3, 0x200A⟩),
   (0x534C414001002DFB0003640C, .aand ⟨⟨false, 3, 1, false, 0, 5⟩, .g 1, .g 2, .imm 0x1FB, 0x3640C⟩),
   (0x53B62800020020030000280A, .aor ⟨⟨true, 5, 8, true, 2, 0⟩, .g 2, .g 2, .g 3, 0x280A⟩),
   (0x53C09E4003002DFB00036C0C, .axor ⟨⟨false, 0, 2, false, 7, 9⟩, .g 3, .g 2, .imm 0x1FB, 0x36C0C⟩),
   (0x54000000040020030000300A, .amin ⟨⟨false, 0, 0, false, 0, 0⟩, .g 4, .g 2, .g 3, 0x300A⟩),
   (0x544C414005002DFB0003600C, .amax ⟨⟨false, 3, 1, false, 0, 5⟩, .g 5, .g 2, .imm 0x1FB, 0x3600C⟩),
   (0x54B62800060020030000240A, .axchg ⟨⟨true, 5, 8, true, 2, 0⟩, .g 6, .g 2, .g 3, 0x240A⟩),
   (0x54C09E4007002DFB0003680C, .acas ⟨⟨false, 0, 2, false, 7, 9⟩, .g 7, .g 2, .imm 0x1FB, 0x3680C⟩),
   (0x550000000500200300006809, .afadd ⟨⟨false, 0, 0, false, 0, 0⟩, .g 5, .g 2, .g 3, 0x6809⟩),
   (0x554C414E00002203001A440A, .ablk ⟨⟨false, 3, 1, false, 0, 5⟩, .none, .g 2, .v 3, 0x1A440A⟩),
   (0x55B6280E00003E0010001000, .pref ⟨⟨true, 5, 8, true, 2, 0⟩, .none, .g 3, .none, 0x10001000⟩),
   (0x55C09E4E00001C0400000018, .fset ⟨⟨false, 0, 2, false, 7, 9⟩, .none, .g 1, .imm 0x4, 0x18⟩)]

def memoryWordsB : List (BitVec 96 × Instr) :=
  [(0x5600000E00001C0400000018, .fclr ⟨⟨false, 0, 0, false, 0, 0⟩, .none, .g 1, .imm 0x4, 0x18⟩)]

theorem memoryWordsA_decode : ∀ e ∈ memoryWordsA, decode e.1 = some e.2 ∧ encode e.2 = e.1 := by decide +kernel
theorem memoryWordsB_decode : ∀ e ∈ memoryWordsB, decode e.1 = some e.2 ∧ encode e.2 = e.1 := by decide +kernel

def messageWords : List (BitVec 96 × Instr) :=
  [(0x600000000100AE00000607AB, .send ⟨⟨false, 0, 0, false, 0, 0⟩, .g 1, .g 10, .none, 0x607AB⟩),
   (0x604C414001E00E0000000801, .sendr ⟨⟨false, 3, 1, false, 0, 5⟩, .g 1, .none, .none, 0x801⟩),
   (0x60B6280E00009E0000020000, .hop ⟨⟨true, 5, 8, true, 2, 0⟩, .none, .g 9, .none, 0x20000⟩),
   (0x60C09E4001002C4040028000, .dcopy ⟨⟨false, 0, 2, false, 7, 9⟩, .g 1, .g 2, .imm 0x40, 0x40028000⟩),
   (0x610000000200400610000009, .dgath ⟨⟨false, 0, 0, false, 0, 0⟩, .g 2, .g 4, .g 6, 0x10000009⟩),
   (0x614C414002003E000000000A, .dscad ⟨⟨false, 3, 1, false, 0, 5⟩, .g 2, .g 3, .none, 0xA⟩),
   (0x61B6280001002E0000000000, .slacqP ⟨⟨true, 5, 8, true, 2, 0⟩, .g 1, .g 2, .none, 0x0⟩),
   (0x61809E4001C07E0000020000, .slacqC ⟨⟨false, 0, 2, false, 7, 9⟩, .g 1, .imm 0x7, .none, 0x20000⟩),
   (0x61C0000E00C03E0000000000, .slrel ⟨⟨false, 0, 0, false, 0, 0⟩, .none, .imm 0x3, .none, 0x0⟩),
   (0x620C414001002C4007FE0000, .slinit ⟨⟨false, 3, 1, false, 0, 5⟩, .g 1, .g 2, .imm 0x40, 0x7FE0000⟩),
   (0x6276280E00203E0000500901, .tjoin ⟨⟨true, 5, 8, true, 2, 0⟩, .none, .v 3, .none, 0x500901⟩),
   (0x62809E4203E00E0000000000, .tread ⟨⟨false, 0, 2, false, 7, 9⟩, .v 3, .none, .none, 0x0⟩),
   (0x62C0000E00E00E0000000C00, .bar ⟨⟨false, 0, 0, false, 0, 0⟩, .none, .none, .none, 0xC00⟩),
   (0x630C414E00E00E00000A0000, .qfence ⟨⟨false, 3, 1, false, 0, 5⟩, .none, .none, .none, 0xA0000⟩)]

theorem messageWords_decode : ∀ e ∈ messageWords, decode e.1 = some e.2 ∧ encode e.2 = e.1 := by decide +kernel

def counterWords : List (BitVec 96 × Instr) :=
  [(0x680000000100400800080000, .carm ⟨⟨false, 0, 0, false, 0, 0⟩, .g 1, .g 4, .g 8, 0x80000⟩),
   (0x684C414E00003E0000000000, .cdis ⟨⟨false, 3, 1, false, 0, 5⟩, .none, .g 3, .none, 0x0⟩),
   (0x68B6280001C09E0000000000, .crdCnt ⟨⟨true, 5, 8, true, 2, 0⟩, .g 1, .imm 0x9, .none, 0x0⟩),
   (0x68809E4001007E0000020000, .crdStat ⟨⟨false, 0, 2, false, 7, 9⟩, .g 1, .g 7, .none, 0x20000⟩),
   (0x6880000001C0900300121000, .crdStatW ⟨⟨false, 0, 0, false, 0, 0⟩, .g 1, .imm 0x9, .g 3, 0x121000⟩),
   (0x688C414002C03E0000040000, .crdTot ⟨⟨false, 3, 1, false, 0, 5⟩, .g 2, .imm 0x3, .none, 0x40000⟩),
   (0x68B6280002C04E0000060000, .crdCons ⟨⟨true, 5, 8, true, 2, 0⟩, .g 2, .imm 0x4, .none, 0x60000⟩),
   (0x68809E4002C05E0000080000, .crdProd ⟨⟨false, 0, 2, false, 7, 9⟩, .g 2, .imm 0x5, .none, 0x80000⟩),
   (0x6880000002C06E00000A0000, .crdFab ⟨⟨false, 0, 0, false, 0, 0⟩, .g 2, .imm 0x6, .none, 0xA0000⟩),
   (0x688C414002C07E00000C0000, .crdMon ⟨⟨false, 3, 1, false, 0, 5⟩, .g 2, .imm 0x7, .none, 0xC0000⟩),
   (0x68F6280E00003DFF00000000, .cadd ⟨⟨true, 5, 8, true, 2, 0⟩, .none, .g 3, .imm 0x1FF, 0x0⟩),
   (0x69009E4001C03E0000000000, .pcrd ⟨⟨false, 0, 2, false, 7, 9⟩, .g 1, .imm 0x3, .none, 0x0⟩),
   (0x6940000E0000200300000000, .pccfg ⟨⟨false, 0, 0, false, 0, 0⟩, .none, .g 2, .g 3, 0x0⟩)]

theorem counterWords_decode : ∀ e ∈ counterWords, decode e.1 = some e.2 ∧ encode e.2 = e.1 := by decide +kernel

def tableWordsA : List (BitVec 96 × Instr) :=
  [(0x7000000E0000DCFF00000000, .rtset ⟨⟨false, 0, 0, false, 0, 0⟩, .none, .g 13, .imm 0xFF, 0x0⟩),
   (0x704C414001E0000200040000, .rtget ⟨⟨false, 3, 1, false, 0, 5⟩, .g 1, .none, .g 2, 0x40000⟩),
   (0x70B6280E0000100200000000, .rkset ⟨⟨true, 5, 8, true, 2, 0⟩, .none, .g 1, .g 2, 0x0⟩),
   (0x70C09E4E00001E0000000000, .rkmovHold ⟨⟨false, 0, 2, false, 7, 9⟩, .none, .g 1, .none, 0x0⟩),
   (0x70C0000E0000100200020000, .rkmovRel ⟨⟨false, 0, 0, false, 0, 0⟩, .none, .g 1, .g 2, 0x20000⟩),
   (0x710C414E00001E0000000800, .tlbinvPage ⟨⟨false, 3, 1, false, 0, 5⟩, .none, .g 1, .none, 0x800⟩),
   (0x7136280E00E00E0000020C00, .tlbinvAll ⟨⟨true, 5, 8, true, 2, 0⟩, .none, .none, .none, 0x20C00⟩),
   (0x71409E4001E00CFF00000000, .fbrd ⟨⟨false, 0, 2, false, 7, 9⟩, .g 1, .none, .imm 0xFF, 0x0⟩),
   (0x7180000001E00E0000000C00, .replay ⟨⟨false, 0, 0, false, 0, 0⟩, .g 1, .none, .none, 0xC00⟩),
   (0x718C414E00E00E0000020800, .replayDeny ⟨⟨false, 3, 1, false, 0, 5⟩, .none, .none, .none, 0x20800⟩),
   (0x71F6280E00004E0000020000, .pgownHost ⟨⟨true, 5, 8, true, 2, 0⟩, .none, .g 4, .none, 0x20000⟩),
   (0x71C09E4E00C04E0000000000, .pgownDev ⟨⟨false, 0, 2, false, 7, 9⟩, .none, .imm 0x4, .none, 0x0⟩),
   (0x7200000E00C0800300000000, .htset ⟨⟨false, 0, 0, false, 0, 0⟩, .none, .imm 0x8, .g 3, 0x0⟩),
   (0x724C414001E00E0000000000, .genAck ⟨⟨false, 3, 1, false, 0, 5⟩, .g 1, .none, .none, 0x0⟩),
   (0x7276280001E00E0000020000, .genRd ⟨⟨true, 5, 8, true, 2, 0⟩, .g 1, .none, .none, 0x20000⟩),
   (0x72409E4001002C0300040000, .genRet ⟨⟨false, 0, 2, false, 7, 9⟩, .g 1, .g 2, .imm 0x3, 0x40000⟩),
   (0x7240000E00C05E0000060000, .genFree ⟨⟨false, 0, 0, false, 0, 0⟩, .none, .imm 0x5, .none, 0x60000⟩),
   (0x728C414E00C02C0100000000, .qcfgFuse ⟨⟨false, 3, 1, false, 0, 5⟩, .none, .imm 0x2, .imm 0x1, 0x0⟩),
   (0x72B6280001E0000300020000, .qcfgRoot ⟨⟨true, 5, 8, true, 2, 0⟩, .g 1, .none, .g 3, 0x20000⟩),
   (0x72809E4E0000100200040000, .qcfgMemb ⟨⟨false, 0, 2, false, 7, 9⟩, .none, .g 1, .g 2, 0x40000⟩),
   (0x7280000005C01E0000260000, .qcfgRankt ⟨⟨false, 0, 0, false, 0, 0⟩, .g 5, .imm 0x1, .none, 0x260000⟩),
   (0x728C414E00E0000700080000, .qcfgHtab ⟨⟨false, 3, 1, false, 0, 5⟩, .none, .none, .g 7, 0x80000⟩),
   (0x72B6280001CAAC70000A0000, .qcfgCplan ⟨⟨true, 5, 8, true, 2, 0⟩, .g 1, .imm 0xAA, .imm 0x70, 0xA0000⟩),
   (0x72809E4001C3FE00002C0000, .qcfgFeat ⟨⟨false, 0, 2, false, 7, 9⟩, .g 1, .imm 0x3F, .none, 0x2C0000⟩)]

def tableWordsB : List (BitVec 96 × Instr) :=
  [(0x72C0000E00005E0000000000, .frzOn ⟨⟨false, 0, 0, false, 0, 0⟩, .none, .g 5, .none, 0x0⟩),
   (0x72CC414E00005E0000020000, .frzOff ⟨⟨false, 3, 1, false, 0, 5⟩, .none, .g 5, .none, 0x20000⟩),
   (0x7336280E00001E0000000000, .pdoneSave ⟨⟨true, 5, 8, true, 2, 0⟩, .none, .g 1, .none, 0x0⟩),
   (0x73009E4E00E00E0000020000, .pdoneRest ⟨⟨false, 0, 2, false, 7, 9⟩, .none, .none, .none, 0x20000⟩)]

theorem tableWordsA_decode : ∀ e ∈ tableWordsA, decode e.1 = some e.2 ∧ encode e.2 = e.1 := by decide +kernel
theorem tableWordsB_decode : ∀ e ∈ tableWordsB, decode e.1 = some e.2 ∧ encode e.2 = e.1 := by decide +kernel

def farrierWords : List (BitVec 96 × Instr) :=
  [(0x8000000E00E00E0000000000, .fdoneRes ⟨⟨false, 0, 0, false, 0, 0⟩, .none, .none, .none, 0x0⟩),
   (0x800C414E00E00E0000020000, .fdoneSat ⟨⟨false, 3, 1, false, 0, 5⟩, .none, .none, .none, 0x20000⟩),
   (0x8036280E00E00E0000040000, .fdoneDeny ⟨⟨true, 5, 8, true, 2, 0⟩, .none, .none, .none, 0x40000⟩),
   (0x80009E4E00E00E0000060000, .fdoneHold ⟨⟨false, 0, 2, false, 7, 9⟩, .none, .none, .none, 0x60000⟩),
   (0x8040000001002C0300000000, .tagrd ⟨⟨false, 0, 0, false, 0, 0⟩, .g 1, .g 2, .imm 0x3, 0x0⟩),
   (0x808C414E00000C0300020000, .tagwr ⟨⟨false, 3, 1, false, 0, 5⟩, .none, .g 0, .imm 0x3, 0x20000⟩),
   (0x80F6280004005E0000000000, .dirrd ⟨⟨true, 5, 8, true, 2, 0⟩, .g 4, .g 5, .none, 0x0⟩),
   (0x81009E440300500800000000, .dirwr ⟨⟨false, 0, 2, false, 7, 9⟩, .c 3, .g 5, .g 8, 0x0⟩),
   (0x8140000001002C0F00000000, .btx ⟨⟨false, 0, 0, false, 0, 0⟩, .g 1, .g 2, .imm 0xF, 0x0⟩),
   (0x818C414003C01E0000020000, .frep ⟨⟨false, 3, 1, false, 0, 5⟩, .g 3, .imm 0x1, .none, 0x20000⟩),
   (0x81F628000100200300B40000, .freq ⟨⟨true, 5, 8, true, 2, 0⟩, .g 1, .g 2, .g 3, 0xB40000⟩),
   (0x82009E4E00001E0000000000, .fwake ⟨⟨false, 0, 2, false, 7, 9⟩, .none, .g 1, .none, 0x0⟩),
   (0x8240000E00001C0200000000, .fpoison ⟨⟨false, 0, 0, false, 0, 0⟩, .none, .g 1, .imm 0x2, 0x0⟩),
   (0x828C414006E00E0000000000, .fblk ⟨⟨false, 3, 1, false, 0, 5⟩, .g 6, .none, .none, 0x0⟩),
   (0x82F628000100200300060009, .fsto ⟨⟨true, 5, 8, true, 2, 0⟩, .g 1, .g 2, .g 3, 0x60009⟩)]

theorem farrierWords_decode : ∀ e ∈ farrierWords, decode e.1 = some e.2 ∧ encode e.2 = e.1 := by decide +kernel

end Sys2Proof
end

