-- ==== Sys2Proof/Config.lean ====
section
/-! DEFINITION. Config.lean: what an implementation fixes and the manual leaves open, as constants without a body:
nothing in Lean can evaluate one or prove a value of it. Each is named in the assumption log. -/

namespace Sys2Proof.Config

/-- The internal value of a special function (R133) of an encoding: function number, type code, bits; sign, numerator
and denominator. Log 9. -/
opaque special : Nat → Nat → Nat → Bool × Nat × Nat

/-- The order in which the combining tree joins the contributions of a collective (R30), by scope and member cores: which
two partial results each node takes. Log 10. -/
opaque treeOrder : Nat → List Nat → List Nat

/-- The carrier a flow hashes to among `n` (R398): source package, destination, address or core number. Log 11. -/
opaque flowHash : Nat → Nat → Nat → Nat

/-- SHA-512 of a byte string (R418-R420). Log 12. -/
opaque sha512 : List Byte → BitVec 512

/-- A signature of the device key over bytes (R422). Log 12. -/
opaque sign : List Byte → List Byte

/-- Whether a signature over bytes verifies under the firmware's public key (R408, R421). Log 12. -/
opaque verify : List Byte → Bool

/-- The device public key and certificate as the attestation reply holds them (R422). Log 12. -/
opaque deviceCert : List Byte

/-- The hash of the device's fused image key (R418). Log 12. -/
opaque fusedKey : BitVec 512

/-- Plaquali's PCI-SIG vendor identifier (R387). Log 76. -/
opaque vendorId : BitVec 16

/-- A free bit for the n-th choice the manual leaves to the device. Log 8. -/
opaque freeBit : Nat → Bool

/-- The code of a snoop kind in g5 (R320), by the order SnpData, SnpInv, SnpCur. Log 70. -/
opaque snoopCode : Nat → BitVec 64

/-- The code address a jump or a loop's end takes, in instructions, where it falls outside the address space (R37, R38). Log 86. -/
opaque outside : Int → Nat

/-- A free number for the n-th choice the manual leaves to the device. Log 8. -/
opaque freeNat : Nat → Nat

/-- What a signed image holds (R418, R419, R442), whose layout the manual does not give: the public key of its header, its
security version, the code object inside, and the initial tag of a handler set. Log 36. -/
opaque imageKey : List Byte → List Byte
opaque imageSvn : List Byte → Nat
opaque imageObject : List Byte → List Byte
opaque imageTag : List Byte → Option Nat

/-- The version of a groom image (R413). Log 36. -/
opaque groomVersion : List Byte → Nat

/-- The bytes that a groom image puts into the local memory of a server core, from offset 0 on (R418 step 6). Log 36. -/
opaque groomLocal : List Byte → Nat → List Byte

/-- The erase blocks of the flash store that firmware reserves are those below this number (R414). Log 36. -/
opaque flashReserved : Nat

/-- Where the loader places a section among the placements R411 allows: a free choice by load number. Log 13. -/
opaque placement : Nat → Nat

/-- The die that holds CXL port p, and with it the host port on port 0 (R203). Log 14. -/
opaque portDie : Nat → Fin 8

/-- The input port on which packets from a package outside the mesh reach a core (R448): north, east, south or west. Log 16. -/
opaque entryPort : Nat → Nat → Fin 4

end Sys2Proof.Config
end

