-- ==== Sys2Proof/Machine/Num.lean ====
section
/-! DEFINITION. Machine/Num.lean: number formats, exact values, rounding, integer conversion and the stochastic draw
(R76-R95). An exact value is a fraction of whole numbers, so nothing is lost before `roundTo`. -/

namespace Sys2Proof.Machine

/-! ### Flags (R94) -/

/-- Five flags of one coefficient: NX 0, UF 1, OF 2, DZ 3, NV 4 (R68). -/
abbrev Fl := BitVec 5
def flNX : Fl := 1
def flUF : Fl := 2
def flOF : Fl := 4
def flDZ : Fl := 8
def flNV : Fl := 16

/-! ### Exact values -/

/-- An exact value: NaN, an infinity, a signed zero, or ± n / d with n and d nonzero. -/
inductive Val where
  | nan
  | inf (neg : Bool)
  | zero (neg : Bool)
  | fin (neg : Bool) (n d : Nat)
deriving DecidableEq, Repr

/-- The value of a fraction; an exact zero takes the sign given. -/
def mkVal (zneg : Bool) (n : Int) (d : Nat) : Val :=
  if n = 0 then .zero zneg else .fin (n < 0) n.natAbs d

/-- The value of an integer. -/
def intVal (n : Int) : Val := mkVal false n 1

def sgn (neg : Bool) (n : Nat) : Int := if neg then -(n : Int) else n

/-- n × 2^e as numerator and denominator. -/
def scale2 (n d : Nat) (e : Int) : Nat × Nat :=
  if 0 ≤ e then (n * 2 ^ e.toNat, d) else (n, d * 2 ^ (-e).toNat)

def valScale (e : Int) : Val → Val
  | .fin s n d => let r := scale2 n d e; .fin s r.1 r.2
  | v => v

def valNeg : Val → Val
  | .nan => .nan
  | .inf s => .inf !s
  | .zero s => .zero !s
  | .fin s n d => .fin (!s) n d

/-- Exact sum with the flags of R94; `rdn` says that rounding is toward −∞, where an exact zero sum is −0 (R80). -/
def valAdd (rdn : Bool) : Val → Val → Val × Fl
  | .nan, _ => (.nan, 0)
  | _, .nan => (.nan, 0)
  | .inf a, .inf b => if a = b then (.inf a, 0) else (.nan, flNV)
  | .inf a, _ => (.inf a, 0)
  | _, .inf b => (.inf b, 0)
  | .zero a, .zero b => (.zero (if a = b then a else rdn), 0)
  | .zero _, b => (b, 0)
  | a, .zero _ => (a, 0)
  | .fin a n d, .fin b p q =>
    if d = q then (mkVal rdn (sgn a n + sgn b p) d, 0)
    else (mkVal rdn (sgn a n * q + sgn b p * d) (d * q), 0)

def valMul : Val → Val → Val × Fl
  | .nan, _ => (.nan, 0)
  | _, .nan => (.nan, 0)
  | .inf _, .zero _ => (.nan, flNV)
  | .zero _, .inf _ => (.nan, flNV)
  | .inf a, .inf b => (.inf (a != b), 0)
  | .inf a, .fin b _ _ => (.inf (a != b), 0)
  | .fin a _ _, .inf b => (.inf (a != b), 0)
  | .zero a, .zero b => (.zero (a != b), 0)
  | .zero a, .fin b _ _ => (.zero (a != b), 0)
  | .fin a _ _, .zero b => (.zero (a != b), 0)
  | .fin a n d, .fin b p q => (.fin (a != b) (n * p) (d * q), 0)

def valDiv : Val → Val → Val × Fl
  | .nan, _ => (.nan, 0)
  | _, .nan => (.nan, 0)
  | .inf _, .inf _ => (.nan, flNV)
  | .zero _, .zero _ => (.nan, flNV)
  | .inf a, .zero b => (.inf (a != b), 0)
  | .fin a _ _, .zero b => (.inf (a != b), flDZ)
  | .inf a, .fin b _ _ => (.inf (a != b), 0)
  | .zero a, .inf b => (.zero (a != b), 0)
  | .zero a, .fin b _ _ => (.zero (a != b), 0)
  | .fin a _ _, .inf b => (.zero (a != b), 0)
  | .fin a n d, .fin b p q => (.fin (a != b) (n * q) (d * p), 0)

/-- ⌊log₂ (n/d)⌋. -/
def log2Frac (n d : Nat) : Int :=
  let e : Int := (n.log2 : Int) - d.log2
  let r := scale2 1 1 e
  if r.1 * d ≤ n * r.2 then e else e - 1

/-- Integer square root by bits: the largest r with r² ≤ n, for n < 4^k. -/
def isqrt : Nat → Nat → Nat → Nat
  | 0, _, r => r
  | k + 1, n, r => let t := r + 2 ^ k; isqrt k n (if t * t ≤ n then t else r)

/-- √(n/d) as a fraction: exact where it is rational; otherwise a value between two neighbours of a grid at least 2^100
times finer than the result, which every rounding of R90 takes to the same place as the root itself. -/
def sqrtFrac (n d : Nat) : Nat × Nat :=
  let e := (100 - (log2Frac n d) / 2).toNat
  let m := n * 4 ^ e
  let r := isqrt 128 (m / d) 0
  if r * r * d = m then (r, 2 ^ e) else (2 * r + 1, 2 ^ (e + 1))

/-- √b (R131). -/
def valSqrt : Val → Val × Fl
  | .nan => (.nan, 0)
  | .zero s => (.zero s, 0)
  | .inf false => (.inf false, 0)
  | .inf true => (.nan, flNV)
  | .fin true _ _ => (.nan, flNV)
  | .fin false n d => let r := sqrtFrac n d; (.fin false r.1 r.2, 0)

/-- Ordering of exact values, none where either is NaN; ±0 are equal. -/
def valNum : Val → Option (Option Bool × Int × Nat)
  | .nan => none
  | .inf s => some (some s, 0, 1)
  | .zero _ => some (none, 0, 1)
  | .fin s n d => some (none, sgn s n, d)
def valCmp (a b : Val) : Option Ordering :=
  match valNum a, valNum b with
  | some (some true, _), some (some true, _) => some .eq
  | some (some false, _), some (some false, _) => some .eq
  | some (some true, _), some _ => some .lt
  | some (some false, _), some _ => some .gt
  | some _, some (some true, _) => some .gt
  | some _, some (some false, _) => some .lt
  | some (none, n, d), some (none, p, q) => some (compare (n * q) (p * d))
  | _, _ => none

/-! ### Float formats (R78) -/

/-- Exponent width, mantissa width, bias, whether infinities exist, largest finite code, canonical NaN (none in E2M1). -/
structure FloatFmt where
  ebits : Nat
  p     : Nat
  bias  : Nat
  inf   : Bool
  maxc  : Nat
  qnan  : Option Nat
deriving DecidableEq, Repr

def fFP32 : FloatFmt := ⟨8, 23, 127, true, 0x7F7FFFFF, some 0x7FC00000⟩
def fFP16 : FloatFmt := ⟨5, 10, 15, true, 0x7BFF, some 0x7E00⟩
def fBF16 : FloatFmt := ⟨8, 7, 127, true, 0x7F7F, some 0x7FC0⟩
def fE4M3 : FloatFmt := ⟨4, 3, 7, false, 0x7E, some 0x7F⟩
def fE5M2 : FloatFmt := ⟨5, 2, 15, true, 0x7B, some 0x7E⟩
def fE2M1 : FloatFmt := ⟨2, 1, 1, false, 0x7, none⟩

/-- The float format of a type code (R45); FP32 where the code is no float. -/
def floatFmt (t : Nat) : FloatFmt :=
  if t = 4 then fE4M3 else if t = 5 then fE5M2 else if t = 6 then fE2M1 else if t = 7 then fBF16
  else if t = 8 then fFP16 else fFP32

/-- Width in bits. -/
def FloatFmt.w (f : FloatFmt) : Nat := 1 + f.ebits + f.p
def FloatFmt.emin (f : FloatFmt) : Int := 1 - (f.bias : Int)

/-- Decode(F, bits) for a float format (R78, R81). -/
def decodeFloat (f : FloatFmt) (x : Nat) : Val :=
  let neg := x.testBit (f.ebits + f.p)
  let c := x % 2 ^ (f.ebits + f.p)
  if f.maxc < c then (if f.inf && c = f.maxc + 1 then .inf neg else .nan)
  else
    let e := c / 2 ^ f.p; let m := c % 2 ^ f.p
    if c = 0 then .zero neg
    else
      let r := if e = 0 then scale2 m (2 ^ f.p) f.emin else scale2 (2 ^ f.p + m) (2 ^ f.p) ((e : Int) - f.bias)
      .fin neg r.1 r.2

/-- The whole number a rounding delivers for n/d (R90), with whether it is inexact: codes 0-5 of R44, `draw` the
stochastic draw. -/
def roundWhole (m draw : Nat) (neg : Bool) (n d : Nat) : Int × Bool :=
  let x : Int := sgn neg n
  let lo : Int := x / (d : Int)
  let rem := x - lo * d
  if rem = 0 then (lo, false)
  else
    let up : Bool := match m with
      | 0 => if 2 * rem = d then lo % 2 ≠ 0 else decide ((d : Int) < 2 * rem)
      | 1 => neg
      | 2 => true
      | 3 => false
      | 4 => if 2 * rem = d then !neg else decide ((d : Int) < 2 * rem)
      | _ => decide ((draw : Int) < rem * 2 ^ 24 / d)
    (if up then lo + 1 else lo, true)

/-- Round(x, F, m) (R90): the encoding and the flags raised. -/
def roundTo (f : FloatFmt) (m draw : Nat) (x : Val) : Nat × Fl :=
  let sbit := fun neg : Bool => if neg then 2 ^ (f.ebits + f.p) else 0
  match x with
  | .nan => match f.qnan with | some q => (q, 0) | none => (0, flNV)
  | .inf s => if f.inf then (sbit s + f.maxc + 1, 0) else (sbit s + f.maxc, flOF)
  | .zero s => (sbit s, 0)
  | .fin s n d =>
    let q := max (log2Frac n d) f.emin - f.p
    let r := scale2 n d (-q)
    let (k, inexact) := roundWhole m draw s r.1 r.2
    let code := (q + f.p - f.emin).toNat * 2 ^ f.p + k.natAbs
    let tiny := decide (log2Frac n d < f.emin)
    let fl : Fl := if inexact then (if tiny then flNX ||| flUF else flNX) else 0
    if f.maxc < code then
      let toMax := !f.inf || m = 1 || (m = 3 && !s) || (m = 2 && s)
      (sbit s + (if toMax then f.maxc else f.maxc + 1), fl ||| flOF ||| flNX)
    else (sbit s + code, fl)

/-! ### Integer formats (R76, R77, R91) -/

/-- Range of an integer type code; the ternary range for 3. -/
def intRange (t : Nat) : Int × Int :=
  match t with
  | 1 => (-128, 127)
  | 2 => (0, 255)
  | 3 => (-1, 1)
  | 0xB => (-32768, 32767)
  | 0xC => (-(2 ^ 63), 2 ^ 63 - 1)
  | _ => (-(2 ^ 31), 2 ^ 31 - 1)

def signExt (w x : Nat) : Int := if x.testBit (w - 1) then (x % 2 ^ w : Nat) - 2 ^ w else (x % 2 ^ w : Nat)

/-- The integer an element of an integer type holds (R76). -/
def decodeInt (t w x : Nat) : Int := if t = 2 || t = 0 then (x : Int) else signExt w x

/-- SatInt (R89). -/
def satInt (t : Nat) (x : Int) : Int × Fl :=
  let r := intRange t
  if x < r.1 then (r.1, flOF) else if r.2 < x then (r.2, flOF) else (x, 0)

/-- RoundInt (R91). -/
def roundInt (t m draw : Nat) : Val → Int × Fl
  | .nan => (0, flNV)
  | .inf true => ((intRange t).1, flNV)
  | .inf false => ((intRange t).2, flNV)
  | .zero _ => (0, 0)
  | .fin s n d =>
    let (k, inexact) := roundWhole m draw s n d
    let r := intRange t
    if k < r.1 then (r.1, flNV) else if r.2 < k then (r.2, flNV) else (k, if inexact then flNX else 0)

/-- The w low bits of an integer. -/
def wrap (w : Nat) (x : Int) : Nat := (x % (2 ^ w : Nat)).toNat

/-- The ternary code of −1, 0, +1 (R77). -/
def ternCode (x : Int) : Nat := if x = 0 then 0 else if x = 1 then 1 else 3

/-- Decode of a ternary code: 0b10 reads 0 with NV (R77). -/
def decodeTern (x : Nat) : Int × Fl := match x % 4 with | 0 => (0, 0) | 1 => (1, 0) | 3 => (-1, 0) | _ => (0, flNV)

/-- Decode(code, bits) for any type code (R76-R78). -/
def decodeVal (t x : Nat) : Val × Fl :=
  if 4 ≤ t && t ≤ 9 then (decodeFloat (floatFmt t) x, 0)
  else if t = 3 then let r := decodeTern x; (intVal r.1, r.2)
  else (intVal (decodeInt t (tyWidth (BitVec.ofNat 4 t)) x), 0)

/-- ElemValue(code, bits, s) (R86); `asInt` says that the reader is an integer operation. -/
def elemValue (asInt : Bool) (t x s : Nat) : Val × Fl :=
  let (v, fl) := decodeVal t x
  if t = 0 || 9 ≤ t || (asInt && t ≤ 3) then (v, fl)
  else match v with
    | .zero _ => (v, fl)
    | _ => if s = 0xFF then (.nan, fl ||| flNV) else (valScale ((s : Int) - 127) v, fl)

/-- Min and max of encodings (R132): −0 below +0, one NaN gives the other operand, two give the canonical NaN. `true`
when the first operand is taken. -/
def fminTakesB (isMax : Bool) (b c : Val) : Option Bool :=
  match b, c with
  | .nan, .nan => none
  | .nan, _ => some false
  | _, .nan => some true
  | .zero s, .zero t => some (if s = t then true else if isMax then !s else s)
  | b, c => match valCmp b c with
    | some .lt => some (!isMax)
    | some .gt => some isMax
    | _ => some true

/-! ### The stochastic draw (R92) -/

/-- SrBits(i, n). -/
def srBits (jobseed : W64) (rank : BitVec 32) (srctr : W64) (i n : Nat) : Nat :=
  let k := jobseed ^^^ ((rank.setWidth 64 + 1) * 0x8E5C13A7F0629B4D)
  let h := srctr ^^^ BitVec.ofNat 64 (i * 2 ^ 48) ^^^ BitVec.ofNat 64 (n * 2 ^ 45) ^^^ k
  let r := fun h : W64 =>
    let h := (h ^^^ (h >>> 31)) * 0xC4F16B2893DA57E3
    (h ^^^ (h >>> 29)) * 0x6A0DE93FB5271C59
  let h := r (r (r h))
  let h := h ^^^ (h >>> 32)
  (h.extractLsb' 40 24).toNat

end Sys2Proof.Machine
end

