-- ==== Sys2Proof/Machine/State.lean ====
section
/-! DEFINITION. Machine/State.lean: the state of the device as plain data. Every table, queue, register and
memory the manual names has a field here; INVENTORY.md lists them with their rules and reset values. Maps are
lists of (key, value) pairs read with a default, so an unlisted core, die or package is one at its reset values. -/

namespace Sys2Proof.Machine

/-- Why a step stops. No cause of the manual stops the device (each is a trap with a defined entry, R370), so
the one fault is the model's own. -/
inductive Fault where
  /-- Raised by `step` when the agenda names an instruction word as an event; safe: the run stops and nothing is
  claimed of it. -/
  | notAnEvent
deriving DecidableEq, Repr

/-- Why an instruction has no meaning. -/
inductive Refusal where
  /-- Raised by an arm of `exec` whose instruction has no meaning yet; safe: nothing is claimed. -/
  | notModelled (mnemonic : String)
deriving DecidableEq, Repr

/-- A map from numbers, read with a default for an unlisted key; keys rise strictly. -/
abbrev FMap (α : Type) := List (Nat × α)

/-- Bytes by address, in canonical form (strictly rising addresses, no zero byte listed). -/
abbrev Memory := List Host.Cell

/-- A block description: format code and E8M0 scale (R63, R83, R84). -/
structure Desc where
  fmt   : Byte := 0x00
  scale : Byte := 0x7F
deriving DecidableEq, Repr

/-- A 64-byte block with its description: a farrier's transfer buffer (R317), or data that travels. -/
structure Buf where
  data : B512 := 0
  desc : Desc := {}
deriving DecidableEq, Repr

/-- Whose registers an instruction acts on: a core's context or a farrier's thread. -/
inductive Agent where
  | ctx (k : CoreId) (c : Fin 8)
  | thread (f : FarId) (t : Fin 16)
deriving DecidableEq, Repr

/-- What happens next (the model's own): a core clock, a farrier clock, or an event of the table. -/
inductive Turn where
  | cycle (k : CoreId)
  | fclock (f : FarId)
  | event (i : Instr)
deriving DecidableEq, Repr

/-- The registers that core contexts and farrier threads both have (R62, R317). -/
structure Hart where
  g  : Vector W64 16 := Vector.replicate 16 0
  /-- bit n is cn; bit 0 is never read (R39) -/
  c  : BitVec 8 := 1
  pc : PcW := 0
deriving DecidableEq, Repr

/-- One register write, for a v, vs or m register with the bits it writes. -/
inductive RegWrite where
  | g (r : Fin 16) (x : W64)
  | c (r : Fin 8) (b : Bool)
  | v (r : Fin 32) (mask x : V1024)
  | vs (r : Fin 32) (mask x : W64)
  | m (r : Fin 8) (mask x : BitVec 128)
deriving DecidableEq, Repr

/-- An instruction whose lookahead window is open (R31, R48). -/
structure Flight where
  id     : Nat
  pc     : PcW
  /-- instructions of the window still to come -/
  left   : Nat
  dests  : List Opd
  /-- what completion has still to write -/
  writes : List RegWrite := []
  flags  : BitVec 40 := 0
  /-- it can still raise a flag (R71) -/
  raises : Bool := false
  /-- the access it completes with -/
  acc    : Option Nat := none
  /-- the anvil entry it completes with, the v registers and the own-local rows that entry reads (R171) -/
  anv    : Option Nat := none
  srcs   : List Opd := []
  rows   : List Nat := []
  done   : Bool := false
deriving DecidableEq, Repr

/-- What a parked or suspended party is. -/
inductive Party where
  /-- an element of an access -/
  | acc (k : CoreId) (id part : Nat)
  /-- the walker's read for an element -/
  | walk (k : CoreId) (id part : Nat)
  /-- a release's write of a block -/
  | rel (k : CoreId) (id blk : Nat)
  /-- a write-back by replacement or write-through, by the context that caused it -/
  | wb (k : CoreId) (id : Nat) (c : Fin 8) (user typed : Bool)
  /-- the dray's block -/
  | dray (k : CoreId)
  /-- a host-window access (R390) -/
  | host (p : PkgId) (n : Nat)
  /-- another farrier's thread, awaiting a reply -/
  | far (f : FarId) (t : Fin 16) (waits : Bool)
  /-- the host port's snoop of a line (R349) -/
  | snoop (p : PkgId) (line : Nat)
  | none
deriving DecidableEq, Repr

/-- What a table instruction carries while it runs (R303). -/
inductive TJob where
  | plain
  /-- `frz.on`: the writes up to this number are awaited (R311) -/
  | frz (mark : Nat)
  /-- `replay`: whether a notice was outstanding at issue; the parties still to act on, whether the first is being walked, and
  those parked again (R294, R295) -/
  | replay (had : Bool) (snap : Option (List Party)) (mid : Bool) (n : Nat)
  /-- a rebind: the farriers that have queued REBIND (R350); or `pgown.host` with its lines busy (R308) -/
  | rebind (begun : List FarId)
  /-- `tlbinv`: the suspended walks that it awaits (R306) -/
  | walks (ps : List Party)
deriving DecidableEq, Repr

/-- What a waiting context keeps while it waits (R377). -/
inductive CWait where
  | none
  /-- a `.fw` wait for the fill bits of these lines, not yet issued: whether a cycle has found them all set (R252), and the block
  format `amma` fixed after its first wait (R175) -/
  | fill (lines : List Nat) (met : Bool) (fmt : Option Byte)
  /-- `done`: the release it made -/
  | finish (rel : Nat)
  /-- `halt` -/
  | halting (rel : Nat)
  /-- `hop`: the release it made, its target, and the slot of its message once sent -/
  | hop (rel : Nat) (target : CoreId) (slot : Option Nat)
  /-- `bar`: the release and the scope -/
  | bar (rel : Nat) (scope : BitVec 3)
  /-- `vqmax`: the tag of its exchange entry -/
  | vqmax (tag : BitVec 16)
  /-- a table instruction whose opening release is still running -/
  | release (rel : Nat) (job : TJob)
  /-- a table instruction not yet complete: the value of an update already made, and whether its completion has come (R303) -/
  | table (job : TJob) (result : Option W64) (done : Bool)
  /-- a global `carm` whose window is being registered, and whether it has been (R364) -/
  | carmReg (h : CtrId) (done : Bool)
  /-- `pdone.rest` executed: the record's words; not ready until core resume (R383) -/
  | restored (w0 w1 : W64)
  /-- `pdone.save` executed: state discarded until resume (R313) -/
  | saved
deriving DecidableEq, Repr

/-- The instruction has issued. -/
def CWait.begun : CWait → Bool
  | .none | .fill .. | .restored .. | .saved => false
  | _ => true

/-- A fence point (R284): the named queues, and the entries placed before it not yet performed. -/
structure FencePt where
  anvil  : Bool
  dray   : Bool
  st     : Bool
  before : List Nat
deriving DecidableEq, Repr

/-- The context pool's states (R256). -/
inductive Pool where
  | free
  | reserved
  | busy
  | discarded
deriving DecidableEq, Repr

/-- The units a context can hold through its occupancy (R264). -/
inductive FUnit where
  | vec | muldiv | sfu | vecSfu
deriving DecidableEq, Repr

/-- A forwarding entry (R25). -/
structure Forward where
  dst    : CoreId
  dstCtx : Option (Fin 8)
  mask   : BitVec 16
deriving DecidableEq, Repr

/-- One context (R62, R68, R256). -/
structure Ctx where
  hart     : Hart := {}
  v        : Vector V1024 32 := Vector.replicate 32 0
  vs       : Vector W64 32 := Vector.replicate 32 0
  m        : Vector (BitVec 128) 8 := Vector.replicate 8 0
  z        : Vector (Vector (BitVec 32) 256) 4 := Vector.replicate 4 (Vector.replicate 256 0)
  lc       : Vector (BitVec 32) 2 := Vector.replicate 2 0
  ls       : Vector PcW 2 := Vector.replicate 2 0
  le       : Vector PcW 2 := Vector.replicate 2 0
  /-- the in-force (start, end) pair of each level (R115) -/
  force    : Vector (Option (PcW × PcW)) 2 := Vector.replicate 2 none
  /-- true in supervisor mode -/
  sup      : Bool := true
  jord     : BitVec 3 := 0
  fround   : BitVec 3 := 0
  fflags   : BitVec 40 := 0
  mmrev    : BitVec 4 := 2
  srctr    : W64 := 0
  pmode    : Bool := false
  ien      : Bool := false
  pien     : Bool := false
  lkchk    : Bool := false
  epc      : PcW := 0
  ecause   : Cause := 0
  eaddr    : W64 := 0
  escratch : W64 := 0
  /-- the uncounted-off stores and messages, by number; `unack` is their count (R15) -/
  pend     : List Nat := []
  pool     : Pool := .free
  /-- the sender and slot a reserved context waits for (R17) -/
  holdFor  : Option MRef := none
  gap      : Nat := 0
  occ      : Nat := 0
  /-- the last cycle of its occupancy moves the context to the end of the age order (S) -/
  swEnd    : Bool := false
  unit     : Option FUnit := none
  flight   : List Flight := []
  wait     : CWait := .none
  fences   : List FencePt := []
  fwd      : Option Forward := none
  /-- registers of a hopped activation whose forwarded loads are pending (R25) -/
  fwdIn    : BitVec 16 := 0
  /-- collectives contributed and not yet read (R282) -/
  joined   : Nat := 0
  /-- entered at a save or restore entry and not yet through its `pdone` (R372) -/
  inEntry  : Bool := false
deriving DecidableEq, Repr

/-- The scalar state a hop message carries (R23). -/
structure HopImg where
  g      : Vector W64 16
  c      : BitVec 8
  pc     : PcW
  lc     : Vector (BitVec 32) 2
  ls     : Vector PcW 2
  le     : Vector PcW 2
  jord   : BitVec 3
  fround : BitVec 3
  mmrev  : BitVec 4
  srctr  : W64
  mask   : BitVec 16
deriving DecidableEq, Repr

/-- Whose a counter is: the core that armed it, or, for a launch counter of a code object, the job in its package (R358). -/
inductive Owner where
  | core (k : CoreId)
  | job (p : PkgId)
deriving DecidableEq, Repr

/-- A message in a retry buffer (R9, R15). -/
structure Msg where
  uid     : Nat
  target  : CoreId
  ty      : BitVec 12
  payload : List W64
  kind    : BitVec 2
  glob    : Bool := false
  sidx    : BitVec 16 := 0
  /-- the sending context, whose unack it counts in; none for launches and notices of the device -/
  ctx     : Option (Fin 8) := none
  hop     : Option HopImg := none
  /-- the target as written, and whether it was sent in user mode -/
  addr    : W64 := 0
  user    : Bool := true
  /-- the releases entered before it, which it waits for (R212) -/
  rels    : List Nat := []
  /-- sent by a supervisor instruction of the entry bundles (R372) -/
  early   : Bool := false
  /-- whose counter launched it -/
  owner   : Option Owner := none
deriving DecidableEq, Repr

/-- Where a message in a retry-buffer slot stands (R14-R17, R269). -/
inductive RState where
  | sent
  | accepted
  | refused (listed : Bool)
  | frozen
  | backoff
  | listed
  | noticed
deriving DecidableEq, Repr

/-- One slot of the retry buffer, with its back-off delay (R16). -/
structure RSlot where
  msg   : Msg
  st    : RState
  delay : Nat
deriving DecidableEq, Repr

/-- An entry of the refusal list (R14). -/
structure Listed where
  msg : MRef
  sup : Bool
deriving DecidableEq, Repr

/-- The stages of one element of an access (R207, R240). -/
inductive Stage where
  /-- held behind releases or earlier accesses to the same core (R212, R219) -/
  | wait
  /-- a global address not yet translated; page-table blocks the farriers supplied for it -/
  | walk (blks : List Nat)
  /-- it found its die's pool full: an unmapped page (R291), or a host-owned region (R296) -/
  | missed
  /-- parked in the die's pool, KIND 0 or 1 (R261, R296) -/
  | parked (owned : Bool)
  /-- the walker's own read of a table block is suspended (R291) -/
  | walkSusp (pa : Nat) (blks : List Nat)
  /-- translated -/
  | ready (pa : Nat)
  /-- a store in L1 awaiting its tag (R197) -/
  | tagReq (pa : Nat)
  /-- suspended at a tag and posted (R199) -/
  | susp (pa : Nat)
  /-- a write-through suspended at a tag and posted as WR -/
  | suspW (pa : Nat)
  /-- on its way to a bank or home slice -/
  | sent (pa : Nat)
  | served
  | failed (cause : Cause) (eaddr : W64)
deriving DecidableEq, Repr

/-- Where one element of an access goes. -/
inductive Tgt where
  | bank (k : CoreId) (off : Nat)
  | glob (va : W64)
deriving DecidableEq, Repr

/-- One element of an access: its bytes (none where disabled) and what it read. -/
structure Part where
  ea    : W64
  tgt   : Tgt
  /-- its place in the register image, in bytes -/
  off   : Nat
  bytes : List (Option Byte)
  stage : Stage
  got   : List Byte := []
  gotD  : Desc := {}
deriving DecidableEq, Repr

/-- The atomics of R247 and R249. -/
inductive AtOp where
  | add | and | or | xor | min | max | xchg | cas | fadd
deriving DecidableEq, Repr

/-- What an access does (R241-R252, R271, R364, R365). -/
inductive AKind where
  | ld (sz : BitVec 3) (r : Fin 16)
  | st
  /-- the plane registers, `.z`, and the group registers written with zero (R165) -/
  | vld (regs : List (Fin 32)) (zr : Bool) (clear : List (Fin 32))
  | vst (descs : List Desc)
  | vldx (r : Fin 32) (w : Nat) (zr : Bool)
  | vstx (desc : Desc)
  | ldblk (r : Fin 32) (h : Bool)
  | stblk (desc : Desc)
  | ldmeta (r : Fin 16)
  | stmeta (desc : Desc)
  | atomic (op : AtOp) (w : Nat) (dst : Option (Fin 16)) (x cmp : W64)
  | ablk (op : AtOp) (ty : BitVec 4) (dst : Option (Fin 32)) (x : B512)
  | fillBits (set : Bool) (n : Nat)
  | fetch
  | pref (l2 : Bool)
  /-- a translation only: `hop.g` or a global `carm` -/
  | xlate
  | cadd (h : CtrId) (x : W64)
  /-- `crd` of a global counter (R366) -/
  | crd (h : CtrId) (sel : Nat) (r : Fin 16)
deriving DecidableEq, Repr

/-- An outstanding access of a core. -/
structure Access where
  id    : Nat
  ctx   : Fin 8
  /-- issued in user mode -/
  user  : Bool
  kind  : AKind
  parts : List Part
  /-- the instruction's address -/
  pc    : PcW
  /-- the releases it waits for (R212) -/
  rels  : List Nat := []
  /-- it counts in unack -/
  counted : Bool := false
  /-- acquire order and its scope (R217) -/
  acq   : Option (BitVec 3) := none
  /-- written through to the die's L2 (R224) -/
  through : Bool := false
  /-- the instruction's MI (R320) -/
  mi    : BitVec 32 := 0
  /-- it belongs to an activation that has hopped away (R25) -/
  hopped : Bool := false
  /-- the package that its requests went to, and the source there of its reply (R399) -/
  far    : Option (PkgId × Nat) := none
  /-- how many of the packets that bring its reply have left: the reply, and for a forwarded load the forwarding (R25, R399) -/
  backs  : Nat := 0
  flags : BitVec 5 := 0
deriving DecidableEq, Repr

/-- A 4-byte word captured by a release (R209), at word address pa/4. -/
structure CapWord where
  wa  : Nat
  val : BitVec 32
  desc : Desc
deriving DecidableEq, Repr

/-- A block description captured by a release (R209). -/
structure CapDesc where
  blk  : Nat
  desc : Desc
deriving DecidableEq, Repr

/-- An entry of a core's release order (R209). -/
structure Rel where
  id     : Nat
  ctx    : Fin 8
  user   : Bool
  scope  : BitVec 3
  x      : Bool
  /-- captured accesses and messages, by number -/
  caps   : List Nat
  words  : List CapWord
  descs  : List CapDesc
  /-- blocks whose WR is posted and not settled -/
  posted : List Nat := []
  /-- pod intervals closed and not confirmed: destination and number (R227) -/
  ivs    : List (Nat × BitVec 32) := []
  closed : Bool := false
  failed : Bool := false
  /-- the address of the releasing instruction (R370) -/
  pc     : PcW := 0
deriving DecidableEq, Repr

/-- An entry of the reply-fault list (R374). -/
structure RFault where
  ctx   : Fin 8
  seq   : Nat
  user  : Bool
  cause : Cause
  eaddr : W64
  /-- the number whose unack count ends when the trap is taken (R228) -/
  uid   : Option Nat := none
  /-- a failed fetch of the instruction at `eaddr` -/
  fetch : Bool := false
  /-- the instruction epc names where it is not the first not issued (R370, cause 0x0D) -/
  at'   : Option PcW := none
  /-- raised by a supervisor instruction of the entry bundles (R372) -/
  early : Bool := false
deriving DecidableEq, Repr

/-- A copy of a 128-byte line in L1 (R196, R213). -/
structure L1Line where
  line   : Nat
  data   : V1024 := 0
  valid  : BitVec 32 := 0
  dirty  : BitVec 32 := 0
  ddirty : BitVec 2 := 0
  pin    : BitVec 8 := 0
  desc0  : Desc := {}
  desc1  : Desc := {}
  tag0   : BitVec 2 := 0
  tag1   : BitVec 2 := 0
  use    : Nat := 0
  /-- the core of the quad that wrote each dirty word, 2 bits a word (R200) -/
  wby    : BitVec 64 := 0
  /-- bytes stored in words that are not yet VALID: the rest of such a word is still to be merged from L2 (R197) -/
  part   : BitVec 128 := 0
deriving DecidableEq, Repr

/-- A bundle in the instruction cache, by virtual address (R201), with its page's U bit. -/
structure IcLine where
  va   : Nat
  user : Bool
  code : List Byte
deriving DecidableEq, Repr

/-- A TLB entry (R292). -/
structure Tlb where
  vpn : Nat
  big : Bool
  ppn : Nat
  w   : Bool
  x   : Bool
  u   : Bool
deriving DecidableEq, Repr

/-- Where a row of an anvil operand lies (R173, R174), with its latched description. -/
structure ARow where
  /-- a local offset, or register and first byte -/
  src  : Nat ⊕ (Fin 32 × Nat)
  desc : Desc
deriving DecidableEq, Repr

/-- An anvil command after its issue checks (R176-R184). -/
inductive AnvOp where
  /-- fa, fb: the element formats when fixed by TY and TYB; none takes each row's own -/
  | amma (z : Fin 4) (tern : Bool) (fa fb : Option Byte) (noscale : Bool) (ra rb : List ARow)
  | azero (z : Fin 4)
  | ald (z : Fin 4) (rows : List Nat)
  | ast (z : Fin 4) (rows : List Nat) (ty : Byte)
  | ascale (za zb : Fin 4) (v : Fin 32) (int relu : Bool)
  | adrain (z : Fin 4) (ty : Byte) (dst : CoreId) (off : Nat) (addr : W64) (wake : Option (BitVec 12)) (x : W64)
deriving DecidableEq, Repr

/-- An entry of the anvil queue (R169). -/
structure AnvEntry where
  id   : Nat
  ctx  : Fin 8
  user : Bool
  op   : AnvOp
  /-- the releases entered before it, which its start waits for (R212) -/
  rels : List Nat := []
  /-- made by a supervisor instruction of the entry bundles (R372) -/
  early : Bool := false
deriving DecidableEq, Repr

/-- A drain whose writes or wake-up are outstanding (R184). -/
structure Drain where
  id     : Nat
  /-- the number of its first write, given when its writes are sent -/
  seq    : Nat
  ctx    : Fin 8
  user   : Bool
  dst    : CoreId
  off    : Nat
  addr   : W64
  desc   : Desc
  /-- the 128-byte images, in order -/
  lines  : List V1024
  /-- lines already performed -/
  performed : Nat := 0
  wake   : Option (BitVec 12)
  x      : W64
  /-- made by a supervisor instruction of the entry bundles (R372) -/
  early  : Bool := false
deriving DecidableEq, Repr

/-- A dray command (R274-R276). -/
inductive DrayOp where
  | dcopy (dst src : W64) (n : Nat) (fw ad as_ nodesc slot : Bool)
  | dgath (dst : W64) (list cnt : Nat) (base : W64) (stride : Nat) (ty : BitVec 4) (row pool : Nat) (fw ad slot x64 : Bool)
  | dscad (list cnt : Nat) (base : W64) (src : Nat) (stride : Nat) (ty : BitVec 4) (row : Nat) (fw x64 : Bool)
deriving DecidableEq, Repr

/-- A block the dray has formed and not yet written: where, what, and whether it completes a line or is added (R276). -/
structure DrayOut where
  ea   : W64
  /-- the address is a data address -/
  af   : Bool
  data : B512
  desc : Option Desc
  full : Bool := false
  add  : Option (BitVec 4) := none
deriving DecidableEq, Repr

/-- An entry of the dray queue, with how far it has come (R254). -/
structure DrayEntry where
  id    : Nat
  ctx   : Fin 8
  user  : Bool
  op    : DrayOp
  /-- outputs formed -/
  prog  : Nat := 0
  /-- the fill wait is over (R272) -/
  began : Bool := false
  /-- the address of the slot taken -/
  slot  : Option W64 := none
  outq  : List DrayOut := []
  flags : BitVec 5 := 0
  /-- the block it waits for: parked, suspended or on the fabric -/
  stage : Option Stage := none
  /-- the address it waits at -/
  va    : W64 := 0
  /-- blocks a farrier supplied for the output being formed -/
  sats  : List (Nat × Buf) := []
  /-- blocks it reaches in another package: address, the number of the packet on its way, and what the reply brings (R399) -/
  trips : List (W64 × Nat × Option Buf) := []
  /-- made by a supervisor instruction of the entry bundles (R372) -/
  early : Bool := false
  /-- the releases entered before it, which its start waits for (R212) -/
  rels  : List Nat := []
deriving DecidableEq, Repr

/-- A dray write on its way to another core (R255). -/
structure DrayWrite where
  n    : Nat
  /-- the number of its command -/
  cmd  : Nat
  ctx  : Fin 8
  ea   : W64
  dst  : CoreId
  off  : Nat
  data : B512
  desc : Option Desc
  full : Bool
  /-- an atomic of `dscad`: its block is added at the bank (R276) -/
  add  : Option (BitVec 4) := none
  /-- what it came to, while its acknowledgement or refusal is on the fabric (R399) -/
  back : Option (Option Cause × BitVec 5) := none
deriving DecidableEq, Repr

/-- A dray command that has stopped (R273): its number, context, cause and failing address. -/
structure DrayBad where
  id    : Nat
  ctx   : Fin 8
  user  : Bool
  cause : Cause
  ea    : W64
  early : Bool := false
deriving DecidableEq, Repr

/-- A write that reached a core's write input queue (R255): what, and on which port. -/
structure WIn where
  ref  : WRef
  port : Fin 5
  seq  : Nat
deriving DecidableEq, Repr

/-- A message at a port of an interface. -/
structure MIn where
  ref  : MRef
  port : Fin 5
  seq  : Nat
deriving DecidableEq, Repr

/-- A contribution of `vqmax` (R147). -/
structure VqMsg where
  n    : Nat
  src  : CoreId
  dst  : CoreId
  tag  : BitVec 16
  gs   : Nat
  m    : BitVec 32
deriving DecidableEq, Repr

/-- An entry of the exchange table (R147). -/
structure Exch where
  tag   : BitVec 16
  gs    : Option Nat := none
  owner : Option (Fin 8) := none
  own   : BitVec 32 := 0
  got   : List (CoreId × BitVec 32) := []
  bad   : Bool := false
deriving DecidableEq, Repr

/-- A result in an extract queue (R258, R282). -/
structure Result where
  ctx   : Fin 8
  sig   : BitVec 32
  elems : List (BitVec 32)
  flags : BitVec 5
  bad   : Bool
deriving DecidableEq, Repr

/-- A contribution to a collective (R28, R258). -/
structure Contrib where
  core  : CoreId
  ctx   : Fin 8
  sig   : BitVec 32
  elems : List (BitVec 32)
  rel   : Nat
  /-- the result held for this core at the node that formed it -/
  res   : Option Result := none
deriving DecidableEq, Repr

/-- The consumer state of a slot buffer (R260, R278, R359). -/
structure SlotBuf where
  base   : Nat
  size   : Nat
  cnt    : Nat
  drain  : Nat := 0
  filled : Nat := 0
  next   : Nat := 0
  out    : Nat := 0
  counts : List Nat
  marks  : List Bool
  prod   : CoreId
  inc    : Nat
deriving DecidableEq, Repr

/-- A producer record (R277). -/
structure ProdRec where
  cons : CoreId
  buf  : Fin 8
  free : Nat
  fill : Nat
  base : Nat
  size : Nat
  cnt  : Nat
  inc  : Nat
deriving DecidableEq, Repr

/-- A slot return on its way to the producer (R280). -/
structure SlotRet where
  n    : Nat
  ctx  : Fin 8
  dst  : CoreId
  cons : CoreId
  buf  : Fin 8
  inc  : Nat
deriving DecidableEq, Repr

/-- A record message of `slinit` on its way (R278). -/
structure RecMsg where
  n    : Nat
  dst  : CoreId
  src  : CoreId
  ctx  : Fin 8
  rec_ : ProdRec
deriving DecidableEq, Repr

/-- An arrival counter (R353). -/
structure Arr where
  armed : Bool := false
  rearm : Bool := false
  act   : BitVec 2 := 0
  ovf   : Bool := false
  lost  : Bool := false
  alloc : Bool := false
  /-- the context whose `carm` has not completed: its window is being registered (R364) -/
  reg   : Option (Fin 8) := none
  owner : Owner := .core 0
  /-- `cdis` was made while launches were pending (R358) -/
  dis   : Bool := false
  fires : BitVec 16 := 0
  pendn : Nat := 0
  nlm1  : BitVec 24 := 0
  /-- local offset, or physical address of the window -/
  base  : Nat := 0
  total : Nat := 0
  count : Nat := 0
  tgt   : CoreId := 0
  rank  : BitVec 32 := 0
  ty    : BitVec 12 := 0
  arg0  : W64 := 0
  arg1  : W64 := 0
deriving DecidableEq, Repr

/-- The `carm` of a context is still at work on the counter (R364). -/
def Arr.regBy (a : Arr) (k : CoreId) (c : Fin 8) : Bool := a.reg == some c && a.owner == .core k

/-- A performance counter (R361). -/
structure Perf where
  count : BitVec 48 := 0
  ovf   : Bool := false
  event : Byte := 0
  ctxs  : Byte := 0
  en    : Bool := false
deriving DecidableEq, Repr

/-- What the core-state and L1 images of a save slot stand for (R226, R382). -/
structure SaveImg where
  l1      : List L1Line := []
  dray    : List DrayEntry := []
  ctrs    : Vector Arr 16 := Vector.replicate 16 {}
  slots   : Vector (Option SlotBuf) 8 := Vector.replicate 8 none
  prods   : List ProdRec := []
  exch    : List Exch := []
  inject  : List Contrib := []
  extract : List Result := []
  rfaults : List RFault := []
  /-- fence points, forwarding entry and collectives not yet read, by context -/
  fences  : Vector (List FencePt) 8 := Vector.replicate 8 []
  fwd     : Vector (Option Forward) 8 := Vector.replicate 8 none
  joined  : Vector Nat 8 := Vector.replicate 8 0
deriving DecidableEq, Repr

/-- Where a core stands in pre-emption (R380, R383). -/
structure Pre where
  /-- 0 running, 1-4 save steps, 5 saved, 6 resuming, 7 written back -/
  step    : Nat := 0
  /-- the busy contexts have entered at the save entry -/
  entered : Bool := false
  /-- contexts entered at the save or restore entry, and those through `pdone` -/
  saved   : Byte := 0
  through : Byte := 0
  maxN    : Nat := 0
  /-- the controller goes on without this core after a double fault (R372) -/
  out     : Bool := false
deriving DecidableEq, Repr

/-- One core. -/
structure Core where
  ctxs    : Vector Ctx 8 := Vector.replicate 8 {}
  loc     : Memory := []
  side    : FMap Desc := []
  fill    : BitVec 1024 := 0
  l1      : List L1Line := []
  ic      : List IcLine := []
  tlb     : List Tlb := []
  cyc     : W64 := 0
  evec    : PcW := 0
  gen     : W64 := 0
  pcause  : Byte := 0
  jobseed : W64 := 0
  rank    : BitVec 32 := 0xFFFFFFFF
  /-- the ranks whose entries name this core, the later written last (R297) -/
  ranks   : List Nat := []
  order   : List (Fin 8) := [0, 1, 2, 3, 4, 5, 6, 7]
  /-- contexts whose switch-away move comes at the end of the clock (R263) -/
  tail    : List (Fin 8) := []
  /-- cycles until the special-function unit accepts an operation (R129) -/
  sfu     : Nat := 0
  /-- the context of the operation it last accepted -/
  sfuCtx  : Fin 8 := 0
  anvil   : List AnvEntry := []
  /-- the entry being performed and the bytes its rows held at the start -/
  anvRun  : Option (AnvEntry × List B512) := none
  drains  : List Drain := []
  dray    : List DrayEntry := []
  drayRun : Option DrayEntry := none
  drayOut : List DrayWrite := []
  /-- stopped dray commands that have not been reported (R273) -/
  drayBad : List DrayBad := []
  wiq     : List WIn := []
  ports   : List MIn := []
  rot     : Fin 5 := 0
  refused : List Listed := []
  retry   : Vector (Option RSlot) 8 := Vector.replicate 8 none
  exch    : List Exch := []
  rels    : List Rel := []
  accs    : List Access := []
  /-- write-backs by replacement or write-through that wait for a farrier: number and block (R198) -/
  wbs     : List (Nat × Nat) := []
  rfaults : List RFault := []
  inject  : List Contrib := []
  extract : List Result := []
  /-- arrivals recorded and not yet consumed at scope 1-4: the contexts that made them, none once ended (R283) -/
  barArr  : Vector (List (Option (Fin 8))) 5 := Vector.replicate 5 []
  /-- contexts whose episode at a scope is complete and whose `bar` has not gone on -/
  barDone : Vector (List (Fin 8)) 5 := Vector.replicate 5 []
  slots   : Vector (Option SlotBuf) 8 := Vector.replicate 8 none
  prods   : List ProdRec := []
  ctrs    : Vector Arr 16 := Vector.replicate 16 {}
  perf    : Vector Perf 8 := Vector.replicate 8 {}
  memb    : BitVec 5 := 0
  frozen  : Bool := false
  halted  : Bool := false
  fused   : Bool := false
  pre     : Pre := {}
  /-- the images this core has saved, by the address of the slot (R382) -/
  saves   : FMap SaveImg := []
  /-- the noticed messages whose reservations stand, oldest notice first (R17, R34) -/
  noticed : List Listed := []
  /-- the interface's handler cache: types and entries, the last read first, 64 at most (R286) -/
  hcache  : List (Nat × W64) := []
deriving DecidableEq, Repr

/-- A copy of a peer block in a die's L2 (R202). -/
structure L2Copy where
  buf   : Buf := {}
  tag   : BitVec 2 := 0
  dirty : Bool := false
deriving DecidableEq, Repr

/-- An entry of a fault buffer (R293). -/
structure FEntry where
  owned : Bool
  w     : Bool
  count : Nat
  page  : BitVec 41
deriving DecidableEq, Repr

/-- A die. -/
structure Die where
  root   : BitVec 58 := 0
  tlb    : List Tlb := []
  /-- the rank cache: ranks and entries, the last read first, 1,024 at most (R286) -/
  rcache : List (Nat × BitVec 32) := []
  fbuf   : List FEntry := []
  drop   : Bool := false
  notice : Bool := false
  parked : List Party := []
  l2     : FMap L2Copy := []
  gctrs  : FMap Arr := []
  mon    : Vector W64 10 := Vector.replicate 10 0
  req    : Byte := 0
  state  : BitVec 3 := 0
  fail   : Bool := false
  /-- REQ 0x00 was written in state 5 and the resume has not begun -/
  resume : Bool := false
  save   : BitVec 58 := 0
  slice  : BitVec 40 := 0
  dflags : BitVec 40 := 0
  freq   : Fin 5 := 0
  cut    : List (Fin 5) := []
  temp   : BitVec 16 := 0
  tempIx : BitVec 5 := 0
  assay  : W64 := 0
  /-- the assay record in the flash store, which outlasts a reset (R418, R426) -/
  assayRec : W64 := 0
deriving DecidableEq, Repr

/-- A region entry, as its three words (R287). -/
structure Region where
  w0 : W64 := 0
  w1 : W64 := 0
  w2 : W64 := 0
deriving DecidableEq, Repr

/-- Carrier states (R397). -/
inductive CarState where
  | down | training | up
deriving DecidableEq, Repr

/-- What a packet on the fabric carries (R398, R399). -/
inductive FabBody where
  /-- a request or reply whose effect stands elsewhere under its number -/
  | plain
  /-- the plain write-back of this interval, counted on arrival (R360) -/
  | wb (iv : BitVec 32)
  /-- the close of an interval, in each flow that carried its write-backs (R398) -/
  | close (iv : BitVec 32)
  /-- what the destination answers to a close (R227) -/
  | answer (iv : BitVec 32)
  /-- an acknowledgement: the context no longer waits for the number (R15) -/
  | ack (k : CoreId) (c : Fin 8)
  /-- a refusal: a fault of a context of the core (R185) -/
  | refuse (k : CoreId) (f : RFault)
  /-- a member's arrival at a pod barrier (R402) -/
  | bar
deriving DecidableEq, Repr

/-- A packet on the fabric (R398): what it carries, by number, and its flow. Packets stand in the order they were sent. -/
structure FabPkt where
  uid     : Nat
  src     : PkgId
  dst     : PkgId
  flow    : Nat
  reply   : Bool
  body    : FabBody := .plain
  carrier : Option Nat := none
  /-- its flow sequence number, from its first frame on (R398) -/
  seq     : Option (BitVec 16) := none
deriving DecidableEq, Repr

/-- A carrier of a fabric port: its plan byte, state and go-back-N state (R300, R397, R400, R401). -/
structure Carrier where
  plan   : Byte := 0
  st     : CarState := .down
  retune : Bool := false
  naks   : Nat := 0
  /-- next sequence number to send, and the receiver's next expected -/
  txSeq  : BitVec 12 := 0
  rxSeq  : BitVec 12 := 0
  /-- the first frame of the replay buffer was found damaged, and its NAK is on its way -/
  nak    : Bool := false
  /-- the replay buffer: frames sent and not accepted, the damaged one first (R401) -/
  buf    : List FabPkt := []
  wentDown : Bool := false
  /-- when its training began: receivers are granted in this order (R397) -/
  since  : Nat := 0
deriving DecidableEq, Repr

/-- A flow's state: its carrier and the sequence numbers of sender and receiver (R398). -/
structure Flow where
  key     : Nat
  reply   : Bool
  dst     : PkgId
  carrier : Option Nat := none
  /-- the number last given to a packet, and the number last delivered -/
  tx      : BitVec 16 := 0
  rx      : BitVec 16 := 0
deriving DecidableEq, Repr

/-- Interval counts toward one destination package, and from one source (R360). -/
structure Interval where
  intv : BitVec 32 := 0
  sent : BitVec 32 := 0
  /-- write-backs received from this package, by interval -/
  rcvd : List (BitVec 32 × BitVec 32) := []
  /-- closed intervals with the count they carried, not yet answered -/
  closed : List (BitVec 32 × BitVec 32) := []
deriving DecidableEq, Repr

/-- A message to a farrier (R320, R321). -/
structure FMsg where
  uid    : Nat
  ty     : BitVec 6
  /-- the type of an access dispatched as RCV (R328) -/
  was    : BitVec 6 := 0
  blk    : Nat
  region : Nat
  prot   : BitVec 4
  sup    : Bool
  /-- it is a suspended access -/
  acc    : Bool
  die    : Nat
  pkg    : PkgId
  party  : Party
  g4     : W64 := 0
  g5     : W64 := 0
  g6     : W64 := 0
  g7     : W64 := 0
  g12    : W64 := 0
  g13    : W64 := 0
  data   : Option Buf := none
deriving DecidableEq, Repr

/-- A reply to a farrier thread (R334). -/
structure FRep where
  uid    : Nat
  thread : Fin 16
  /-- the request it answers -/
  req    : Nat
  status : Byte
  data   : Option Buf
deriving DecidableEq, Repr

/-- The acts of which the standard handlers are made (R339). -/
inductive NAct where
  /-- give the requester a copy with this tag; a package gets the data with its reply -/
  | grant (t : BitVec 2)
  /-- the home tag -/
  | home (t : BitVec 2)
  /-- buffer 0 to home -/
  | bufHome
  /-- home to buffer 0 -/
  | homeBuf
  /-- `fsto.copy` or `fsto.reg` of buffer 0 into home under the mask -/
  | stoCopy
  | stoReg
  /-- drop the copies of these dies of the package, dirty data written home -/
  | invDies (ds : BitVec 8)
  /-- write a die's copy home if dirty and set its tag; 0b00 drops it -/
  | fwdDie (d : Nat) (t : BitVec 2)
  /-- requests counted for `fblk`, to the proxies of these packages -/
  | send (ty : BitVec 6) (ps : W64)
  /-- a request to one proxy whose reply is awaited and whose data goes home -/
  | ask (ty : BitVec 6) (p : Nat) (t : BitVec 2)
  /-- wait for every reply counted -/
  | await
  /-- the masked data of buffer 0 into copies of these dies -/
  | updDies (ds : BitVec 8)
  /-- set every copy of the package to a tag and return dirty data with the answer -/
  | recall (t : BitVec 2)
  /-- drop every copy of the package, dirty data sent home -/
  | retHome
  /-- buffer 0 into every die of the package, read-only -/
  | pushDies
  /-- die o's copy to die d, alone and writable, or shared and read-only -/
  | move (o d : Nat) (alone : Bool)
  /-- the directory entry -/
  | dir (w0 w1 : W64)
  | wake
  /-- forward to home with `freq.w` and settle by the reply -/
  | forward (ty : BitVec 6)
  /-- settle by ACT and end -/
  | finish (act : BitVec 2)
deriving DecidableEq, Repr

/-- One thread of a farrier (R317). -/
structure Thread where
  hart   : Hart := {}
  buf    : Vector Buf 4 := Vector.replicate 4 {}
  busy   : Bool := false
  msg    : Option FMsg := none
  fcurb  : Nat := 0
  retired : Nat := 0
  hset   : Byte := 0
  /-- a standard set's handler: the acts still to do -/
  script : Option (List NAct) := none
  /-- the code a running handler keeps when its set is replaced (R322) -/
  code   : Option Memory := none
  flight : List Flight := []
  /-- requests sent with W = 0 and not answered; answers and the OR of their statuses (R337) -/
  blk    : List Nat := []
  blkN   : BitVec 16 := 0
  blkOr  : Byte := 0
  /-- the request a `freq.w` waits for, and its answer -/
  awaits : Option Nat := none
  answer : Option FRep := none
  /-- the handler answered its requester with `frep` -/
  replied : Bool := false
  /-- a die's copy of its block was dirty at dispatch (R393) -/
  dirty  : Bool := false
  /-- it stands in an `fblk` wait (R326) -/
  inBlk  : Bool := false
  gap    : Nat := 0
  /-- cycles of occupancy still to run, of a multiplication or division (R101) -/
  occ    : Nat := 0
deriving DecidableEq, Repr

/-- A handler set (R322): entries by type, the initial tag, and where its code lies in handler memory: first byte and length. -/
structure FSet where
  entries : FMap Nat := []
  inittag : BitVec 2 := 0
  start   : Nat := 0
  size    : Nat := 0
deriving DecidableEq, Repr

/-- A directory entry (R324). -/
structure Dir where
  w0 : W64 := 0
  w1 : W64 := 0
deriving DecidableEq, Repr

/-- A farrier (R317). -/
structure Farrier where
  threads : Vector Thread 16 := Vector.replicate 16 {}
  order   : List (Fin 16) := [0, 1, 2, 3, 4, 5, 6, 7, 8, 9, 10, 11, 12, 13, 14, 15]
  hmem    : Memory := []
  sets    : FMap FSet := []
  scratch : Memory := []
  /-- directory entries by block number: those of its cache; the spill table lies in memory (R325) -/
  dir     : FMap Dir := []
  fdirb   : BitVec 58 := 0
  fdirn   : BitVec 24 := 0
  reqs    : List FMsg := []
  reps    : List FRep := []
  holds   : List FMsg := []
  /-- requests sent whose replies have not been delivered: each holds a reply entry (R259) -/
  owed    : List Nat := []
  /-- accesses whose handler was killed, with the kill record in g6 and g7 (R327, R328) -/
  killed  : List FMsg := []
  cyc     : W64 := 0
deriving DecidableEq, Repr

/-- An entry of the code-generation list (R302). -/
structure GenEnt where
  base : PcW
  lsz  : Nat
  rg   : W64
deriving DecidableEq, Repr

/-- A host-window access waiting for a farrier (R390). -/
structure HostAcc where
  n    : Nat
  /-- the requester, whose writes keep their order (R394) -/
  req  : Nat := 0
  pa   : Nat
  data : Option (List Byte)
  len  : Nat
  relaxed : Bool
  /-- suspended at a farrier -/
  posted : Bool := false
deriving DecidableEq, Repr

/-- What a host-window read returned (R390): data and the EP bit, or Unsupported Request. -/
inductive HostRep where
  | data (n : Nat) (bytes : List Byte) (ep : Bool)
  | unsupported (n : Nat)
  | aer (n : Nat)
  /-- a snoop's answer (R393): a miss, a hit, or with the home data where a die copy was dirty -/
  | snoop (line : Nat) (hit : Bool) (data : Option (List Byte))
  /-- a line returned with DirtyEvict and its data, or with CleanEvict (R393) -/
  | evict (line : Nat) (data : Option (List Byte))
deriving DecidableEq, Repr

/-- A section as a bound image holds it (R413): its virtual address, whether it is code, its relocated bytes, the descriptions of
its blocks. -/
structure BoundSect where
  va    : Nat
  code  : Bool
  bytes : List Byte
  descs : List Desc
deriving DecidableEq, Repr

/-- A launch request as a bound image holds it (R411, R413): type, region request, TOTAL, and the rank counted from the job's origin. -/
structure BoundLaunch where
  ty    : Nat
  req   : Nat
  total : Nat
  rank  : Nat
deriving DecidableEq, Repr

/-- An object bound to its places (R411, R413): code range, sections, region entries, handler entries (type and word), launches. -/
structure Bound where
  base     : Nat
  lsz      : Nat
  sup      : Bool
  sects    : List BoundSect
  regs     : List Region
  hands    : List (Nat × W64)
  launches : List BoundLaunch
deriving DecidableEq, Repr

/-- A bound image in the flash store (R413, R414): its key, what it holds, and the SHA-512 of that. -/
structure Image where
  key    : BitVec 512
  body   : Bound
  hash   : BitVec 512
  /-- erase blocks it occupies -/
  blocks : List Nat
  used   : Nat
  committed : Bool := true
deriving DecidableEq, Repr

/-- The flash store (R413, R414, R418): firmware image, bound images, erase counts. -/
structure Flash where
  firmware : List Byte := []
  pending  : Option (List Byte) := none
  images   : List Image := []
  erases   : FMap Nat := []
  clock    : Nat := 0
deriving DecidableEq, Repr

/-- A code range that an object holds (R411), and the object's key. -/
structure Placed where
  base : Nat
  lsz  : Nat
  sup  : Bool
  key  : BitVec 512
deriving DecidableEq, Repr

/-- A page of HBM4 that the loader has taken (R411): the virtual page it stands behind, 2^57 for a page of a table, and the object's
key. -/
structure TakenPage where
  pa  : Nat
  va  : Nat
  key : BitVec 512
deriving DecidableEq, Repr

/-- A package. -/
structure Pkg where
  regions  : FMap Region := []
  /-- regions being rebound (R350), or handed to the host (R308) -/
  rebind   : List Nat := []
  /-- the initial tags that `rtset` has given address ranges: base, log2 of the size, tag; the first that covers a block holds (R289) -/
  inits    : List (Nat × Nat × BitVec 2) := []
  rankBase : Nat := 0
  rankLen  : Nat := 0
  htabBase : Nat := 0
  carriers : FMap Carrier := []
  flows    : List Flow := []
  /-- accepted feature words and whether each took its write (R389) -/
  facc     : Vector W64 4 := Vector.replicate 4 0
  faccSet  : BitVec 4 := 0
  dgen     : W64 := 0
  gens     : Vector (Option GenEnt) 16 := Vector.replicate 16 none
  tree     : List Contrib := []
  ivs      : FMap Interval := []
  /-- write-backs sent to other packages whose intervals are not confirmed (R227) -/
  kept     : List FabPkt := []
  far      : FMap Farrier := []
  /-- counts on their way to a counter's slice (R355): number, counter, bytes -/
  counts   : List (Nat × CtrId × Nat) := []
  wins     : FMap W64 := []
  hostAccs : List HostAcc := []
  hostReps : List HostRep := []
  podm     : W64 := 0
  pkgn     : BitVec 6 := 0
  /-- MSI-X vectors fired, the pending bits, the mask bits of the vector table, and its other bytes (R387, R389) -/
  msix     : BitVec 32 := 0
  msixPend : BitVec 32 := 0
  msixMask : BitVec 32 := BitVec.allOnes 32
  msixTab  : Memory := []
  mbLen    : BitVec 32 := 0
  mbArg    : Byte := 0
  mbCmd    : Option Byte := none
  mbReply  : BitVec 16 := 0
  mbBuf    : Memory := []
  bootst   : Byte := 0xFF
  fsvn     : W64 := 0
  /-- the groom image in use, whose version enters the image keys (R413) -/
  groom    : List Byte := []
  pwrlim   : BitVec 13 := 5000
  thr      : BitVec 32 := 0x064005A0
  meas     : Vector (BitVec 512) 8 := Vector.replicate 8 0
  servers  : List Nat := []
  port0Host : Bool := false
  /-- the pool that platform firmware's decoders give each CXL port; unlisted, port q of package p has pool 4p + q to itself (R392) -/
  pools    : FMap Nat := []
  /-- notices the device sends (R294, R327, R372, R401, R419), held until accepted like a core's messages -/
  notices  : FMap RSlot := []
  irqs     : List (Nat × BitVec 5) := []
  cxl      : List Nat := []
  /-- those of them written since they were taken (R393) -/
  cxlMod   : List Nat := []
  /-- code ranges of the objects the loader has placed (R411) -/
  ranges   : List Placed := []
  /-- pages of HBM4 that the loader has taken (R407, R411) -/
  pages    : List TakenPage := []
  /-- indexes of the region entries granted to objects (R411) -/
  granted  : List Nat := []
  flash    : Flash := {}
deriving DecidableEq, Repr

/-- A block's sideband (R83); a tag of none is the initial tag of the region's protocol (R340). -/
structure Side where
  desc : Desc := {}
  tag  : Option (BitVec 2) := none
deriving DecidableEq, Repr

/-- The whole state: the pod's packages, dies and cores, and the global memories; then the model's own fields. -/
structure State where
  cores  : FMap Core := []
  dies   : FMap Die := []
  pkgs   : FMap Pkg := []
  /-- HBM4 and host memory by physical address (R190); pool n of CXL-pooled memory from 2^58 + n × 2^44 on (R392) -/
  mem    : Memory := []
  /-- sideband by block number, physical address / 64 (R83) -/
  side   : FMap Side := []
  /-- packets of the fabric not yet delivered (R398) -/
  fab    : List FabPkt := []
  vq     : List VqMsg := []
  rets   : List SlotRet := []
  recs   : List RecMsg := []
  /-- whose turn it is -/
  cur    : Agent := .ctx 1 0
  /-- the turns to come; when empty, the core or farrier of `cur` takes its next clock -/
  agenda : List Turn := []
  /-- choices: how each long-latency act goes, 0 (or none left) prompt, otherwise deferred -/
  lag    : List Nat := []
  /-- an instruction or a trap took the issue slot in this clock -/
  issued : Bool := false
  /-- an instruction that issued in an earlier clock went on in this turn -/
  went   : Bool := false
  /-- counter of free values -/
  fresh  : Nat := 0
  /-- counter of numbers given to accesses, messages and entries -/
  ids    : Nat := 0
deriving DecidableEq, Repr

/-- The device right after power-good, before its boot (R418): every table, queue and counter at its reset
value, every context free, BOOTST 0xFF. Values the manual does not give are named in the assumption log. -/
def State.reset : State := {}

end Sys2Proof.Machine
end

