-- ==== Sys2Proof/Machine/Flags.lean ====
section
/-! DEFINITION. Machine/Flags.lean: the sticky flags (R71, R94), the relations of the compares (R110, R137), and which
instructions can still raise a flag. -/

namespace Sys2Proof.Machine

/-- Flags of coefficient n in their place in fflags (R71). -/
def orFlags (n : Nat) (fl : Fl) : BitVec 40 := fl.setWidth 40 <<< (5 * n)

/-- Flags raised by an instruction that completes are ORed into fflags (R71). -/
def Ctx.raiseFlags (x : Ctx) (fl : BitVec 40) : Ctx := { x with fflags := x.fflags ||| fl }

/-- Some earlier instruction can still raise a flag (R71). -/
def Ctx.flagsDue (x : Ctx) : Bool := x.flight.any fun f => !f.done && f.raises

/-- The scalar relations of R110. -/
def relCeq (b c : W64) : Bool := b == c
def relCne (b c : W64) : Bool := b != c
def relClt (b c : W64) : Bool := b.slt c
def relCle (b c : W64) : Bool := b.sle c
def relCltn (b c : W64) : Bool := b.ult c
def relClen (b c : W64) : Bool := b.ule c

/-- The relation CMP names between two exact values, none in the order where either is NaN (R137). -/
def vecRel (cmp : Nat) (o : Option Ordering) : Bool :=
  match cmp, o with
  | 0, o => o == some .eq
  | 1, o => o != some .eq
  | 2, o => o == some .lt
  | 3, o => o == some .lt || o == some .eq
  | 4, o => o == some .gt
  | 5, o => o == some .gt || o == some .eq
  | _, o => o == none

end Sys2Proof.Machine
end

