-- ==== Sys2Proof/Machine/Mem.lean ====
section
/-! DEFINITION. Machine/Mem.lean: maps, byte memories, the places of the device, the physical map, regions, home lines,
L2 copies, access tags and the L1 (R69, R187-R204, R286-R289, R316). -/

namespace Sys2Proof.Machine

/-! ### Maps with a default -/

/-- The value of a key, `d` where the key is not listed. -/
def fmGet {α : Type} (d : α) (m : FMap α) (n : Nat) : α := (m.lookup n).getD d

/-- A map with one key set; keys keep rising. -/
def fmSet {α : Type} : FMap α → Nat → α → FMap α
  | [], n, x => [(n, x)]
  | (k, y) :: t, n, x =>
    if n < k then (n, x) :: (k, y) :: t else if n = k then (n, x) :: t else (k, y) :: fmSet t n x

/-- A map without a key. -/
def fmDel {α : Type} (m : FMap α) (n : Nat) : FMap α := m.filter fun e => e.1 ≠ n

/-! ### Bytes -/

/-- What a byte nothing has written reads as (log 3). -/
def emptyByte : Byte := 0

/-- One byte of a memory. -/
def memGet (m : Memory) (a : Nat) : Byte := (m.lookup a).getD emptyByte

/-- A memory with one byte written, in canonical form. -/
def memSet : Memory → Nat → Byte → Memory
  | [], a, b => if b = emptyByte then [] else [(a, b)]
  | (k, c) :: t, a, b =>
    if a < k then (if b = emptyByte then (k, c) :: t else (a, b) :: (k, c) :: t)
    else if a = k then (if b = emptyByte then t else (a, b) :: t)
    else (k, c) :: memSet t a b

/-- The canonical form: addresses rise strictly and no empty byte is listed. -/
def memWf : Memory → Bool
  | [] => true
  | [(_, b)] => b != emptyByte
  | (a, b) :: (c, d) :: t => b != emptyByte && decide (a < c) && memWf ((c, d) :: t)

/-- `n` bytes from `a` on. -/
def memRead (m : Memory) (a n : Nat) : List Byte := (List.range n).map fun j => memGet m (a + j)

/-- Bytes written from `a` on; a `none` leaves its byte. -/
def memWrite (m : Memory) (a : Nat) : List (Option Byte) → Memory
  | [] => m
  | none :: t => memWrite m (a + 1) t
  | some b :: t => memWrite (memSet m a b) (a + 1) t

/-- The little-endian number of bytes (R2). -/
def leNat : List Byte → Nat
  | [] => 0
  | b :: t => b.toNat + 256 * leNat t

/-- The bytes of a number, little-endian. -/
def leBytes : Nat → Nat → List Byte
  | 0, _ => []
  | n + 1, x => BitVec.ofNat 8 x :: leBytes n (x / 256)

/-- A bit mask of `n` bytes widened to bits: bit i governs byte i. -/
def widenMask (n : Nat) (m : Nat) : Nat :=
  leNat ((List.range n).map fun j => if m.testBit j then 0xFF else 0)

/-- `old` with the bytes of the mask taken from `new`. -/
def mergeBits {w : Nat} (mask old new : BitVec w) : BitVec w := (old &&& ~~~mask) ||| (new &&& mask)

/-! ### Packages, dies, cores (R6, R33, R69) -/

def pkgOf (k : CoreId) : PkgId := k / 2 ^ 16
def xOf (k : CoreId) : Nat := k % 256
def yOf (k : CoreId) : Nat := k / 256 % 256
/-- The die of a core: 2 × (y div 64) + (x div 128) of its package. -/
def dieOf (k : CoreId) : DieId := pkgOf k * 8 + 2 * (yOf k / 64) + xOf k / 128
/-- Index of a core in its quad (R200). -/
def quadIx (k : CoreId) : Nat := 2 * (yOf k % 2) + xOf k % 2
/-- The core of the quad of k with index q. -/
def quadCore (k : CoreId) (q : Nat) : CoreId := k - (yOf k % 2) * 256 - xOf k % 2 + (q / 2) * 256 + q % 2
/-- The core at die-local x 0, y 0 (R294). -/
def dieServer (d : DieId) : CoreId := d / 8 * 2 ^ 16 + (d % 8 / 2) * 64 * 256 + (d % 2) * 128

def State.core (s : State) (k : CoreId) : Core := fmGet {} s.cores k
def State.setCore (s : State) (k : CoreId) (c : Core) : State := { s with cores := fmSet s.cores k c }
def State.modCore (s : State) (k : CoreId) (f : Core → Core) : State := s.setCore k (f (s.core k))
def State.ctx (s : State) (k : CoreId) (c : Fin 8) : Ctx := (s.core k).ctxs[c]
def Core.modCtx (co : Core) (c : Fin 8) (f : Ctx → Ctx) : Core :=
  { co with ctxs := co.ctxs.set c.val (f co.ctxs[c]) }
def State.modCtx (s : State) (k : CoreId) (c : Fin 8) (f : Ctx → Ctx) : State := s.modCore k fun co => co.modCtx c f
def State.die (s : State) (d : DieId) : Die := fmGet {} s.dies d
def State.modDie (s : State) (d : DieId) (f : Die → Die) : State := { s with dies := fmSet s.dies d (f (s.die d)) }
def State.pkg (s : State) (p : PkgId) : Pkg := fmGet {} s.pkgs p
def State.modPkg (s : State) (p : PkgId) (f : Pkg → Pkg) : State := { s with pkgs := fmSet s.pkgs p (f (s.pkg p)) }
def State.far (s : State) (f : FarId) : Farrier := fmGet {} (s.pkg (f % 64)).far (f / 64)
def State.modFar (s : State) (f : FarId) (g : Farrier → Farrier) : State :=
  s.modPkg (f % 64) fun p => { p with far := fmSet p.far (f / 64) (g (fmGet {} p.far (f / 64))) }
def State.thread (s : State) (f : FarId) (t : Fin 16) : Thread := (s.far f).threads[t]
def State.modThread (s : State) (f : FarId) (t : Fin 16) (g : Thread → Thread) : State :=
  s.modFar f fun fr => { fr with threads := fr.threads.set t.val (g fr.threads[t]) }

/-- A server core by the boot core mask (R33). -/
def State.isServer (s : State) (k : CoreId) : Bool := (s.pkg (pkgOf k)).servers.contains (k % 2 ^ 16)
/-- A user core of the job: membership bit 4 (R312). -/
def State.userCore (s : State) (k : CoreId) : Bool := !s.isServer k && (s.core k).memb.getLsbD 4
/-- Core j is a user core of the job for core k: both belong to the job, or k is a server core (R10, R188, R378). -/
def State.jobMate (s : State) (k j : CoreId) : Bool := s.userCore j && (s.isServer k || s.userCore k)
/-- A configured package of the pod: the PODM bit in its own package, and the package itself. -/
def State.podHas (s : State) (p q : PkgId) : Bool := p == q || (decide (q < 64) && (s.pkg p).podm.getLsbD q)

/-- The scope bit of a core's membership mask: quad 0, die 1, pkg 2, pod 3. -/
def State.memb (s : State) (k : CoreId) (scope : Nat) : Bool :=
  if scope = 0 then true else (s.core k).memb.getLsbD (scope - 1)

/-- Two cores lie in one instance of a scope (R6). -/
def sameScope (scope : Nat) (k j : CoreId) : Bool :=
  match scope with
  | 0 => k == j
  | 1 => pkgOf k == pkgOf j && yOf k / 2 == yOf j / 2 && xOf k / 2 == xOf j / 2
  | 2 => dieOf k == dieOf j
  | 3 => pkgOf k == pkgOf j
  | _ => true

/-- The smallest scope that contains both cores (R225). -/
def scopeOf (k j : CoreId) : Nat :=
  if k = j then 0 else if sameScope 1 k j then 1 else if sameScope 2 k j then 2 else if sameScope 3 k j then 3 else 4

/-- The member cores of the job in an instance of a scope (R7). -/
def State.members (s : State) (k : CoreId) (scope : Nat) : List CoreId :=
  (s.cores.map (·.1)).filter fun j => sameScope scope k j && s.memb j scope && !s.isServer j

/-! ### Numbers and free choices -/

/-- The next number for an access, message or entry; numbers start at 1. -/
def State.newId (s : State) : Nat × State := (s.ids + 1, { s with ids := s.ids + 1 })
/-- A free bit. -/
def State.freeBit (s : State) : Bool × State := (Config.freeBit s.fresh, { s with fresh := s.fresh + 1 })
/-- A free number. -/
def State.freeNat (s : State) : Nat × State := (Config.freeNat s.fresh, { s with fresh := s.fresh + 1 })
/-- The next entry of the choice stream: 0 is prompt. -/
def State.popLag (s : State) : Nat × State := (s.lag.headD 0, { s with lag := s.lag.tail })

/-! ### The physical map (R190, R202, R203, R316) -/

/-- Where a physical address is homed. -/
inductive Home where
  | hbm (die : Nat)
  | cxl (port : Nat)
  | host
  | reserved
deriving DecidableEq, Repr

def homePkg (pa : Nat) : PkgId := pa / 2 ^ 52
def homeOf (pa : Nat) : Home :=
  let o := pa % 2 ^ 52
  if o < 0xF000000000 then .hbm (o / 0x1E00000000)
  else if 0x100000000000 ≤ o ∧ o < 0x500000000000 then .cxl (o / 0x100000000000 - 1)
  else if 0x800000000000 ≤ o ∧ o < 0x1000000000000 then .host
  else .reserved
/-- HBM4-homed. -/
def isHbm (pa : Nat) : Bool := match homeOf pa with | .hbm _ => true | _ => false
/-- The die that holds the home line, or the port's die. -/
def homeDie (pa : Nat) : DieId :=
  homePkg pa * 8 + match homeOf pa with
    | .hbm d => d
    | .cxl p => (Config.portDie p).val
    | _ => (Config.portDie 0).val
/-- The home slice of a line (R202). -/
def homeSlice (pa : Nat) : Nat := pa % 2 ^ 52 / 128 % 80
/-- The farrier a suspended access of a die of package p posts to (R316). -/
def postFarrier (p : PkgId) (pa : Nat) : FarId :=
  let h := homePkg pa
  let fid := if h ≠ p then 10 * (h % 8) + 2 + h / 8 % 8
    else match homeOf pa with
      | .hbm d => 10 * d + pa / 4096 % 2
      | .cxl q => 80 + q
      | _ => 84
  p + 64 * fid
/-- The farrier of a block in its home package. -/
def homeFarrier (pa : Nat) : FarId := postFarrier (homePkg pa) pa

/-! ### Regions (R287, R288) -/

def Region.v (r : Region) : Bool := r.w0.getLsbD 0
def Region.lsz (r : Region) : Nat := (r.w0.extractLsb' 1 6).toNat
def Region.base (r : Region) : Nat := (r.w0.extractLsb' 21 37).toNat * 2 ^ 21
def Region.prot (r : Region) : BitVec 4 := r.w1.extractLsb' 0 4
def Region.hset (r : Region) : Byte := r.w1.extractLsb' 4 8
def Region.desc (r : Region) : Desc := ⟨r.w1.extractLsb' 12 8, r.w1.extractLsb' 20 8⟩
def Region.home (r : Region) : Nat := (r.w1.extractLsb' 28 4).toNat
def Region.curb (r : Region) : Nat := (r.w1.extractLsb' 32 13).toNat
def Region.own (r : Region) : Bool := r.w1.getLsbD 45
def Region.rop (r : Region) : Nat := (r.w1.extractLsb' 48 8).toNat
def Region.rty (r : Region) : Nat := (r.w1.extractLsb' 56 8).toNat
/-- The region covers an address. -/
def Region.has (r : Region) (pa : Nat) : Bool := r.v && decide (r.base ≤ pa) && decide (pa < r.base + 2 ^ r.lsz)

def State.region (s : State) (p : PkgId) (i : Nat) : Region := fmGet {} (s.pkg p).regions i
/-- The valid entry of package p that covers an address (R288). -/
def State.regionOf (s : State) (p : PkgId) (pa : Nat) : Option (Nat × Region) :=
  (s.pkg p).regions.find? fun e => e.2.has pa

/-- The initial home tag that an entry gives a block at `pa`, by its protocol (R340, R322). -/
def State.protTag (s : State) (r : Region) (pa : Nat) : BitVec 2 :=
  if r.prot.toNat ≤ 2 then 2 else if r.prot = 3 then 1 else if r.prot.toNat ≤ 5 then 0
  else (fmGet {} (s.far (homeFarrier pa)).sets r.hset.toNat).inittag
/-- The initial home tag of a block (R340): by its region's protocol; writable where no region covers it. -/
def State.initTag (s : State) (blk : Nat) : BitVec 2 :=
  match s.regionOf (homePkg (blk * 64)) (blk * 64) with
  | none => 2
  | some (_, r) => s.protTag r (blk * 64)

/-- The home tag of a block that nothing has touched: the initial tag of the region that first covered it, which no later `rtset`
but a rebind changes (R289, R340). -/
def State.untouchedTag (s : State) (blk : Nat) : BitVec 2 :=
  let pa := blk * 64
  match (s.pkg (homePkg pa)).inits.find? fun e => decide (e.1 ≤ pa) && decide (pa < e.1 + 2 ^ e.2.1) with
  | some e => e.2.2
  | none => s.initTag blk

/-! ### Home lines and L2 copies (R202, R339) -/

def bytesB (b : B512) : List Byte := leBytes 64 b.toNat
def blockOf (bs : List Byte) : B512 := BitVec.ofNat 512 (leNat bs)

/-- The description a home line presents: a CXL or host home has the region's default, unless poisoned (R85, R205). -/
def State.homeDesc (s : State) (blk : Nat) : Desc :=
  let d := (fmGet {} s.side blk).desc
  if isHbm (blk * 64) || d.fmt = 0xFF then d
  else match s.regionOf (homePkg (blk * 64)) (blk * 64) with | some (_, r) => r.desc | none => {}
/-- The place in memory of a physical address: for a CXL-homed one, in the pool that its port reaches, which ports of several
packages may share (R348, R392). -/
def State.memAt (s : State) (pa : Nat) : Nat :=
  match homeOf pa with
  | .cxl q => 2 ^ 58 + ((s.pkg (homePkg pa)).pools.lookup q).getD (4 * homePkg pa + q) * 2 ^ 44 + pa % 2 ^ 44
  | _ => pa

/-- The block at its home. -/
def State.homeBuf (s : State) (blk : Nat) : Buf :=
  ⟨blockOf (memRead s.mem (s.memAt (blk * 64)) 64), s.homeDesc blk⟩
/-- The home tag; the tag of a CXL or host line that nothing has set reads invalid (R202). -/
def State.homeTag (s : State) (blk : Nat) : BitVec 2 :=
  match (fmGet {} s.side blk).tag with
  | some t => t
  | none => if isHbm (blk * 64) then s.untouchedTag blk else 0
/-- The sideband of a block. -/
def State.sideOf (s : State) (blk : Nat) : Side := fmGet {} s.side blk
def State.setHomeDesc (s : State) (blk : Nat) (d : Desc) : State :=
  { s with side := fmSet s.side blk { s.sideOf blk with desc := d } }

/-- Bytes under a 64-bit mask, as writes. -/
def maskedBytes (mask : BitVec 64) (d : B512) : List (Option Byte) :=
  (List.range 64).map fun j => if mask.getLsbD j then some (d.extractLsb' (8 * j) 8) else none

/-- Data (and, at an HBM4 home, the description) written at the home, without counting (R85). -/
def State.putHome (s : State) (blk : Nat) (mask : BitVec 64) (d : B512) (desc : Option Desc) : State :=
  let s := { s with mem := memWrite s.mem (s.memAt (blk * 64)) (maskedBytes mask d) }
  let s := if homeOf (blk * 64) = .host then
      s.modPkg (homePkg (blk * 64)) fun x => { x with cxlMod := blk :: x.cxlMod.filter fun b => b != blk }
    else s
  match desc with
  | some x => if isHbm (blk * 64) then s.setHomeDesc blk x else s
  | none => s

def State.l2 (s : State) (d : DieId) (blk : Nat) : Option L2Copy := (s.die d).l2.lookup blk
def State.setL2 (s : State) (d : DieId) (blk : Nat) (c : L2Copy) : State :=
  s.modDie d fun x => { x with l2 := fmSet x.l2 blk c }
def State.dropL2 (s : State) (d : DieId) (blk : Nat) : State := s.modDie d fun x => { x with l2 := fmDel x.l2 blk }

/-- The die's line is the home line. -/
def atHome (d : DieId) (blk : Nat) : Bool := homeDie (blk * 64) == d

/-- The tag the L2 of a die checks (R199): an absent peer copy is invalid. -/
def State.dieTag (s : State) (d : DieId) (blk : Nat) : BitVec 2 :=
  if atHome d blk then s.homeTag blk else match s.l2 d blk with | some c => c.tag | none => 0
/-- A copy, or the home line, is present. -/
def State.diePresent (s : State) (d : DieId) (blk : Nat) : Bool := atHome d blk || (s.l2 d blk).isSome
/-- The block as the L2 of a die holds it; a copy of a CXL or host block has the description of its home (R85, R205). -/
def State.dieBuf (s : State) (d : DieId) (blk : Nat) : Buf :=
  if atHome d blk then s.homeBuf blk
  else match s.l2 d blk with
    | some c => if isHbm (blk * 64) then c.buf else ⟨c.buf.data, s.homeDesc blk⟩
    | none => s.homeBuf blk

def tagReads (t : BitVec 2) : Bool := t == 1 || t == 2
def tagWrites (t : BitVec 2) : Bool := t == 2

/-! ### The L1 (R196-R200, R211, R213) -/

/-- Words of block b of a line. -/
def blkWords (b : Nat) : BitVec 32 := if b = 0 then 0x0000FFFF else 0xFFFF0000

def L1Line.tag (l : L1Line) (b : Nat) : BitVec 2 := if b = 0 then l.tag0 else l.tag1
def L1Line.desc (l : L1Line) (b : Nat) : Desc := if b = 0 then l.desc0 else l.desc1
def L1Line.setTag (l : L1Line) (b : Nat) (t : BitVec 2) : L1Line :=
  if b = 0 then { l with tag0 := t } else { l with tag1 := t }
def L1Line.setDesc (l : L1Line) (b : Nat) (d : Desc) : L1Line :=
  if b = 0 then { l with desc0 := d } else { l with desc1 := d }
/-- Nothing of the copy is in use. -/
def L1Line.dead (l : L1Line) : Bool := l.valid == 0 && l.ddirty == 0 && l.pin == 0 && l.part == 0

/-- A tag change reaches an L1 copy (R199). -/
def L1Line.retag (b : Nat) (t : BitVec 2) (l : L1Line) : L1Line :=
  let l := l.setTag b t
  if tagReads t || l.pin != 0 then l else { l with valid := l.valid &&& (l.dirty ||| ~~~(blkWords b)) }

/-- The clean words of a line whose last pin is gone are invalidated (R211). -/
def L1Line.unclean (l : L1Line) : L1Line := { l with valid := l.valid &&& l.dirty }

/-- Clear PIN bits of the contexts of `cs`, copy by copy; `wide` says that the acquire is at quad or wider. A copy whose last PIN
bit goes is dropped whole while another copy of its line remains (R211). -/
def unpinCopies (cs : BitVec 8) (wide : Bool) : List L1Line → List L1Line → List L1Line
  | kept, [] => kept
  | kept, l :: t =>
    let l' := { l with pin := l.pin &&& ~~~cs }
    if l'.pin != 0 then unpinCopies cs wide (kept ++ [l']) t
    else if l.pin != 0 && (kept ++ t).any (fun o => o.line == l.line) then unpinCopies cs wide kept t
    else unpinCopies cs wide (kept ++ [if wide || l.pin != 0 then l'.unclean else l']) t

/-- An L1 after that, without copies of which nothing is left. -/
def l1Unpin (cs : BitVec 8) (wide : Bool) (ls : List L1Line) : List L1Line :=
  (unpinCopies cs wide [] ls).filter fun l => !l.dead

/-- The core whose L1 holds a line for core k (R200). -/
def State.l1Core (s : State) (k : CoreId) (line : Nat) : CoreId :=
  if (s.core k).fused then quadCore k (line % 4) else k

/-- The tag of a block changes at a die's L2: the tag, then every L1 copy in that die (R199, R323). -/
def State.setDieTag (s : State) (d : DieId) (blk : Nat) (t : BitVec 2) : State :=
  let s := if atHome d blk then { s with side := fmSet s.side blk { s.sideOf blk with tag := some t } }
    else match s.l2 d blk with
      | some c => s.setL2 d blk { c with tag := t }
      | none => s
  { s with
      cores := s.cores.map fun e =>
      if dieOf e.1 = d then
        (e.1, { e.2 with
            l1 := e.2.l1.filterMap fun l =>
            let l' := if l.line = blk / 2 then l.retag (blk % 2) t else l
            if l'.dead then none else some l' })
      else e }

/-- A copy leaves the L2 of a die: every L1 copy there sees tag 0b00 (R199). -/
def State.dropCopy (s : State) (d : DieId) (blk : Nat) : State := (s.setDieTag d blk 0).dropL2 d blk

/-- The blocks an L2 holds (R202). -/
def l2Blocks : Nat := 192 * 2 ^ 20 / 64

/-- The L2 of a die has no place for a copy it does not hold: one must leave first (R202). -/
def State.l2Full (s : State) (d : DieId) (blk : Nat) : Bool := (s.l2 d blk).isNone && decide (l2Blocks ≤ (s.die d).l2.length)

/-- The tag of the home line, at the home die. -/
def State.setHomeTag (s : State) (blk : Nat) (t : BitVec 2) : State := s.setDieTag (homeDie (blk * 64)) blk t

/-! ### Local memory (R191, R193) -/

def Core.locRead (c : Core) (off n : Nat) : List Byte := memRead c.loc off n
def Core.locDesc (c : Core) (off : Nat) : Desc := fmGet {} c.side (off / 64)
def Core.setLocDesc (c : Core) (off : Nat) (d : Desc) : Core := { c with side := fmSet c.side (off / 64) d }
def Core.fillBit (c : Core) (line : Nat) : Bool := c.fill.getLsbD line
def Core.setFill (c : Core) (line n : Nat) (b : Bool) : Core :=
  let m : BitVec 1024 := BitVec.ofNat 1024 ((2 ^ n - 1) * 2 ^ line)
  { c with fill := if b then c.fill ||| m else c.fill &&& ~~~m }

/-! ### Events a performance counter counts (R361) -/

/-- One event of code `ev` in context `c`, none for an event of the core as a whole. -/
def Core.perfEv (co : Core) (ev : Nat) (c : Option (Fin 8)) : Core :=
  { co with
      perf := co.perf.map fun p =>
      if p.en && p.event.toNat = ev && (p.ctxs == 0 || (match c with | some c => p.ctxs.getLsbD c | none => false)) then
        { p with count := p.count + 1, ovf := p.ovf || p.count == BitVec.allOnes 48 }
      else p }

/-! ### Counting bytes (R353, R355, R359) -/

/-- COUNT grows by n bytes, saturating with OVF (R355). -/
def Arr.count' (a : Arr) (n : Nat) : Arr :=
  if a.count + n < 2 ^ 40 then { a with count := a.count + n } else { a with count := 2 ^ 40 - 1, ovf := true }

/-- How many of the bytes with these offsets lie in [base, base + len). -/
def bytesIn (base len : Nat) (offs : List Nat) : Nat :=
  (offs.filter fun o => decide (base ≤ o) && decide (o < base + len)).length

/-- The conditions of a firing (R356). -/
def Arr.canFire (a : Arr) : Bool := a.armed && decide (a.total ≤ a.count) && (decide (2 ≤ a.act.toNat) || decide (a.pendn < 255))
/-- A firing (R356). -/
def Arr.fire (a : Arr) : Arr :=
  { a with
    fires := a.fires + 1, count := if a.rearm then a.count - a.total else a.count, armed := a.rearm,
    pendn := if a.act.toNat ≤ 1 then a.pendn + 1 else a.pendn }
/-- It fires if it can: in the clock in which its count reaches the total. -/
def Arr.fireIf (a : Arr) : Arr := if a.canFire then a.fire else a

/-- The bytes at these offsets were performed at a core's banks: armed windows and slots count them, and a window that reaches its
total fires (R355, R356, R359). -/
def Core.countLoc (c : Core) (offs : List Nat) : Core :=
  let counted := c.ctrs.map fun a => if a.armed then a.count' (bytesIn a.base ((a.nlm1.toNat + 1) * 128) offs) else a
  let c := (counted.toList.filter Arr.canFire).foldl (fun (c : Core) _ => c.perfEv 0x10 none) c
  { c with
    ctrs := counted.map Arr.fireIf
    slots := c.slots.map fun o => o.map fun b =>
      { b with
          counts := (b.counts.zipIdx.map fun e =>
          min b.size (e.1 + bytesIn (b.base + e.2 * b.size) b.size offs)) } }

/-- SLOT_FILLED's rule (R359): while slot NEXT is full and unmarked it is marked and FILLED grows. -/
def SlotBuf.advance : Nat → SlotBuf → SlotBuf
  | 0, b => b
  | n + 1, b =>
    if b.counts.getD b.next 0 = b.size ∧ b.marks.getD b.next true = false then
      SlotBuf.advance n { b with marks := b.marks.set b.next true, filled := b.filled + 1, next := (b.next + 1) % b.cnt }
    else b

/-- The offsets of the bytes a list of writes covers. -/
def writtenOffs (a : Nat) (bs : List (Option Byte)) : List Nat :=
  (bs.zipIdx.filter fun e => e.1.isSome).map fun e => a + e.2

/-- Bytes performed at a core's banks (R194): the data, the counts, and the fill bit for a whole line written by
another party (R193). -/
def State.bankWrite (s : State) (k : CoreId) (off : Nat) (bs : List (Option Byte)) (remote : Bool) : State :=
  s.modCore k fun c =>
    let c := { c with loc := memWrite c.loc off bs }
    let c := c.countLoc (writtenOffs off bs)
    if remote && off % 128 = 0 && bs.length = 128 && bs.all Option.isSome then c.setFill (off / 128) 1 true else c

/-- The window of a global counter covers a physical address. -/
def Arr.covers (a : Arr) (pa : Nat) : Bool :=
  a.armed && decide (a.base ≤ pa) && decide (pa < a.base + (a.nlm1.toNat + 1) * 128)

/-- The armed global counters of a package whose window covers an address (at most one, R354). -/
def State.windowOf (s : State) (pa : Nat) : Option (DieId × Nat) :=
  (s.dies.filter fun e => e.1 / 8 == homePkg pa).findSome? fun e =>
    (e.2.gctrs.find? fun g => g.2.covers pa).map fun g => (e.1, g.1)

def State.modGctr (s : State) (d : DieId) (n : Nat) (f : Arr → Arr) : State :=
  s.modDie d fun x => { x with gctrs := fmSet x.gctrs n (f (fmGet {} x.gctrs n)) }

/-- The counter a number names (R354). -/
def State.ctr (s : State) : CtrId → Arr
  | .loc k n => (s.core k).ctrs[n]
  | .glob d sl n => fmGet {} (s.die d).gctrs (sl.val * 64 + n.val)
def State.modCtr (s : State) (h : CtrId) (f : Arr → Arr) : State :=
  match h with
  | .loc k n => s.modCore k fun co => { co with ctrs := co.ctrs.set n.val (f co.ctrs[n]) }
  | .glob d sl n => s.modGctr d (sl.val * 64 + n.val) f

/-- `cadd` on an armed counter, clamped (R365). -/
def Arr.addCount (c : Arr) (x : W64) : Arr :=
  if c.armed then { c with count := min (2 ^ 40 - 1) ((c.count : Int) + x.toInt).toNat } else c
/-- The status word (R353). -/
def Arr.status (a : Arr) : W64 :=
  BitVec.ofNat 64 (a.armed.toNat + 2 * a.rearm.toNat + 4 * a.act.toNat + 32 * a.ovf.toNat + 64 * a.lost.toNat +
    128 * a.alloc.toNat + a.fires.toNat * 2 ^ 8 + a.pendn % 256 * 2 ^ 24 + a.nlm1.toNat * 2 ^ 32)

/-- n bytes of a block were performed at its home slice (R355): counted at once where the counter lies in that slice,
otherwise sent to it. -/
def State.countGlob (s : State) (pa n : Nat) : State :=
  if n = 0 then s else
  match s.windowOf pa with
  | none => s
  | some (d, g) =>
    if homeDie pa = d ∧ homeSlice pa = g / 64 then s.modGctr d g fun a => (a.count' n).fireIf
    else
      let (l, s) := s.popLag
      if l = 0 then s.modGctr d g fun a => (a.count' n).fireIf
      else
        let (id, s) := s.newId
        s.modPkg (homePkg pa) fun p =>
          { p with
              counts := p.counts ++ [(id, .glob d ⟨g / 64 % 80, Nat.mod_lt _ (by decide)⟩
              ⟨g % 64, Nat.mod_lt _ (by decide)⟩, n)] }

/-! ### The pre-emption controller's page (R379) -/

/-- The first block of a die's controller page. -/
def ctlBlk (d : DieId) : Nat := (d / 8 * 2 ^ 52 + d % 8 * 0x1E00000000) / 64

/-- The user cores of a die in ascending die-local number (R262). -/
def State.dieUsers (s : State) (d : DieId) : List CoreId :=
  ((List.range 8192).map fun c => d / 8 * 2 ^ 16 + (d % 8 / 2 * 64 + c / 128) * 256 + d % 2 * 128 + c % 128).filter fun k => !s.isServer k

/-- STATE: the lowest step in which a core stands; while any resumes, 6. -/
def State.ctlState (s : State) (d : DieId) : Nat :=
  let steps := ((s.dieUsers d).filter fun k => !(s.core k).pre.out).map fun k => (s.core k).pre.step
  if steps.any fun n => decide (6 ≤ n) then 6
  else match steps with | [] => 0 | n :: t => t.foldl min n

/-- ACKS: cores that have finished the current step. -/
def State.ctlAcks (s : State) (d : DieId) (st : Nat) : Nat :=
  ((s.dieUsers d).filter fun k =>
    let n := (s.core k).pre.step
    if st = 0 || (s.core k).pre.out then false else if st = 6 then n == 0 else st == 5 || decide (st < n)).length

/-- The read-only word of the page follows the cores' steps. -/
def State.syncCtl (s : State) (d : DieId) : State :=
  let st := s.ctlState d
  let w := st % 8 + (if (s.die d).fail then 8 else 0) + s.ctlAcks d st * 16
  let s := s.modDie d fun x => { x with state := BitVec.ofNat 3 st }
  { s with mem := memWrite s.mem (ctlBlk d * 64 + 8) ((leBytes 8 w).map some) }

/-- A write of REQ is seen by the controller: in state 0 a reason starts pre-emption, in state 5 zero asks for the resume; any
other write is only stored. -/
def State.ctlReq (s : State) (d : DieId) (v : Byte) : State :=
  let st := (s.die d).state
  let s := s.modDie d fun x => { x with req := v }
  if st = 0 ∧ 1 ≤ v.toNat ∧ v.toNat ≤ 5 then
    let s := (s.dieUsers d).foldl (fun (s : State) k => s.modCore k fun co =>
      { co with pcause := v, pre := { step := 1 } }) s
    (s.modDie d fun x => { x with fail := false }).syncCtl d
  else if st = 5 ∧ v = 0 then s.modDie d fun x => { x with resume := true }
  else s

/-- The bits that a word of the first block of a controller page keeps; the others are reserved and read as zero (R4, R379). -/
def ctlBits : Nat → Nat
  | 0 => 0xFF
  | 1 => 2 ^ 17 - 1
  | 2 => 2 ^ 58 - 2 ^ 16
  | 3 => 2 ^ 40 - 1
  | _ => 0

/-- A write performed in a controller page: reserved bits and offsets stay zero. -/
def State.ctlWrite (s : State) (blk : Nat) (mask : BitVec 64) : State :=
  let d := homeDie (blk * 64)
  if blk < ctlBlk d ∨ ctlBlk d + 64 ≤ blk then s
  else
    let put := fun (n v : Nat) (s : State) => { s with mem := memWrite s.mem (blk * 64 + 8 * n) ((leBytes 8 v).map some) }
    if blk ≠ ctlBlk d then (List.range 8).foldl (fun s n => put n 0 s) s
    else
    let word := fun (n : Nat) => leNat (memRead s.mem (blk * 64 + 8 * n) 8) &&& ctlBits n
    let s := (List.range 8).foldl (fun s n => put n (word n) s) s
    let s := s.modDie d fun x => { x with save := BitVec.ofNat 58 (word 2), slice := BitVec.ofNat 40 (word 3) }
    let s := if mask.getLsbD 0 then s.ctlReq d (BitVec.ofNat 8 (word 0)) else s
    if (mask &&& 0xFF00) = 0 then s else s.syncCtl d

/-- A write of bytes of a block performed at its home, counted (R203, R355), and seen by the controller (R379). -/
def State.homeWrite (s : State) (blk : Nat) (mask : BitVec 64) (d : B512) (desc : Option Desc) : State :=
  ((s.putHome blk mask d desc).ctlWrite blk mask).countGlob (blk * 64) ((List.range 64).countP mask.getLsbD)

/-- A write performed at the L2 of a die (R202): the home line, or the peer copy, which becomes dirty. -/
def State.dieWrite (s : State) (die : DieId) (blk : Nat) (mask : BitVec 64) (d : B512) (desc : Option Desc) : State :=
  if atHome die blk then s.homeWrite blk mask d desc
  else match s.l2 die blk with
    | some c =>
      let m : B512 := BitVec.ofNat 512 (widenMask 64 mask.toNat)
      s.setL2 die blk { c with buf := ⟨mergeBits m c.buf.data d, desc.getD c.buf.desc⟩, dirty := true }
    | none => s

/-- The bytes of an aligned place in the data of a block, taken under a mask from a number. -/
def maskAt (lo n : Nat) : BitVec 64 := BitVec.ofNat 64 ((2 ^ n - 1) * 2 ^ lo)

end Sys2Proof.Machine
end

