-- ==== Sys2Proof/Machine/Ops.lean ====
section
/-! DEFINITION. Machine/Ops.lean: the operations every instruction shares: whose registers are read and written, the
checks of a word (R46), lookahead (R31, R48), messages in retry buffers (R15), freeing a context (R17), taking a trap and
returning from one (R371, R372, R125), killing a handler (R327), and issuing one instruction (R47, R116, R263). -/

namespace Sys2Proof.Machine

/-! ### Harts -/

/-- The registers of the agent whose turn it is. -/
def State.hart (s : State) : Hart :=
  match s.cur with
  | .ctx k c => (s.ctx k c).hart
  | .thread f t => (s.thread f t).hart

def State.modHart (s : State) (h : Hart → Hart) : State :=
  match s.cur with
  | .ctx k c => s.modCtx k c fun x => { x with hart := h x.hart }
  | .thread f t => s.modThread f t fun x => { x with hart := h x.hart }

/-- cn; c0 reads true (R39). -/
def Hart.cond (h : Hart) (n : Fin 8) : Bool := n = 0 || h.c.getLsbD n
/-- A write of cn; c0 discards it. -/
def Hart.setC (h : Hart) (n : Fin 8) (b : Bool) : Hart :=
  if n = 0 then h else { h with c := if b then h.c ||| (1#8 <<< n.val) else h.c &&& ~~~(1#8 <<< n.val) }
def Hart.setG (h : Hart) (n : Fin 16) (x : W64) : Hart := { h with g := h.g.set n.val x }

/-- The core and context of the agent, or core 0 context 0 for a farrier thread. -/
def State.kc (s : State) : CoreId × Fin 8 := match s.cur with | .ctx k c => (k, c) | .thread _ _ => (0, 0)
/-- The farrier and thread of the agent. -/
def State.ft (s : State) : FarId × Fin 16 := match s.cur with | .ctx _ _ => (0, 0) | .thread f t => (f, t)
/-- The context of the agent. -/
def State.me (s : State) : Ctx := s.ctx s.kc.1 s.kc.2
def State.modMe (s : State) (f : Ctx → Ctx) : State := s.modCtx s.kc.1 s.kc.2 f
/-- The core of the agent. -/
def State.myCore (s : State) : Core := s.core s.kc.1
def State.onFarrier (s : State) : Bool := match s.cur with | .thread _ _ => true | _ => false

/-- The guard's condition (R47). -/
def Hart.guard (h : Hart) (hd : Hdr) : Bool := h.cond hd.gc != hd.neg

/-! ### Jet groups (R65, R151) -/

/-- The group size G of an order. -/
def jetG (k : Nat) : Nat := if k = 0 then 1 else if k = 1 then 2 else if k ≤ 3 then 4 else 8

/-- A Series instruction of R130: with jord > 0 its v operands name jets. -/
def isSeries : Instr → Bool
  | .vadd _ | .vsub _ | .vmul _ | .vfma _ | .vfms _ | .vfnm _ | .vdiv _ | .vmin _ | .vmax _ | .vabs _ | .vneg _
  | .vsqrt _ | .vrcp _ | .vrsq _ | .vexp _ | .vlog _ | .vsin _ | .vcos _ | .vtanh _ | .vsigm _ | .vcmp _ | .vsel _
  | .vcvt _ => true
  | _ => false

/-- Which of the fields A, B and C an instruction reads as jet names at order k (R130, R165, R166). -/
def jetSlots (k : Nat) (i : Instr) : Bool × Bool × Bool :=
  match i with
  | .jseed _ | .jconst _ | .jset _ => (true, false, false)
  | .jget _ => (false, true, false)
  | .jshift _ | .jdiff _ | .jint _ | .jtrunc _ => (true, true, false)
  | .vld _ | .vst _ => (k != 0, false, false)
  | _ => let j := k != 0 && isSeries i; (j, j, j)

/-- The operands an instruction reads as jet names at order k. -/
def jetOpds (k : Nat) (i : Instr) (f : Fields) : List Opd :=
  let j := jetSlots k i
  (if j.1 then [f.a] else []) ++ (if j.2.1 then [f.b] else []) ++ (if j.2.2 then [f.c] else [])

/-- An instruction R130, R137, R145 and R152 forbid at jord > 0. -/
def jetTrap (i : Instr) (f : Fields) : Bool :=
  match i with
  | .vcmp _ => tyInt f.ty || f.ty == 8
  | .vcvt _ => !((f.ty == 7 || f.ty == 9) && (f.from_ == 7 || f.from_ == 9))
  | .vsel _ => false
  | .vquant _ | .vqmax _ | .vcomp _ | .vexpd _ | .viadd _ | .visub _ | .vimul _ | .vand _ | .vor _ | .vxor _
  | .vshl _ | .vshr _ => true
  | _ => isSeries i && f.ty == 8

/-- Illegal in jet mode, cause 0x03 (R40, R46, R152). -/
def jetCause (k : Nat) (i : Instr) (f : Fields) : Bool :=
  (jetOpds k i f).any (fun o => match o with | .v n => decide (32 / jetG k ≤ n.val) | _ => false) ||
  (k ≠ 0 && jetTrap i f)

/-! ### Processor kind and privilege (R46, R51, R67) -/

/-- The control registers a farrier has (R319). -/
def farCsr : Csr → Bool
  | .fid | .fthr | .fcurb | .fdirb | .fdirn | .cyc => true
  | _ => false
/-- The control registers of a core (R68). -/
def coreCsr : Csr → Bool
  | .fid | .fthr | .fcurb | .fdirb | .fdirn => false
  | _ => true
/-- S and SRO: no access in user mode (R67). -/
def supCsr : Csr → Bool
  | .estat | .epc | .ecause | .eaddr | .evec | .escratch | .pcause => true
  | _ => false
/-- R/SW: no write in user mode (R67). -/
def supWriteCsr : Csr → Bool
  | .mmrev | .jobseed => true
  | r => supCsr r

/-- The control registers a word names (R49, class 0b101 of `csr` instructions). -/
def csrOf (i : Instr) (f : Fields) : Option (Csr × Bool) :=
  match i with
  | .csrr _ => match f.b with | .cr r => some (r, false) | _ => none
  | .csrw _ | .csrs _ | .csrc _ => match f.a with | .cr r => some (r, true) | _ => none
  | _ => none

/-- Opcodes that decode on a farrier (R51). -/
def farOp (op : Nat) : Bool :=
  op ≤ 0x28 || (0x40 ≤ op && op ≤ 0x44) || (0x49 ≤ op && op ≤ 0x4C) || op = 0x4E || op = 0x140 || op = 0x141 ||
  op = 0x14B || (0x200 ≤ op && op ≤ 0x20B)

/-- A value that only supervisor mode may hold in a word (R46). -/
def supValue (i : Instr) (f : Fields) : Bool :=
  match i with
  | .send _ | .sendr _ => decide (0xF00 ≤ f.bits 0 16)
  | .adrain _ => decide (0xF00 ≤ f.bits 18 12)
  | .crdFab _ | .crdMon _ => true
  | _ => false

/-- Privileged on a core: the table group, `eret`, `halt` and `pccfg` (R51, R367). -/
def privileged (i : Instr) : Bool :=
  match i with
  | .eret _ | .halt _ | .pccfg _ => true
  | _ => let op := i.opcode.toNat; decide (0x1C0 ≤ op) && decide (op ≤ 0x1CC)

/-- The trap of R46 that the mode, the processor kind or the jet order raises; none where the word may execute. -/
def wordCause (i : Instr) (f : Fields) (s : State) : Option Cause :=
  let op := i.opcode.toNat
  match s.cur with
  | .thread _ _ =>
    if !farOp op then some 0x01
    else match csrOf i f with
      | some (r, _) => if farCsr r then none else some 0x01
      | none => none
  | .ctx k c =>
    let x := s.ctx k c
    if 0x200 ≤ op then some 0x01
    else if (match csrOf i f with | some (r, _) => !coreCsr r | none => false) then some 0x01
    else if !x.sup && (privileged i || (match csrOf i f with
        | some (r, w) => if w then supWriteCsr r else supCsr r
        | none => false)) then some 0x02
    else if !x.sup && supValue i f then some 0x02
    else if jetCause x.jord.toNat i f then some 0x03
    else none

/-- Bits [95:32] of the word: eaddr of the decode traps (R370). -/
def wordHigh (i : Instr) : W64 := (encode i).extractLsb' 32 64

/-! ### Register writes -/

/-- One register write on a context; c0 and m0 discard theirs (R39). -/
def RegWrite.apply (w : RegWrite) (x : Ctx) : Ctx :=
  match w with
  | .g r y => { x with hart := x.hart.setG r y }
  | .c r b => { x with hart := x.hart.setC r b }
  | .v r mask y => { x with v := x.v.set r.val (mergeBits mask x.v[r] y) }
  | .vs r mask y => { x with vs := x.vs.set r.val (mergeBits mask x.vs[r] y) }
  | .m r mask y => if r = 0 then x else { x with m := x.m.set r.val (mergeBits mask x.m[r] y) }

def applyWrites (ws : List RegWrite) (x : Ctx) : Ctx := ws.foldl (fun x w => w.apply x) x

/-- Mask register mn; m0 reads all ones (R39, R64). -/
def Ctx.mask (x : Ctx) (n : Fin 8) : BitVec 128 := if n = 0 then BitVec.allOnes 128 else x.m[n]

/-- The part of a write whose units the bits of `sel` choose, the rest, and the bits left over; a unit is `u` bits of a v
register, u/8 (at least 1) of a mask, 16 of a sidecar, all of a g or c register (R48). -/
def RegWrite.split (u : Nat) (w : RegWrite) (sel : Nat) : List RegWrite × List RegWrite × Nat :=
  let cut := fun (n unit : Nat) =>
    leNat.bits ((List.range n).map fun j => sel.testBit (j / unit))
  match w with
  | .g r x => if sel.testBit 0 then ([.g r x], [], sel / 2) else ([], [.g r x], sel / 2)
  | .c r b => if sel.testBit 0 then ([.c r b], [], sel / 2) else ([], [.c r b], sel / 2)
  | .v r ms x =>
    let now : V1024 := BitVec.ofNat 1024 (cut 1024 u)
    ([.v r (ms &&& now) x], [.v r (ms &&& ~~~now) x], sel / 2 ^ (1024 / u))
  | .vs r ms x =>
    let now : W64 := BitVec.ofNat 64 (cut 64 16)
    ([.vs r (ms &&& now) x], [.vs r (ms &&& ~~~now) x], sel / 4)
  | .m r ms x =>
    let mu := max 1 (u / 8)
    let now : BitVec 128 := BitVec.ofNat 128 (cut 128 mu)
    ([.m r (ms &&& now) x], [.m r (ms &&& ~~~now) x], sel / 2 ^ (128 / mu))
where leNat.bits : List Bool → Nat
  | [] => 0
  | b :: t => (if b then 1 else 0) + 2 * leNat.bits t

def splitWrites (u : Nat) : List RegWrite → Nat → List RegWrite × List RegWrite
  | [], _ => ([], [])
  | w :: t, sel =>
    let (a, b, sel) := w.split u sel
    let r := splitWrites u t sel
    (a ++ r.1, b ++ r.2)

/-! ### Lookahead (R31, R48) -/

/-- Some window has run out and its instruction is not complete. -/
def Ctx.windowWait (x : Ctx) : Bool := x.flight.any fun f => !f.done && f.left == 0
/-- Some earlier instruction is not complete: one of the context, or a load that `hop` left behind and whose register is still to
come (R25). -/
def Ctx.undone (x : Ctx) : Bool := x.fwdIn != 0 || x.flight.any fun f => !f.done
/-- The registers an operand names: a jet's whole group at order k where `jet`. -/
def expandOpd (k : Nat) (jet : Bool) (o : Opd) : List Opd :=
  match o with
  | .v n => if jet then (List.range (jetG k)).map fun i => .v (Fin.ofNat 32 (n.val * jetG k + i)) else [.v n]
  | .none | .imm _ => []
  | o => [o]

/-- `n` consecutive g registers from an operand. -/
def gRun (o : Opd) (n : Nat) : List Opd :=
  match o with | .g r => (List.range n).map fun i => .g (Fin.ofNat 16 (r.val + i)) | _ => []
/-- `n` consecutive v registers. -/
def vRun (o : Opd) (n : Nat) : List Opd :=
  match o with | .v r => (List.range n).map fun i => .v (Fin.ofNat 32 (r.val + i)) | _ => []

/-- Registers an instruction reads, the guard apart. -/
def readsOf (k : Nat) (i : Instr) (f : Fields) : List Opd :=
  let js := jetSlots k i
  let a := expandOpd k js.1 f.a
  let b := expandOpd k js.2.1 f.b
  let c := expandOpd k js.2.2 f.c
  let m := if 0x80 ≤ i.opcode.toNat && i.opcode.toNat ≤ 0xC7 then [Opd.m f.mkn] else []
  (match i with
  | .vfma _ | .vfms _ | .vfnm _ => a ++ b ++ c
  | .vbound _ | .vwidth _ | .mand _ | .mor _ | .mxor _ | .mcnt _ | .vins _ => f.a :: b ++ c
  | .lih _ | .st _ | .stblk _ | .stmeta _ | .acas _ | .dcopy _ | .slinit _ | .adrain _ | .jset _ => a ++ b ++ c
  | .vst _ => .m f.mk1 :: a ++ b ++ c
  | .vstx _ => .m f.mkn :: a ++ b ++ c
  | .arow _ => .m f.mkn :: b ++ c
  | .cget _ => if f.b.isNone then (List.range 7).map fun n => .c (Fin.ofNat 8 (n + 1)) else b
  | .sel _ => [.c (Fin.ofNat 8 (f.bits 17 3)), f.b, f.c]
  | .send _ | .sendr _ => f.a :: gRun f.b (f.bits 16 4)
  | .amma _ =>
    (if f.b.isV then vRun f.b 4 else gRun f.b 2) ++ (if f.c.isV then vRun f.c (if f.ty == 3 then 16 else 4) else gRun f.c 2)
  | .ald _ => gRun f.b 2
  | .ast _ => gRun f.a 2
  | .dgath _ => f.a :: f.c :: gRun f.b 2
  | .dscad _ => f.b :: f.c :: gRun f.a 2
  | .carm _ => gRun f.b 4 ++ gRun f.c 2
  | .rtset _ => f.c :: gRun f.b 3
  | .vld _ | .vldx _ => [.m (if (match i with | .vld _ => true | _ => false) then f.mk1 else f.mkn), f.b, f.c]
  | _ => b ++ c) ++ m

/-- Registers an instruction writes. -/
def writesOf (k : Nat) (i : Instr) (f : Fields) : List Opd :=
  let a := expandOpd k (jetSlots k i).1 f.a
  match i with
  | .st _ | .vst _ | .stblk _ | .stmeta _ => if f.post then [f.b] else []
  | .ld _ | .vld _ | .ldblk _ | .ldmeta _ => a ++ (if f.post then [f.b] else [])
  | .vstx _ | .send _ | .sendr _ | .hop _ | .dcopy _ | .dgath _ | .dscad _ | .slinit _ | .ast _ | .adrain _
  | .fset _ | .fclr _ | .pref _ => []
  | .csrw _ | .csrs _ | .csrc _ => [f.a, f.c]
  | .cset _ => if f.a.isNone then (List.range 8).map fun n => .c (Fin.ofNat 8 n) else [f.a]
  | _ => a

/-- The window an instruction breaks: it reads or writes a destination of an earlier instruction inside that
instruction's window, tiles apart (R48), or writes a register an anvil entry reads (R171). -/
def lkBroken (x : Ctx) (reads writes : List Opd) : Option PcW :=
  (x.flight.find? fun fl => decide (0 < fl.left) &&
    ((reads ++ writes).any (fun r => !r.isZ && fl.dests.contains r) || writes.any fun r => fl.srcs.contains r)).map (·.pc)

/-- The window broken by a write of own-local bytes that an anvil entry inside it reads (R171). -/
def lkRows (x : Ctx) (offs : List Nat) : Option PcW :=
  if x.lkchk then
    (x.flight.find? fun fl => decide (0 < fl.left) && offs.any fun o => fl.rows.any fun r => decide (r ≤ o) && decide (o < r + 32)).map (·.pc)
  else none

/-! ### Messages (R9, R14-R16) -/

/-- The sender interface of a notice of package p. -/
def devSrc (p : PkgId) : CoreId := 2 ^ 22 + p
def isDevSrc (k : CoreId) : Bool := decide (2 ^ 22 ≤ k)

/-- The slot a message is held in. -/
def State.slot (s : State) (r : MRef) : Option RSlot :=
  if isDevSrc r.src then (s.pkg (r.src - 2 ^ 22)).notices.lookup r.slot
  else match (s.core r.src).retry[r.slot]? with | some o => o | none => none

def State.setSlot (s : State) (r : MRef) (o : Option RSlot) : State :=
  if isDevSrc r.src then
    s.modPkg (r.src - 2 ^ 22) fun p =>
      { p with notices := match o with | some x => fmSet p.notices r.slot x | none => fmDel p.notices r.slot }
  else s.modCore r.src fun c => { c with retry := c.retry.setIfInBounds r.slot o }

/-- The first free retry-buffer slot of a core. -/
def Core.freeSlot (c : Core) : Option Nat := (List.range 8).find? fun j => c.retry[j]?.getD none |>.isNone

/-- A packet for another package enters the fabric (R398): it is not delivered until its frame is. `flow` is its source: a core, an
L2 slice (`sliceKey`) or 2^30 + a farrier. -/
def State.ship (s : State) (src dst : PkgId) (uid flow : Nat) (reply : Bool) (body : FabBody) : State :=
  if src = dst then s
  else { s with fab := s.fab ++ [{ uid := uid, src := src, dst := dst, flow := flow, reply := reply, body := body }] }

/-- An L2 slice as the source of a flow (R398). -/
def sliceKey (d : DieId) (pa : Nat) : Nat := 2 ^ 31 + d * 80 + homeSlice pa

/-- The item with this number is still on the fabric. -/
def State.inFab (s : State) (uid : Nat) : Bool := s.fab.any fun p => p.uid == uid

/-- The package of a message's sender. -/
def refPkg (r : MRef) : PkgId := if isDevSrc r.src then r.src - 2 ^ 22 else pkgOf r.src

/-- A message enters a free retry-buffer slot and leaves (R15). -/
def State.postMsg (s : State) (k : CoreId) (m : Msg) : Option (State × Nat) :=
  (s.core k).freeSlot.map fun j =>
    ((s.setSlot ⟨k, j⟩ (some ⟨m, .sent, 256⟩)).ship (pkgOf k) (pkgOf m.target) m.uid k false .plain, j)

/-- The device sends a supervisor notice to a server core of its package (R294, R327, R372, R401). -/
def State.notice (s : State) (p : PkgId) (target : CoreId) (ty : BitVec 12) (payload : List W64) : State :=
  let (id, s) := s.newId
  s.setSlot ⟨devSrc p, id⟩ (some ⟨{ uid := id, target := target, ty := ty, payload := payload, kind := 0 }, .sent, 256⟩)

/-- A context no longer waits for the acknowledgement of a number (R15, R228). -/
def Ctx.unpend (x : Ctx) (uid : Nat) : Ctx := { x with pend := x.pend.erase uid }

/-- The acknowledgement of a number returns from core j to a context of core k, on the reply lane from another package (R15, R399). -/
def State.ackTo (s : State) (j k : CoreId) (c : Fin 8) (uid : Nat) : State :=
  if pkgOf j = pkgOf k then s.modCtx k c (·.unpend uid) else s.ship (pkgOf j) (pkgOf k) uid j true (.ack k c)

/-! ### Events a counter counts (R361, R362) -/

/-- One event of a core. -/
def State.perfEv (s : State) (k : CoreId) (ev : Nat) (c : Option (Fin 8)) : State := s.modCore k (·.perfEv ev c)
/-- A die monitor counter counts (R362). -/
def State.mon (s : State) (d : DieId) (n : Nat) : State :=
  s.modDie d fun x => { x with mon := if h : n < 10 then x.mon.set n (x.mon[n] + 1) else x.mon }

/-! ### The context pool (R17, R20, R256) -/

/-- The class of a context: supervisor is context 7, or any context of a server core (R8). -/
def State.supClass (s : State) (k : CoreId) (c : Fin 8) : Bool := s.isServer k || c == 7

/-- A context becomes free for its class: the oldest listed refusal of the class reserves it and its sender is noticed
(R17). During pre-emption no notice is sent (R35). -/
def State.offer (s : State) (k : CoreId) (c : Fin 8) : State :=
  let s := s.modCore k fun co => { co with noticed := co.noticed.filter fun l => some l.msg ≠ co.ctxs[c].holdFor }
  let co := s.core k
  let cls := s.supClass k c
  match co.refused.find? fun l => l.sup == cls || s.isServer k with
  | some l =>
    if co.pre.step ≠ 0 then s.modCtx k c fun x => { x with pool := .free, holdFor := none }
    else
      let s := s.modCore k fun co => { co with refused := co.refused.erase l, noticed := co.noticed ++ [l] }
      let s := s.modCtx k c fun x => { x with pool := .reserved, holdFor := some l.msg }
      let s := s.perfEv k 0x0E none
      match s.slot l.msg with
      | some r =>
        (s.setSlot l.msg (some { r with st := .noticed })).ship (pkgOf k) (refPkg l.msg) r.msg.uid k true .plain
      | none => s
  | none => s.modCtx k c fun x => { x with pool := .free, holdFor := none }

/-- What leaves with an activation: waits, windows, fence points, gap and occupancy, and its pins (R196, R256). -/
def State.clearCtx (s : State) (k : CoreId) (c : Fin 8) : State :=
  let s := s.modCore k fun co =>
    { co with
      exch := co.exch.filter fun e => e.owner ≠ some c, drayBad := co.drayBad.filter fun b => b.ctx ≠ c,
      barArr := co.barArr.map fun l => l.map fun o => if o = some c then none else o,
      barDone := co.barDone.map fun l => l.filter fun d => d ≠ c }
  let s := s.modCtx k c fun x =>
    { x with
      flight := [], wait := .none, fences := [], gap := 0, occ := 0, swEnd := false, unit := none, fwdIn := 0,
      joined := 0, inEntry := false, holdFor := none, force := Vector.replicate 2 none, pend := [] }
  s.modCore k fun co => { co with l1 := l1Unpin (1 <<< c.val) false co.l1 }

/-- The context frees and is offered (R17, R20). -/
def State.freeCtx (s : State) (k : CoreId) (c : Fin 8) : State := (s.clearCtx k c).offer k c

/-- The position of a core as `coord` reads it (R69). -/
def State.coord (s : State) (k : CoreId) : W64 :=
  BitVec.ofNat 64 (xOf k + yOf k * 2 ^ 8 + pkgOf k * 2 ^ 16 + dieOf k % 8 * 2 ^ 24 + (if s.isServer k then 2 ^ 27 else 0))

/-! ### Taking a trap (R371, R372) -/

/-- The age order after a context issued or trapped (R263). -/
def Core.moveEnd (co : Core) (c : Fin 8) : Core := { co with order := co.order.erase c ++ [c] }

/-- The issue slot of this clock is taken. -/
def State.took (s : State) : State := { s with issued := true }

/-- An instruction of the three entry bundles in supervisor mode (R372). -/
def State.inBundle (s : State) (k : CoreId) (sup : Bool) (pc : PcW) : Bool :=
  let ev := (s.core k).evec.toNat
  sup && decide (ev ≤ pc.toNat) && decide (pc.toNat ≤ ev + 575)

/-- The instruction of the issuing context is one. -/
def State.early (s : State) : Bool := s.inBundle s.kc.1 s.me.sup s.hart.pc

/-- A trap raised in supervisor mode by an instruction of the entry bundles, or before an entry's `pdone` (R372). -/
def State.doubleFault (s : State) (k : CoreId) (c : Fin 8) : Bool :=
  let x := s.ctx k c
  x.inEntry || s.inBundle k x.sup x.hart.pc

/-- A double fault: the context ends, its core's local memory is frozen and the groom is told (R372). -/
def State.takeDouble (s : State) (k : CoreId) (c : Fin 8) (cause : Cause) (epc : PcW) (eaddr : W64) : State :=
  let busy := (s.core k).pre.step ≠ 0
  let s := s.modCore k fun co =>
    { co with
      frozen := true, exch := (co.exch.filter fun e => e.owner ≠ some c),
      pre := if busy then { co.pre with out := true } else co.pre }
  let s := s.modCtx k c fun x => { x with wait := .finish 0, flight := (x.flight.filter fun f => !f.done) }
  let s := if busy then (s.modDie (dieOf k) fun d => { d with fail := true }).syncCtl (dieOf k) else s
  s.notice (pkgOf k) (dieServer (dieOf k)) 0xF12
    [s.coord k, BitVec.ofNat 64 c.val, cause.setWidth 64, epc.setWidth 64, eaddr]

/-- Normal entry (R371): the record, the mode, the pc; the in-force pairs are dropped (R118) and a wait is abandoned
(R376), while what R377 keeps stands elsewhere. -/
def Ctx.enter (x : Ctx) (evec : PcW) (cause : Cause) (epc : PcW) (eaddr : W64) : Ctx :=
  { x with
    pmode := x.sup, pien := x.ien, ien := false, epc := epc, ecause := cause, eaddr := eaddr,
    force := Vector.replicate 2 none, sup := true, hart := { x.hart with pc := evec }, flight := [], wait := .none }

/-- The trap of a core context, at an instruction (`atInstr`) or from outside it. It counts as an issue (R263). -/
def State.trapCtx (s : State) (k : CoreId) (c : Fin 8) (cause : Cause) (epc : PcW) (eaddr : W64) (atInstr : Bool) : State :=
  let s := s.took.modCore k fun co =>
    { co.moveEnd c with accs := co.accs.filter fun a => !(a.ctx == c && a.kind == .xlate) }
  let s := match (s.ctx k c).wait with
    | .carmReg h _ => s.modCtr h fun a => if a.regBy k c then {} else a
    | _ => s
  if atInstr && s.doubleFault k c then s.takeDouble k c cause epc eaddr
  else s.modCtx k c fun x => x.enter (s.core k).evec cause epc eaddr

/-- The pairs in force where an activation resumes: a level with a nonzero count takes the values of its registers, and keeps them
for the iteration in progress (R118, log 87). -/
def Ctx.latched (x : Ctx) : Ctx :=
  { x with force := Vector.ofFn fun (l : Fin 2) => if x.lc[l] = 0 then none else some (x.ls[l], x.le[l]) }

/-- The return of `eret` (R125); the loops go on under the register values (R118). -/
def Ctx.eret (x : Ctx) : Ctx := { x with hart := { x.hart with pc := x.epc }, sup := x.pmode, ien := x.pien }.latched

/-! ### Killing a handler (R326, R327) -/

/-- The die whose server core hears of a farrier's kills (R327). -/
def farDie (f : FarId) : DieId := f % 64 * 8 + (if f / 64 < 80 then f / 64 / 10 else 0)

/-- A reply to a farrier thread on the reply lane (R259, R334). -/
def State.reply (s : State) (src dst : FarId) (t : Fin 16) (req : Nat) (status : Byte) (data : Option Buf) : State :=
  let (id, s) := s.newId
  let s := s.ship (src % 64) (dst % 64) id (2 ^ 30 + src) true .plain
  s.modFar dst fun f => { f with reps := f.reps ++ [{ uid := id, thread := t, req := req, status := status, data := data }] }

/-! ### Directory entries and their spill table (R324, R325) -/

/-- The physical address of slot n of a farrier's spill table. -/
def Farrier.slotAt (x : Farrier) (n : Nat) : Nat := x.fdirb.toNat / 4096 * 4096 + 32 * n
/-- The slots that a block may lie in. -/
def Farrier.probes (x : Farrier) (blk : Nat) : List Nat :=
  let n := 4096 * x.fdirn.toNat
  (List.range (min 8 n)).map fun i => (blk + i) % n
/-- Word i of a slot. -/
def State.slotWord (s : State) (x : Farrier) (n i : Nat) : W64 := BitVec.ofNat 64 (leNat (memRead s.mem (s.memAt (x.slotAt n + 8 * i)) 8))
/-- Word 0 of the slot of a block: USED and the address. -/
def slotKey (blk : Nat) : W64 := BitVec.ofNat 64 (blk * 64 + 1)
/-- The slots of its probe range that hold a block. -/
def State.slotsOf (s : State) (x : Farrier) (blk : Nat) : List Nat := (x.probes blk).filter fun n => s.slotWord x n 0 == slotKey blk
/-- A slot written, as `st` with AF = 1 writes. -/
def State.putSlot (s : State) (x : Farrier) (n : Nat) (w0 w1 w2 : W64) : State :=
  let a := x.slotAt n
  s.homeWrite (a / 64) (maskAt (a % 64) 32)
    (BitVec.ofNat 512 ((w0.toNat + w1.toNat * 2 ^ 64 + w2.toNat * 2 ^ 128) * 2 ^ (8 * (a % 64)))) none
/-- An entry leaves the cache for the first slot of its probe range that holds its block or is unused. -/
def State.spill (s : State) (f : FarId) (blk : Nat) (d : Dir) : Option State :=
  let x := s.far f
  ((x.probes blk).find? fun n => s.slotWord x n 0 == slotKey blk || !(s.slotWord x n 0).getLsbD 0).map fun n =>
    (s.putSlot x n (slotKey blk) d.w0 d.w1).modFar f fun fr => { fr with dir := fmDel fr.dir blk }

/-- The directory entry of a block: in the cache, or in the table (R324, R325). -/
def State.dirOf (s : State) (f : FarId) (blk : Nat) : Dir :=
  let x := s.far f
  match x.dir.lookup blk with
  | some d => d
  | none => match s.slotsOf x blk with
    | n :: _ => ⟨s.slotWord x n 1, s.slotWord x n 2⟩
    | [] => {}
/-- Its HELD bit. -/
def Dir.held (d : Dir) : Bool := d.w0.getLsbD 31
/-- An entry stored in the cache; an all-zero entry is removed, and its slot written with zero. -/
def State.setDir (s : State) (f : FarId) (blk : Nat) (d : Dir) : State :=
  if d.w0 = 0 ∧ d.w1 = 0 then
    let x := s.far f
    ((s.slotsOf x blk).foldl (fun s n => s.putSlot x n 0 0 0) s).modFar f fun fr => { fr with dir := fmDel fr.dir blk }
  else s.modFar f fun fr => { fr with dir := fmSet fr.dir blk d }
/-- Every entry of a farrier: those of the cache, and those of the table that the cache does not hold. -/
def State.dirAll (s : State) (f : FarId) : List (Nat × Dir) :=
  let x := s.far f
  let lo := s.memAt (x.slotAt 0)
  let used := ((s.mem.filter fun c => decide (lo ≤ c.1) && decide (c.1 < lo + 2 ^ 17 * x.fdirn.toNat)).map fun c =>
    (c.1 - lo) / 32).eraseDups
  x.dir ++ used.filterMap fun n =>
    let k := s.slotWord x n 0
    let blk := k.toNat / 64
    if k.getLsbD 0 && (x.dir.lookup blk).isNone then some (blk, ⟨s.slotWord x n 1, s.slotWord x n 2⟩) else none
/-- A place in the cache for the entry of a block that must be kept: the first entry that can be spilled leaves a full one (R325, log 98). -/
def State.dirRoom (s : State) (f : FarId) (blk : Nat) : State :=
  let c := (s.far f).dir
  if (c.lookup blk).isSome || decide (c.length < 4096) then s
  else (c.findSome? fun e => s.spill f e.1 e.2).getD s
/-- HELD set or cleared (R327, R328). -/
def State.setHeld (s : State) (f : FarId) (blk : Nat) (b : Bool) : State :=
  let d := s.dirOf f blk
  let s := if b then s.dirRoom f blk else s
  s.setDir f blk { d with w0 := if b then d.w0 ||| 0x80000000 else d.w0 &&& ~~~0x80000000 }

/-- g1 of a dispatched message (R320); INIT has its type alone. -/
def FMsg.info (m : FMsg) : W64 :=
  if m.ty = 0x38 then 0x38 else
  BitVec.ofNat 64 (m.ty.toNat + m.region * 2 ^ 6 + m.prot.toNat * 2 ^ 18 + (if m.sup then 2 ^ 22 else 0) +
    (if m.acc then 2 ^ 23 else 0) + m.die * 2 ^ 24 + m.pkg * 2 ^ 27)

/-- The kill of a handler (R327). The program counter and the count of a standard handler, whose code the manual does not give, are
free values (log 20). -/
def State.kill (s : State) (f : FarId) (t : Fin 16) (cause : Cause) : State :=
  let th := s.thread f t
  match th.msg with
  | none => s.modThread f t fun x => { x with busy := false, script := none, code := none }
  | some m =>
    let isBlk := m.ty ≠ 0x38
    let (n, s) := if th.script.isSome then s.freeNat else (th.hart.pc.toNat % 2 ^ 32 + th.retired % 2 ^ 13 * 2 ^ 32, s)
    let rec4 : W64 := BitVec.ofNat 64 (n % 2 ^ 45)
    let s := if !isBlk then s
      else if homePkg (m.blk * 64) = f % 64 then s.setHomeTag m.blk 3
      else if m.acc then s.setDieTag (m.pkg * 8 + m.die) m.blk 3
      else s
    let s := if isBlk then s.setHeld f m.blk true else s
    let s := s.modFar f fun fr =>
      { fr with killed := if isBlk then fr.killed ++ [{ m with g6 := m.info, g7 := rec4 }] else fr.killed }
    let s := match m.party with
      | .far q u _ => if th.replied then s else s.reply f q u m.uid 0xFF none
      | _ => s
    let s := s.mon (farDie f) 3
    let s := s.notice (f % 64) (dieServer (farDie f)) 0xF11
      [BitVec.ofNat 64 f, cause.setWidth 64, BitVec.ofNat 64 (m.blk * 64), m.info, rec4]
    s.modThread f t fun x =>
      { x with
        busy := false, msg := none, script := none, code := none, flight := [], blk := [], blkN := 0, blkOr := 0,
        awaits := none, answer := none, replied := false, dirty := false, inBlk := false }

/-- The trap of the agent: entry on a core, a kill on a farrier. -/
def State.trap (s : State) (cause : Cause) (epc : PcW) (eaddr : W64) : State :=
  match s.cur with
  | .ctx k c => s.trapCtx k c cause epc eaddr true
  | .thread f t => s.kill f t cause

/-! ### The end of an instruction -/

/-- The pair in force for a level: the latched one; in a handler, whose entry dropped it, the registers (R115, R118). -/
def Ctx.pair (x : Ctx) (l : Fin 2) : PcW × PcW := x.force[l].getD (x.ls[l], x.le[l])

/-- The end-of-body test of one level (R116): none where it does not fire or falls through. -/
def Ctx.loopTest (x : Ctx) (l : Fin 2) : Option PcW × Ctx :=
  if x.lc[l] ≠ 0 ∧ (x.pair l).2 = x.hart.pc then
    if x.lc[l].toNat ≤ 1 then (none, { x with lc := x.lc.set l.val 0, force := x.force.set l.val none })
    else (some x.ls[l], { x with lc := x.lc.set l.val (x.lc[l] - 1), force := x.force.set l.val (some (x.ls[l], x.le[l])) })
  else (none, x)

/-- The program counter moves on, through the end-of-body tests, level 1 first (R116). -/
def Ctx.advance (x : Ctx) : Ctx :=
  match x.loopTest 1 with
  | (some p, x) => { x with hart := { x.hart with pc := p } }
  | (none, x) =>
    match x.loopTest 0 with
    | (some p, x) => { x with hart := { x.hart with pc := p } }
    | (none, x) => { x with hart := { x.hart with pc := x.hart.pc + 12 } }

/-- Issue cycles of an instruction and the unit it holds (R101, R129, R156, R170, R242), at order k. -/
def cost (k : Nat) (i : Instr) (f : Fields) : Nat × Option FUnit :=
  let lin := if k = 0 then 2 else 2 * (k + 1)
  match i with
  | .mul _ | .mulh _ | .mulhn _ => (2, some .muldiv)
  | .div _ | .divn _ | .remI _ | .remn _ => (18, some .muldiv)
  | .vadd _ | .vsub _ | .vneg _ | .vabs _ | .vmin _ | .vmax _ | .vsel _ | .vcvt _ | .jseed _ | .jconst _ | .jshift _
  | .jdiff _ | .jint _ | .jtrunc _ => (lin, some .vec)
  | .vmul _ => (if k = 0 then 2 else (k + 1) * (k + 2), some .vec)
  | .vfma _ | .vfms _ | .vfnm _ => (if k = 0 then 2 else (k + 1) * (k + 4), some .vec)
  | .vdiv _ => if k = 0 then (2, some .vec) else ((k + 1) * (k + 10), some .vecSfu)
  | .vrcp _ | .vsqrt _ | .vrsq _ | .vexp _ | .vlog _ =>
    if k = 0 then (2, some .vec) else ((k + 1) * (k + 8), some .vecSfu)
  | .vtanh _ => if k = 0 then (2, some .vec) else (2 * (k * k + k + 1) + 8 * (k + 1), some .vecSfu)
  | .vsigm _ => if k = 0 then (2, some .vec) else (2 * (k * k + 2 * k) + 8 * (k + 1), some .vecSfu)
  | .vsin _ | .vcos _ => if k = 0 then (2, some .vec) else (2 * k * k + 8 * (2 * k + 1), some .vecSfu)
  | .vcmp _ | .jget _ | .jset _ | .vsplat _ | .vins _ | .vextr _ | .vperm _ | .vslide _ | .vred _ | .vquant _ | .vqmax _
  | .vcomp _ | .vexpd _ | .viadd _ | .visub _ | .vimul _ | .vand _ | .vor _ | .vxor _ | .vshl _ | .vshr _ | .vmov _ =>
    (2, some .vec)
  | .amma _ => (if f.ty == 3 && f.c.isG then 4 else 2, none)
  | .arow _ | .vldx _ | .vstx _ | .ldblk _ | .stblk _ | .ablk _ => (2, none)
  | .vld _ | .vst _ => (2 * (k + 1), none)
  | .tjoin _ => (if f.b.isV then 2 else 1, none)
  | .tread _ => (if f.a.isV then 2 else 1, none)
  | _ => (1, none)

/-- An operation the special-function unit accepts every 8 cycles (R129). -/
def usesSfu : Instr → Bool
  | .vdiv _ | .vsqrt _ | .vrcp _ | .vrsq _ | .vexp _ | .vlog _ | .vsin _ | .vcos _ | .vtanh _ | .vsigm _ => true
  | _ => false

/-- Instructions that issue only after every earlier one of the context has completed (R48, R303). -/
def serial (i : Instr) : Bool :=
  match i with
  | .doneI _ | .waitUnack _ | .waitEng _ | .waitAll _ | .waitTime _ | .halt _ | .sysI _ | .brk _ | .eret _ => true
  | _ => let op := i.opcode.toNat; decide (0x1C0 ≤ op) && decide (op ≤ 0x1CC)

/-- Windows after one more instruction has issued: each counts down, and a closed window of a complete instruction is
forgotten (R31). -/
def ageFlights (fs : List Flight) : List Flight :=
  (fs.map fun f => { f with left := f.left - 1 }).filter fun f => !(f.done && f.left == 0)

/-- What issue leaves in the core: the age order, its events, and the interval of the special-function unit where `sfu` gives
it (R263, R361, R129). -/
def Core.issueCounts (co : Core) (c : Fin 8) (acted : Bool) (sfu : Option Nat) : Core :=
  let co := (co.moveEnd c).perfEv 0x02 (some c)
  let co := if acted then co else co.perfEv 0x03 (some c)
  match sfu with | some n => { co with sfu := n, sfuCtx := c } | none => co

/-- What issue leaves in the context and the core besides the effect: windows, gap, occupancy, age order (R263, R264). No
window stays open across an instruction that waits for every earlier one (R48). -/
def State.retire (s : State) (k : CoreId) (c : Fin 8) (i : Instr) (f : Fields) (acted : Bool) (new : List Flight) : State :=
  let x := s.ctx k c
  let (occ, unit) := if acted then cost x.jord.toNat i f else (1, none)
  let s := s.took.modCtx k c fun x =>
    { x with
      flight := if serial i then new else ageFlights x.flight ++ new, gap := f.hd.gap.toNat, occ := occ - 1,
      unit := if 1 < occ then unit else none, swEnd := f.hd.sw && decide (1 < occ),
      wait := match x.wait with | .fill .. => .none | w => w }
  s.modCore k (·.issueCounts c acted (if acted && usesSfu i then some (if x.jord = 0 then 8 else occ) else none))

/-- An instruction that has issued in an earlier clock goes on, outside the issue slot. -/
def State.goOn (s : State) : State := { s with went := true }

/-- The first issue of an instruction that then waits: it takes the issue slot, its occupancy and its unit, and its context moves
(R129, R263). -/
def State.began (s : State) (k : CoreId) (c : Fin 8) (i : Instr) (f : Fields) : State :=
  let (occ, unit) := cost (s.ctx k c).jord.toNat i f
  (s.took.modCtx k c fun x => { x with occ := occ - 1, unit := if 1 < occ then unit else none }).modCore k
    (·.issueCounts c true none)

/-- The switch-away move of a context comes at the end of the clock, after any issue of that cycle (R263). -/
def State.moveLater (s : State) (k : CoreId) (c : Fin 8) : State := s.modCore k fun co => { co with tail := co.tail ++ [c] }

/-- The end of an instruction that issued in an earlier clock and has waited since: its windows and gap; with S the context moves
at the end of this cycle (R263). -/
def State.resume (s : State) (k : CoreId) (c : Fin 8) (i : Instr) (f : Fields) (new : List Flight) : State :=
  let s := s.goOn.modCtx k c fun x =>
    { x with flight := if serial i then new else ageFlights x.flight ++ new, gap := f.hd.gap.toNat }
  if f.hd.sw then s.moveLater k c else s

/-- What an instruction comes to. -/
inductive Res where
  /-- its effect, with the windows it opens -/
  | ok (s : State) (new : List Flight := [])
  /-- its effect and its own next address: the end-of-body test does not fire (R116) -/
  | jump (pc : PcW) (s : State)
  /-- a trap at the instruction; `next` has epc name the following instruction, `st` is what it leaves besides -/
  | trap (cause : Cause) (eaddr : W64) (next : Bool := false) (st : Option State := none)
  /-- it has not issued, or it waits on, or it has ended its context -/
  | hold (s : State)
  /-- it has issued and waits, or has gone on and waits, keeping what R377 keeps -/
  | wait (s : State)

/-- The instruction of a core context (R46-R48, R375 item 4). -/
def issueCtx (k : CoreId) (c : Fin 8) (i : Instr) (f : Fields) (waits : Bool) (eff : State → Res) (s : State) : State :=
  let x := s.ctx k c
  let trap := fun (cause : Cause) (eaddr : W64) (next : Bool) (st : Option State) =>
    if x.undone then s
    else (st.getD s).trapCtx k c cause (if next then x.hart.pc + 12 else x.hart.pc) eaddr true
  if x.windowWait || x.fwdIn != 0 then s
  else match wordCause i f s with
  | some cause => trap cause (wordHigh i) false none
  | none =>
    let acts := x.hart.guard f.hd
    let lk := if x.lkchk then lkBroken x (.c f.hd.gc :: (if acts then readsOf x.jord.toNat i f else []))
        (if acts then writesOf x.jord.toNat i f else []) else none
    match lk with
    | some p => trap 0x04 (p.setWidth 64) false none
    | none =>
      if serial i && x.undone then s
      else if !acts then (s.retire k c i f false []).modCtx k c (·.advance)
      else if waits then s
      else match eff s with
      | .ok s new =>
        (if x.wait.begun then s.resume k c i f new else s.retire k c i f true new).modCtx k c (·.advance)
      | .jump pc s => (s.retire k c i f true []).modCtx k c fun x => { x with hart := { x.hart with pc := pc } }
      | .trap cause eaddr next st => trap cause eaddr next st
      | .hold s => s
      | .wait s => if x.wait.begun then s.goOn else s.began k c i f

/-- The handler's instruction budget falls by one and the program counter moves; beyond 0xFFF0 it is a trap (R317). `occ` is the
instruction's occupancy (R101). -/
def retireThread (f : FarId) (t : Fin 16) (fd : Fields) (pc : PcW) (occ : Nat) (s : State) : State :=
  let s := s.modThread f t fun x =>
    { x with
      fcurb := x.fcurb - 1, retired := x.retired + 1, gap := fd.hd.gap.toNat, occ := occ - 1, hart := { x.hart with pc := pc },
      flight := x.flight.map fun f => { f with left := f.left - 1 } }
  let s := s.took.modFar f fun fr => { fr with order := fr.order.erase t ++ [t] }
  if 0xFFF0 < pc.toNat ∧ (s.thread f t).busy then s.kill f t 0x08 else s

/-- One register write on a hart alone. -/
def RegWrite.onHart (h : Hart) : RegWrite → Hart
  | .g r x => h.setG r x
  | .c r b => h.setC r b
  | _ => h

/-- Results whose window has passed are written (R48, R317). -/
def Thread.landed (t : Thread) : Thread :=
  { t with
    hart := (t.flight.filter fun f => f.left == 0).foldl (fun h f => f.writes.foldl RegWrite.onHart h) t.hart,
    flight := t.flight.filter fun f => f.left != 0 }

/-- The instruction of a farrier thread (R317, R326). -/
def issueThread (fr : FarId) (t : Fin 16) (i : Instr) (f : Fields) (waits : Bool) (eff : State → Res) (s : State) : State :=
  let s := s.modThread fr t Thread.landed
  let x := s.thread fr t
  if x.fcurb = 0 then s.kill fr t 0x0E
  else match wordCause i f s with
  | some cause => s.kill fr t cause
  | none =>
    if !x.hart.guard f.hd then retireThread fr t f (x.hart.pc + 12) 1 s
    else if waits then s
    else match eff s with
    | .ok s _ => retireThread fr t f (x.hart.pc + 12) (cost 0 i f).1 s
    | .jump pc s => retireThread fr t f pc 1 s
    | .trap cause _ _ st => (st.getD s).kill fr t cause
    | .hold s => s
    | .wait s => s.took

/-- Issue one instruction for the agent: `waits` says that R21 or R264 holds it back, `eff` is its effect. -/
def issue (i : Instr) (f : Fields) (waits : State → Bool) (eff : State → Res) (s : State) :
    Host.Outcome State Fault Refusal :=
  .next (match s.cur with
    | .ctx k c => issueCtx k c i f (waits s) eff s
    | .thread fr t => issueThread fr t i f (waits s) eff s)

/-- A trap whose fault address the manual does not state (log 31). -/
def freeTrap (cause : Cause) (s : State) : Res :=
  let (n, s) := s.freeNat
  .trap cause (BitVec.ofNat 64 n) false (some s)

/-- An instruction with no wait of its own. -/
def never (_ : State) : Bool := false

/-! ### Long-latency results (R48) -/

/-- A result delivered under lookahead: prompt (choice 0), or the units the choice names now and the rest when
INSTRUCTION_COMPLETION comes. `u` is the unit in bits. -/
def deliver (i : Instr) (f : Fields) (u : Nat) (ws : List RegWrite) (fl : BitVec 40) (raises : Bool) (s : State) : Res :=
  let (k, c) := s.kc
  let x := s.ctx k c
  let (l, s) := s.popLag
  let win : Nat → Flight := fun id =>
    { id := id, pc := x.hart.pc, left := f.hd.look.toNat, dests := writesOf x.jord.toNat i f }
  let (id, s) := if l = 0 && f.hd.look == 0 then (0, s) else s.newId
  if l = 0 then
    .ok (s.modCtx k c fun x => (applyWrites ws x).raiseFlags fl)
      (if f.hd.look == 0 then [] else [{ win id with done := true }])
  else
    let p := splitWrites u ws (l - 1)
    .ok (s.modCtx k c fun x => applyWrites p.1 x) [{ win id with writes := p.2, flags := fl, raises := raises }]

/-- The instruction with this number completes: what it has still to write and its flags (R48, R71). -/
def State.complete (s : State) (k : CoreId) (c : Fin 8) (id : Nat) : State :=
  s.modCtx k c fun x =>
    match x.flight.find? fun f => f.id == id && !f.done with
    | none => x
    | some f =>
      let x := (applyWrites f.writes x).raiseFlags f.flags
      { x with
          flight := x.flight.filterMap fun g =>
          if g.id = id then (if g.left = 0 then none else some { g with done := true, writes := [], flags := 0 })
          else some g }

/-! ### Results on a farrier (R48) -/

/-- A farrier's long-latency result: at once, or kept until its window has passed. -/
def farDeliver (f : Fields) (ws : List RegWrite) (s : State) : State :=
  let (fr, t) := s.ft
  let (l, s) := s.popLag
  if l = 0 || f.hd.look == 0 then
    s.modThread fr t fun th => { th with hart := ws.foldl RegWrite.onHart th.hart }
  else
    s.modThread fr t fun th =>
      { th with flight := th.flight ++ [{ id := 0, pc := th.hart.pc, left := f.hd.look.toNat + 1, dests := [], writes := ws }] }

end Sys2Proof.Machine
end

