-- ==== Sys2Proof/Machine/Operands.lean ====
section
/-! DEFINITION. Machine/Operands.lean: the values operand fields name (R39, R49, R100, R237, R238) and the control
registers as values (R68, R69, R319). -/

namespace Sys2Proof.Machine

/-- Opnd(F) for the g and immediate classes; a c operand reads as 0 or 1. -/
def Hart.opd (h : Hart) (o : Opd) : W64 :=
  match o with
  | .g n => h.g[n]
  | .imm x => x.signExtend 64
  | .c n => if h.cond n then 1 else 0
  | _ => 0

/-- The second source of the binary mould (R100). -/
def Hart.src2 (h : Hart) (f : Fields) : W64 := if f.c.isNone then f.mi.signExtend 64 else h.opd f.c

/-- Dest(F, x) for a g destination; other classes take no g value. -/
def Hart.dest (h : Hart) (o : Opd) (x : W64) : Hart := match o with | .g n => h.setG n x | _ => h
/-- Dest(F, b) for a c destination. -/
def Hart.destC (h : Hart) (o : Opd) (b : Bool) : Hart := match o with | .c n => h.setC n b | _ => h

/-- The register after a g operand, for pairs (R172, R332). -/
def nextG (o : Opd) (n : Nat) : Opd := match o with | .g r => .g (Fin.ofNat 16 (r.val + n)) | o => o

/-- Index of a v, m, z or g operand. -/
def vIx (o : Opd) : Fin 32 := match o with | .v n => n | _ => 0
def zIx (o : Opd) : Fin 4 := match o with | .z n => n | _ => 0
def mIx (o : Opd) : Fin 8 := match o with | .m n => n | _ => 0
def gIx (o : Opd) : Fin 16 := match o with | .g n => n | _ => 0

/-- EffAddr() of layout M1 (R238): the base, plus the displacement unless it is a post-increment. -/
def Hart.ea (h : Hart) (f : Fields) : W64 := if f.post then h.opd f.b else h.opd f.b + f.imm24
/-- The base register after a post-increment form (R238). -/
def Hart.postInc (h : Hart) (f : Fields) : Hart := if f.post then h.dest f.b (h.opd f.b + f.imm24) else h

/-- A small immediate as an element of type `ty` (R130): rounded to nearest even, or modulo 2^w. -/
def immElem (ty : BitVec 4) (x : BitVec 9) : Nat :=
  if tyFloat ty then (roundTo (floatFmt ty.toNat) 0 0 (intVal x.toInt)).1 else wrap (tyWidth ty) x.toInt

/-- A g or immediate operand as an element of type `ty` (R130). -/
def Hart.elem (h : Hart) (ty : BitVec 4) (o : Opd) : Nat :=
  match o with
  | .imm x => immElem ty x
  | o => (h.opd o).toNat % 2 ^ tyWidth ty

/-- EffRnd (R49). -/
def effRnd (code fround : BitVec 3) : Nat := if code == 7 then fround.toNat else code.toNat

/-! ### Control registers -/

/-- estat as a word (R70). -/
def Ctx.estat (x : Ctx) : W64 :=
  BitVec.ofNat 64 (x.pmode.toNat + 2 * x.ien.toNat + 4 * x.pien.toNat + 8 * x.lkchk.toNat +
    16 * (decide (x.mmrev = 1)).toNat)

/-- The value of a core's control register, zero-extended (R68). -/
def State.csrCtx (s : State) (k : CoreId) (c : Fin 8) (r : Csr) : W64 :=
  let co := s.core k; let x := s.ctx k c
  match r with
  | .jord => x.jord.setWidth 64
  | .fround => x.fround.setWidth 64
  | .fflags => x.fflags.setWidth 64
  | .mmrev => x.mmrev.setWidth 64
  | .srctr => x.srctr
  | .jobseed => co.jobseed
  | .rank => co.rank.setWidth 64
  | .coord => s.coord k
  | .ctxid => BitVec.ofNat 64 c.val
  | .vl => 1024
  | .lc0 => x.lc[0].setWidth 64
  | .ls0 => x.ls[0].setWidth 64
  | .le0 => x.le[0].setWidth 64
  | .lc1 => x.lc[1].setWidth 64
  | .ls1 => x.ls[1].setWidth 64
  | .le1 => x.le[1].setWidth 64
  | .cyc => co.cyc
  | .unack => BitVec.ofNat 64 x.pend.length
  | .gen => co.gen
  | .estat => x.estat
  | .epc => x.epc.setWidth 64
  | .ecause => x.ecause.setWidth 64
  | .eaddr => x.eaddr
  | .evec => co.evec.setWidth 64
  | .escratch => x.escratch
  | .dflags => (s.die (dieOf k)).dflags.setWidth 64
  | .pcause => co.pcause.setWidth 64
  | .fid | .fthr | .fcurb | .fdirb | .fdirn => 0

/-- The value of a farrier's control register (R319). -/
def State.csrThread (s : State) (f : FarId) (t : Fin 16) (r : Csr) : W64 :=
  match r with
  | .fid => BitVec.ofNat 64 f
  | .fthr => BitVec.ofNat 64 t.val
  | .fcurb => BitVec.ofNat 64 (s.thread f t).fcurb
  | .fdirb => (s.far f).fdirb.setWidth 64
  | .fdirn => (s.far f).fdirn.setWidth 64
  | .cyc => (s.far f).cyc
  | _ => 0

def State.csr (s : State) (r : Csr) : W64 :=
  match s.cur with
  | .ctx k c => s.csrCtx k c r
  | .thread f t => s.csrThread f t r

/-- A count written to a level: a level that had ended starts again with its registers as they stand (R118). -/
def Ctx.writeLc (x : Ctx) (l : Fin 2) (v : BitVec 32) : Ctx :=
  { x with
    lc := x.lc.set l.val v,
    force := if x.lc[l] = 0 then x.force.set l.val (if v = 0 then none else some (x.ls[l], x.le[l])) else x.force }

/-- A control-register write of a core: the register's defined bits (R68, R123). -/
def State.setCsrCtx (s : State) (k : CoreId) (c : Fin 8) (r : Csr) (v : W64) : State :=
  let m := s.modCtx k c
  match r with
  | .jord => m fun x => { x with jord := v.setWidth 3 }
  | .fround => m fun x => { x with fround := v.setWidth 3 }
  | .fflags => m fun x => { x with fflags := v.setWidth 40 }
  | .mmrev => m fun x => { x with mmrev := v.setWidth 4 }
  | .srctr => m fun x => { x with srctr := v }
  | .jobseed => s.modCore k fun co => { co with jobseed := v }
  | .lc0 => m fun x => x.writeLc 0 (v.setWidth 32)
  | .lc1 => m fun x => x.writeLc 1 (v.setWidth 32)
  | .ls0 => m fun x => { x with ls := x.ls.set 0 (v.setWidth 57) }
  | .ls1 => m fun x => { x with ls := x.ls.set 1 (v.setWidth 57) }
  | .le0 => m fun x => { x with le := x.le.set 0 (v.setWidth 57) }
  | .le1 => m fun x => { x with le := x.le.set 1 (v.setWidth 57) }
  | .estat => m fun x =>
      { x with pmode := v.getLsbD 0, ien := v.getLsbD 1, pien := v.getLsbD 2, lkchk := v.getLsbD 3 }
  | .epc => m fun x => { x with epc := v.setWidth 57 }
  | .ecause => m fun x => { x with ecause := v.setWidth 8 }
  | .eaddr => m fun x => { x with eaddr := v }
  | .evec => s.modCore k fun co => { co with evec := v.setWidth 57 }
  | .escratch => m fun x => { x with escratch := v }
  | _ => s

/-- A control-register write of a farrier: fdirb and fdirn (R319). -/
def State.setCsrThread (s : State) (f : FarId) (r : Csr) (v : W64) : State :=
  match r with
  | .fdirb => s.modFar f fun x => { x with fdirb := (v.setWidth 58) &&& ~~~0xFFF }
  | .fdirn => s.modFar f fun x => { x with fdirn := v.setWidth 24 }
  | _ => s

def State.setCsr (s : State) (r : Csr) (v : W64) : State :=
  match s.cur with
  | .ctx k c => s.setCsrCtx k c r v
  | .thread f _ => s.setCsrThread f r v

/-- A code address is a multiple of 12 (R37); bits [63:57] of a register are no part of the target it gives (log 15). -/
def codeAligned (v : W64) : Bool := (v.setWidth 57).toNat % 12 == 0

/-- The trap a control-register value raises, with the 64-bit value of the update as eaddr; what is checked is the part the
register holds (R68, R73, R123, R319, log 38). -/
def csrValueTrap (i : Instr) (s : State) (r : Csr) (v : W64) : Option (Cause × W64) :=
  match r with
  | .ls0 | .le0 | .ls1 | .le1 => if codeAligned v then none else some (0x05, v)
  | .evec => if (v.setWidth 57).toNat % 192 == 0 then none else some (0x05, v)
  | .mmrev => if v.setWidth 4 = 1#4 ∨ v.setWidth 4 = 2#4 then none else some (0x01, wordHigh i)
  | .fdirb | .fdirn =>
    let f := s.ft
    match (s.thread f.1 f.2).msg with
    | some m => if m.ty = 0x38 then none else some (0x02, 0)
    | none => some (0x02, 0)
  | _ => none

end Sys2Proof.Machine
end

