-- ==== Sys2Proof/Machine/Walk.lean ====
section
/-! DEFINITION. Machine/Walk.lean: where an address leads: local windows and the checks at issue (R187-R190, R237-R239),
the page walk and the TLBs (R290-R292), the fault buffer and the parking pool (R261, R293, R294), posts to farriers
(R199, R316, R321). -/

namespace Sys2Proof.Machine

/-! ### Places (R187, R188, R237) -/

/-- A block description's sixteen bits in a sidecar half: SCALE below FMT (R63). -/
def descBits (d : Desc) : BitVec 16 := d.fmt ++ d.scale
/-- The description of half h of a sidecar. -/
def vsDesc (x : W64) (h : Nat) : Desc := ⟨x.extractLsb' (16 * h + 8) 8, x.extractLsb' (16 * h) 8⟩
/-- The sidecar write of half h. -/
def vsWrite (r : Fin 32) (h : Nat) (d : Desc) : RegWrite :=
  .vs r (BitVec.ofNat 64 (0xFFFF * 2 ^ (16 * h))) (BitVec.ofNat 64 ((descBits d).toNat * 2 ^ (16 * h)))

/-- The core a local-window address names, resolved against core k (R188); none where it names no core. -/
def State.windowCore (s : State) (k : CoreId) (va : W64) : Option CoreId :=
  let raw := fun (lo n : Nat) => (va.extractLsb' lo n).toNat
  let at' := fun (lo n base : Nat) => if va.getLsbD 62 then (base : Int) + signExt n (raw lo n) else (raw lo n : Int)
  let p := at' 56 6 (pkgOf k)
  let y := at' 48 8 (yOf k)
  let x := at' 40 8 (xOf k)
  if raw 17 23 = 0 ∧ 0 ≤ p ∧ p < 64 ∧ 0 ≤ y ∧ y < 256 ∧ 0 ≤ x ∧ x < 256 ∧ s.podHas (pkgOf k) p.toNat then
    some (p.toNat * 2 ^ 16 + y.toNat * 256 + x.toNat)
  else none

/-- Whether an agent of core k may reach core j in user mode (R188): its own core, or from a user core of the job another one (R378). -/
def State.mayReach (s : State) (k j : CoreId) (user : Bool) : Bool := k == j || !user || (s.userCore j && s.userCore k)

/-- An enabled carrier of package p reaches package q (R300, R401). -/
def State.reaches (s : State) (p q : PkgId) : Bool :=
  p == q || (s.pkg p).carriers.any fun e => e.2.plan.getLsbD 6 && e.2.plan.toNat % 64 == q

/-- Where an access goes, or the cause it raises at issue (R188, R189, R237, R239); eaddr is the address. Every byte of a global access
must lie below 2^57. -/
def State.place (s : State) (k : CoreId) (user af : Bool) (ea : W64) (size : Nat) : Except Cause Tgt :=
  if !af then (if ea.toNat + size ≤ 0x20000 then .ok (.bank k ea.toNat) else .error 0x08)
  else if ea.getLsbD 63 then
    let off := (ea.extractLsb' 0 17).toNat
    match s.windowCore k ea with
    | none => .error 0x08
    | some j =>
      if 0x20000 < off + size then .error 0x08
      else if !s.mayReach k j user || !s.reaches (pkgOf k) (pkgOf j) then .error 0x07
      else .ok (.bank j off)
  else if 2 ^ 57 < ea.toNat + size then .error 0x07
  else .ok (.glob ea)

/-! ### Translation (R290-R292) -/

/-- How a translation ends. -/
inductive Walk where
  | ok (pa : Nat)
  | miss
  | denied
  /-- a table block's tag forbids the walker's read -/
  | susp (pa : Nat)
  /-- a table block lies in this host-owned region (R296) -/
  | owned (n : Nat)
  /-- a table block's region is being rebound: the read waits (R350) -/
  | wait
deriving DecidableEq, Repr

def Tlb.has (e : Tlb) (va : Nat) : Bool := e.vpn == va / (if e.big then 2 ^ 26 else 2 ^ 16)
def Tlb.pa (e : Tlb) (va : Nat) : Nat := if e.big then e.ppn * 2 ^ 26 + va % 2 ^ 26 else e.ppn * 2 ^ 16 + va % 2 ^ 16
/-- The entry or leaf refuses the access. -/
def Tlb.refuses (e : Tlb) (wr ex user : Bool) : Bool := (wr && !e.w) || (ex && !e.x) || (user && !e.u)

/-- The region of a block at a package is host-owned (R296). -/
def Region.hostOwned (r : Region) : Bool := r.home == 0xC && r.own

/-- Eight bytes of a page table as the walker reads them: at the die's L2 under the region and tag of their block, or from
the blocks `have'` a farrier supplied. -/
def State.readPte (s : State) (d : DieId) (have' : List (Nat × List Byte)) (pa : Nat) : Except Walk Nat :=
  let blk := pa / 64
  match have'.lookup blk with
  | some bs => .ok (leNat ((bs.drop (pa % 64)).take 8))
  | none =>
    match s.regionOf (d / 8) pa with
    | none => .error .denied
    | some (n, r) =>
      if r.hostOwned then .error (.owned n)
      else if (s.pkg (d / 8)).rebind.contains n then .error .wait
      else if !tagReads (s.dieTag d blk) then .error (.susp pa)
      else .ok (leNat (((bytesB (s.dieBuf d blk).data).drop (pa % 64)).take 8))

/-- The index of each level: lowest bit and width (R189). -/
def walkLevels : List (Nat × Nat) := [(46, 11), (36, 10), (26, 10), (16, 10)]

/-- The walk from one level on (R291): the leaf, as a TLB entry. -/
def State.walkFrom (s : State) (d : DieId) (have' : List (Nat × List Byte)) (va : Nat) :
    List (Nat × Nat) → Nat → Nat → Except Walk Tlb
  | [], _, _ => .error .denied
  | (lo, n) :: t, lvl, base =>
    match s.readPte d have' (base + va / 2 ^ lo % 2 ^ n * 8) with
    | .error w => .error w
    | .ok e =>
      let fld := fun (lo n : Nat) => e / 2 ^ lo % 2 ^ n
      if fld 0 1 = 0 then .error .miss
      else if fld 5 7 ≠ 0 ∨ fld 58 6 ≠ 0 then .error .denied
      else if fld 1 1 = 1 then
        if lvl = 2 ∧ fld 12 14 = 0 then
          .ok ⟨va / 2 ^ 26, true, fld 26 32, fld 2 1 = 1, fld 3 1 = 1, fld 4 1 = 1⟩
        else if lvl = 3 ∧ fld 12 4 = 0 then
          .ok ⟨va / 2 ^ 16, false, fld 16 42, fld 2 1 = 1, fld 3 1 = 1, fld 4 1 = 1⟩
        else .error .denied
      else if lvl = 3 ∨ fld 12 1 ≠ 0 then .error .denied
      else s.walkFrom d have' va t (lvl + 1) (fld 12 46 * 4096)

/-- A walk from the die's translation root: a root with V = 0 is a miss. -/
def State.walkRoot (s : State) (d : DieId) (have' : List (Nat × List Byte)) (va : Nat) : Except Walk Tlb :=
  let root := (s.die d).root.toNat
  if root % 2 = 0 then .error .miss else s.walkFrom d have' va walkLevels 0 (root / 2 ^ 14 * 2 ^ 14)

/-- A walk for an access of core k, which fills the TLBs; a replay makes it whatever they hold (R291, R295). R292 leaves open how the
second-level TLB is arranged and which entry it loses: the model keeps the 4,096 filled last (DESIGN CHOICE, log 90). -/
def State.walkAgain (s : State) (k : CoreId) (wr ex user : Bool) (have' : List (Nat × List Byte)) (va : Nat) : Walk × State :=
  let d := dieOf k
  match s.walkRoot d have' va with
  | .error w => (w, s)
  | .ok e =>
    if e.refuses wr ex user then (.denied, s)
    else
      let s := s.modDie d fun x => { x with tlb := (e :: x.tlb.filter fun t => !t.has va).take 4096 }
      (.ok (e.pa va), s.modCore k fun co => { co with tlb := (e :: co.tlb.filter fun t => !t.has va).take 32 })

/-- What the TLBs of core k answer; none where neither holds the page (R292). -/
def State.tlbSeek (s : State) (k : CoreId) (wr ex user : Bool) (va : Nat) : Option (Walk × State) :=
  let fillL1 := fun (s : State) (e : Tlb) => s.modCore k fun co => { co with tlb := (e :: co.tlb.erase e).take 32 }
  let give := fun (e : Tlb) (s : State) => if e.refuses wr ex user then (Walk.denied, s) else (.ok (e.pa va), s)
  match (s.core k).tlb.find? (·.has va) with
  | some e => some (give e (fillL1 s e))
  | none => ((s.die (dieOf k)).tlb.find? (·.has va)).map fun e =>
    if e.refuses wr ex user then (.denied, s) else give e (fillL1 s e)

/-- The translation of an access of core k, filling the TLBs (R291, R292). -/
def State.translate (s : State) (k : CoreId) (wr ex user : Bool) (have' : List (Nat × List Byte)) (va : Nat) :
    Walk × State :=
  (s.tlbSeek k wr ex user va).getD (s.walkAgain k wr ex user have' va)

/-- A walk that has read a table block, or waits for one. -/
def Stage.walking : Stage → Bool
  | .walkSusp _ _ | .walk (_ :: _) => true
  | _ => false

/-- The walker of a die has its sixteen walks (R291). -/
def State.walkerFull (s : State) (d : DieId) : Bool :=
  let acc := fun (a : Access) => a.parts.countP fun p => p.stage.walking
  decide (16 ≤ ((s.cores.filter fun e => dieOf e.1 == d).map fun e =>
    (e.2.accs.map acc).sum + (match e.2.drayRun.bind (·.stage) with | some st => if st.walking then 1 else 0 | none => 0)).sum)

/-- A physical address an access of package p may not have (R190). -/
def badHome (p : PkgId) (pa : Nat) : Bool :=
  match homeOf pa with
  | .reserved => true
  | .hbm _ => false
  | _ => homePkg pa != p

/-! ### Faults and parking (R261, R293, R294) -/

/-- The status word of a die's fault buffer (R293). -/
def Die.faultStatus (x : Die) : W64 :=
  BitVec.ofNat 64 (x.fbuf.length + (if x.drop then 16 else 0) + x.parked.length % 2 ^ 13 * 32)

/-- Notice 0xF10 to the groom, while none is outstanding (R294). -/
def State.faultNotice (s : State) (d : DieId) : State :=
  if (s.die d).notice then s
  else
    ((s.modDie d fun x => { x with notice := true }).mon d 0).notice (d / 8) (dieServer d) 0xF10
      [BitVec.ofNat 64 (d % 8), (s.die d).faultStatus]

/-- The fault of a parked access is listed (R261): coalesced, a new entry, or the dropped flag. -/
def State.listFault (s : State) (d : DieId) (owned wr : Bool) (page : Nat) : State :=
  let x := s.die d
  let key : BitVec 41 := BitVec.ofNat 41 page
  match x.fbuf.find? fun e => e.owned == owned && e.page == key with
  | some _ =>
    s.modDie d fun x =>
      { x with
        fbuf := x.fbuf.map fun e =>
          if e.owned == owned && e.page == key then { e with w := e.w || wr, count := min 4095 (e.count + 1) } else e }
  | none =>
    if x.fbuf.length < 8 then
      let s := s.modDie d fun x => { x with fbuf := x.fbuf ++ [⟨owned, wr, 1, key⟩] }
      if x.fbuf.isEmpty then s.faultNotice d else s
    else
      let s := s.modDie d fun x => { x with drop := true }
      if x.drop then s else s.faultNotice d

/-- A party parks in a die's pool; the pool holds 4,096. -/
def State.park (s : State) (d : DieId) (p : Party) (owned wr : Bool) (page : Nat) : Option State :=
  if 4096 ≤ (s.die d).parked.length then none
  else
    let s := (s.modDie d fun x => { x with parked := x.parked ++ [p] }).mon d 1
    some (s.listFault d owned wr page)

/-- The requests in a farrier's queue: the first 256 that have come (R253, R259). -/
def State.queue (s : State) (f : FarId) : List FMsg := ((s.far f).reqs.filter fun m => !s.inFab m.uid).take 256

/-! ### Posts to farriers (R199, R316, R320, R321) -/

/-- A request is on its way to a farrier's queue; across packages it travels on the fabric (R398). The queue takes 256 of those that
have arrived; the poster of each other one holds it (`State.queue`, R259). -/
def State.enqueue (s : State) (f : FarId) (src : PkgId) (m : FMsg) : State :=
  let s := s.modFar f fun fr => { fr with reqs := fr.reqs ++ [m] }
  let flow := match m.party with | .far q _ _ => 2 ^ 30 + q | _ => sliceKey (src * 8 + m.die) (m.blk * 64)
  -- a WBK is a plain write-back of the open interval, which the port keeps (R227, R360); a forwarded write is none (R443)
  if src ≠ f % 64 ∧ m.ty = 0x09 then
    let e := fmGet {} (s.pkg src).ivs (f % 64)
    let x : FabPkt := { uid := m.uid, src := src, dst := f % 64, flow := flow, reply := false, body := .wb e.intv }
    (s.modPkg src fun p =>
      { p with ivs := fmSet p.ivs (f % 64) { e with sent := e.sent + 1 }, kept := p.kept ++ [x] }).ship src (f % 64) m.uid flow false (.wb e.intv)
  else s.ship src (f % 64) m.uid flow false .plain

/-- A die (or home slice) of package `at'` posts a suspended access of a requester's die. -/
def State.post (s : State) (at' : PkgId) (q : DieId) (ty : BitVec 6) (blk : Nat) (sup : Bool) (party : Party)
    (g4 g5 : W64) (data : Option Buf) : State :=
  let (id, s) := s.newId
  let r := s.regionOf at' (blk * 64)
  s.enqueue (postFarrier at' (blk * 64)) at'
    { uid := id, ty := ty, blk := blk, region := (r.map (·.1)).getD 0, prot := ((r.map (·.2.prot)).getD 0), sup := sup,
      acc := true, die := q % 8, pkg := q / 8, party := party, g4 := g4, g5 := g5, data := data }

end Sys2Proof.Machine
end

