-- ==== Sys2Proof/Machine/Cache.lean ====
section
/-! DEFINITION. Machine/Cache.lean: loads, stores, replacement and invalidation in the L1 (R196-R200, R211, R213, R218,
R224, R228), and writes at a die's L2 and at the home (R202, R203). -/

namespace Sys2Proof.Machine

/-- The 4-byte words of a line that an aligned access of `n` bytes at `pa` touches. -/
def wordsOf (pa n : Nat) : BitVec 32 :=
  BitVec.ofNat 32 ((2 ^ ((pa % 4 + n + 3) / 4) - 1) * 2 ^ (pa % 128 / 4))

/-- The mask of the bytes a list of writes at `pa` covers in its block. -/
def byteMask (pa : Nat) (bs : List (Option Byte)) : BitVec 64 :=
  BitVec.ofNat 64 (leNat.go bs * 2 ^ (pa % 64))
where leNat.go : List (Option Byte) → Nat
  | [] => 0
  | b :: t => (if b.isSome then 1 else 0) + 2 * leNat.go t

/-- Their data, placed in the block. -/
def byteData (pa : Nat) (bs : List (Option Byte)) : B512 :=
  BitVec.ofNat 512 (leNat (bs.map fun b => b.getD 0) * 2 ^ (8 * (pa % 64)))

/-- Words of a block (16 bits) fully, and partly, covered by a byte mask. -/
def fullWords (m : BitVec 64) : BitVec 16 :=
  BitVec.ofNat 16 (leBits (fun w => m.extractLsb' (4 * w) 4 == 0xF) 16)
where leBits (p : Nat → Bool) (n : Nat) : Nat := ((List.range n).map fun w => if p w then 2 ^ w else 0).sum
def someWords (m : BitVec 64) : BitVec 16 :=
  BitVec.ofNat 16 (fullWords.leBits (fun w => m.extractLsb' (4 * w) 4 != 0) 16)

/-- Word bits of block b in a line's word mask. -/
def lineWords (b : Nat) (w : BitVec 16) : BitVec 32 := if b = 0 then w.setWidth 32 else w.setWidth 32 <<< 16
def blockWords (b : Nat) (w : BitVec 32) : BitVec 16 := (w >>> (16 * (b % 2))).setWidth 16

/-- A word mask of a line as a bit mask of its data. -/
def wordBits (w : BitVec 32) : V1024 :=
  BitVec.ofNat 1024 ((List.range 32).map fun j => if w.getLsbD j then 0xFFFFFFFF * 2 ^ (32 * j) else 0).sum
/-- A word mask as the two-bit writer fields. -/
def writerBits (w : BitVec 32) : BitVec 64 :=
  BitVec.ofNat 64 ((List.range 32).map fun j => if w.getLsbD j then 3 * 4 ^ j else 0).sum
/-- The words a core of the quad wrote. -/
def L1Line.dirtyBy (l : L1Line) (q : Nat) : BitVec 32 :=
  BitVec.ofNat 32 ((List.range 32).map fun j =>
    if l.dirty.getLsbD j && (l.wby >>> (2 * j)).toNat % 4 == q then 2 ^ j else 0).sum
/-- The words a core of the quad stored into last: DIRTY ones, and those that still wait for the rest of their word (R200). -/
def L1Line.heldBy (l : L1Line) (q : Nat) : BitVec 32 :=
  BitVec.ofNat 32 ((List.range 32).map fun j =>
    if (l.dirty.getLsbD j || (l.part >>> (4 * j)).toNat % 16 != 0) && (l.wby >>> (2 * j)).toNat % 4 == q then 2 ^ j else 0).sum
/-- All writer fields naming one core. -/
def writerAll (q : Nat) : BitVec 64 := BitVec.ofNat 64 (q * 0x5555555555555555)

/-- Block b of a line's data. -/
def L1Line.block (l : L1Line) (b : Nat) : B512 := l.data.extractLsb' (512 * (b % 2)) 512
/-- Data placed as block b of a line. -/
def asLine (b : Nat) (x : B512) : V1024 := if b = 0 then x.setWidth 1024 else x.setWidth 1024 <<< 512

/-- A later stamp for the order of use of an L1. -/
def Core.stamp (co : Core) : Nat := (co.l1.map (·.use)).foldl max 0 + 1

/-- The bytes of a mask as bits of a line's data. -/
def byteBits (m : BitVec 128) : V1024 := BitVec.ofNat 1024 (widenMask 128 m.toNat)
/-- All the bytes of a word mask. -/
def wordBytesOf (w : BitVec 32) : BitVec 128 :=
  BitVec.ofNat 128 ((List.range 32).map fun j => if w.getLsbD j then 15 * 16 ^ j else 0).sum
/-- The words in which a line holds stored bytes and is not yet VALID. -/
def L1Line.partWords (l : L1Line) : BitVec 32 :=
  BitVec.ofNat 32 ((List.range 32).map fun j => if (l.part >>> (4 * j)).toNat % 16 ≠ 0 then 2 ^ j else 0).sum

/-- Words not VALID, of those in `w`, take L2's data and become VALID; a word that holds stored bytes keeps them and becomes DIRTY:
the merge of R197. -/
def L1Line.fillWords (w : BitVec 32) (l2 : V1024) (l : L1Line) : L1Line :=
  let new := w &&& ~~~l.valid
  { l with
    data := mergeBits (wordBits new &&& ~~~byteBits l.part) l.data l2, valid := l.valid ||| new,
    dirty := l.dirty ||| (new &&& l.partWords), part := l.part &&& ~~~wordBytesOf new }

/-- Words not VALID of block b are filled; VALID words and an unreleased description stay (R197). -/
def L1Line.fillBlock (b : Nat) (buf : Buf) (tag : BitVec 2) (l : L1Line) : L1Line :=
  let l := l.fillWords (blkWords b) (asLine b buf.data)
  (if l.ddirty.getLsbD b then l else l.setDesc b buf.desc).setTag b tag

/-- A new copy takes every DIRTY word, stored byte and unreleased description of the line's other copies (R213). -/
def L1Line.takeDirty (l o : L1Line) : L1Line :=
  let l :=
    { l with
      data := mergeBits (wordBits o.dirty ||| byteBits o.part) l.data o.data, valid := l.valid ||| o.dirty, dirty := l.dirty ||| o.dirty,
      wby := mergeBits (writerBits (o.dirty ||| o.partWords)) l.wby o.wby, ddirty := l.ddirty ||| o.ddirty, part := l.part ||| o.part }
  let l := if o.ddirty.getLsbD 0 then l.setDesc 0 o.desc0 else l
  if o.ddirty.getLsbD 1 then l.setDesc 1 o.desc1 else l

/-- The line copy that context c hits (R213); `own` is false in another core's slice, where no pin is held (R200). -/
def hitIx (ls : List L1Line) (line : Nat) (c : Fin 8) (own : Bool) : Option Nat :=
  match ls.findIdx? fun l => l.line == line && own && l.pin.getLsbD c.val with
  | some i => some i
  | none => ls.findIdx? fun l => l.line == line && l.pin == 0

/-- A failing reply enters the reply-fault list (R374); entries beyond sixteen wait at the interface. -/
def State.fault (s : State) (k : CoreId) (r : RFault) : State :=
  s.modCore k fun co => { co with rfaults := co.rfaults ++ [r] }

/-- Words whose write failed are dropped from every copy of their line in the L1 of core k: a word that is not DIRTY again is read
afresh (R228). -/
def State.dropClean (s : State) (k : CoreId) (blk : Nat) (w : BitVec 16) : State :=
  let line := blk / 2
  s.modCore (s.l1Core k line) fun co =>
    { co with l1 := (co.l1.map fun l =>
        if l.line = line then { l with valid := l.valid &&& ~~~(lineWords (blk % 2) w &&& ~~~l.dirty) } else l).filter fun l => !l.dead }

/-- A captured or replaced block is written at the L2 of a die (R202, R209): performed, dropped with a fault of the
context that made it happen (R228), or posted as WR. The flag says that it was posted. -/
def State.writeL2 (s : State) (k : CoreId) (c : Fin 8) (user : Bool) (party : Party) (blk : Nat) (mask : BitVec 64)
    (data : B512) (desc : Desc) (typed : Bool) : State × Bool :=
  let d := dieOf k
  match s.regionOf (d / 8) (blk * 64) with
  | none =>
    let (id, s) := s.newId
    ((s.dropClean k blk (someWords mask)).fault k ⟨c, id, user, 0x07, BitVec.ofNat 64 (blk * 64), none, false, none, false⟩, false)
  | some (n, _) =>
    -- while the region is rebound the write waits in its farrier's queue (R350)
    if tagWrites (s.dieTag d blk) && !(s.pkg (d / 8)).rebind.contains n then (s.dieWrite d blk mask data (if typed then some desc else none), false)
    else (s.post (d / 8) d 0x02 blk (!user) party mask 0 (some ⟨data, desc⟩), true)

/-- The DIRTY words, the stored bytes of other words and the description of block b of a line written back for a context (R198, R200,
R217). -/
def State.writeBack (s : State) (k : CoreId) (c : Fin 8) (user : Bool) (l : L1Line) (b : Nat) : State :=
  let mask : BitVec 64 := ((wordBytesOf l.dirty ||| l.part) >>> (64 * b)).setWidth 64
  if mask = 0 ∧ !l.ddirty.getLsbD b then s
  else
    let blk := 2 * l.line + b
    let (id, s) := s.newId
    let (s, posted) := s.writeL2 k c user (.wb k id c user (l.ddirty.getLsbD b)) blk mask (l.block b) (l.desc b) (l.ddirty.getLsbD b)
    if posted then s.modCore k fun co => { co with wbs := co.wbs ++ [(id, blk)] } else s

/-- The words and descriptions of a written-back line are clean in every other copy. -/
def L1Line.cleaned (o l : L1Line) : L1Line :=
  if l.line = o.line then { l with dirty := l.dirty &&& ~~~o.dirty, ddirty := l.ddirty &&& ~~~o.ddirty } else l

/-- Both blocks of the i-th line of an L1 are written back; the line is clean. -/
def State.cleanLine (s : State) (lk : CoreId) (k : CoreId) (c : Fin 8) (user : Bool) (i : Nat) : State :=
  match (s.core lk).l1[i]? with
  | none => s
  | some l =>
    let s := (s.writeBack k c user l 0).writeBack k c user l 1
    s.modCore lk fun co => { co with l1 := co.l1.map l.cleaned }

/-- A block as the core's own accesses see it: with the words and descriptions its releases have captured and not yet
written (R208). -/
def Core.ownView (co : Core) (blk : Nat) (x : Buf) : Buf :=
  co.rels.foldl (fun (x : Buf) (r : Rel) =>
    let x := r.words.foldl (fun (x : Buf) (w : CapWord) =>
      if w.wa / 16 = blk then
        { x with data := mergeBits (0xFFFFFFFF#512 <<< (32 * (w.wa % 16))) x.data (w.val.setWidth 512 <<< (32 * (w.wa % 16))) }
      else x) x
    r.descs.foldl (fun (x : Buf) (d : CapDesc) => if d.blk = blk then { x with desc := d.desc } else x) x) x

/-- The core's own stored bytes and descriptions in a line of its L1, over a block read elsewhere (R200, R208). -/
def State.ownL1 (s : State) (k : CoreId) (blk : Nat) (x : Buf) : Buf :=
  let b := blk % 2
  let lk := s.l1Core k (blk / 2)
  ((s.core lk).l1.filter fun l => l.line == blk / 2).foldl (fun (x : Buf) l =>
    let held := l.heldBy (quadIx k)
    let bits := wordBits (held &&& l.dirty) ||| byteBits (l.part &&& wordBytesOf held)
    { data := (mergeBits bits (asLine b x.data) l.data).extractLsb' (512 * b) 512,
      desc := if l.ddirty.getLsbD b && lk == k then l.desc b else x.desc }) x

/-- What allocation of a way comes to (R198). -/
inductive Alloc where
  | at (i : Nat) (s : State)
  /-- every way is pinned, or holds part of a word: the no-allocate path -/
  | noWay
  /-- a DIRTY line must leave first, and a release is still in the order (R212) -/
  | wait
deriving DecidableEq, Repr

/-- A way for a line in L1 lk, for context c of core k. The new line's descriptions are those of the L2, which answers the sideband
request (R197). A line that still holds part of a word is not replaced. -/
def State.allocL1 (s : State) (lk k : CoreId) (c : Fin 8) (user : Bool) (line : Nat) : Alloc :=
  let co := s.core lk
  let fresh := fun (s : State) =>
    let seen := fun (b : Nat) => ((s.core k).ownView (2 * line + b) (s.dieBuf (dieOf k) (2 * line + b))).desc
    let l : L1Line := { line := line, use := (s.core lk).stamp, desc0 := seen 0, desc1 := seen 1 }
    let l := ((s.core lk).l1.filter fun o => o.line == line).foldl L1Line.takeDirty l
    Alloc.at (s.core lk).l1.length (s.modCore lk fun co => { co with l1 := co.l1 ++ [l] })
  let inSet := fun (l : L1Line) => l.line % 32 == line % 32
  if (co.l1.countP inSet) < 8 then fresh s
  else
    let oldest := fun (p : L1Line → Bool) =>
      let us := (co.l1.filter fun l => inSet l && p l).map (·.use)
      match us with
      | [] => none
      | u :: us => let m := us.foldl min u; co.l1.findIdx? fun l => inSet l && p l && l.use == m
    let dirty := fun (l : L1Line) => l.dirty != 0 || l.ddirty != 0
    match oldest fun l => l.pin == 0 && l.part == 0 && !dirty l with
    | some i => fresh (s.modCore lk fun co => { co with l1 := co.l1.eraseIdx i })
    | none =>
      match oldest fun l => l.pin == 0 && l.part == 0 with
      | some i =>
        if !(s.core k).rels.isEmpty then .wait
        else fresh ((s.cleanLine lk k c user i).modCore lk fun co => { co with l1 := co.l1.eraseIdx i })
      | none => .noWay

def State.modLine (s : State) (k : CoreId) (i : Nat) (f : L1Line → L1Line) : State :=
  s.modCore k fun co => { co with l1 := co.l1.modify i f }

/-- Every copy of a line in L1 lk. -/
def State.modCopies (s : State) (lk : CoreId) (line : Nat) (f : L1Line → L1Line) : State :=
  s.modCore lk fun co => { co with l1 := co.l1.map fun l => if l.line = line then f l else l }

/-- A write-back of this block waits for a farrier (own order, R208). -/
def State.wbPending (s : State) (k : CoreId) (blk : Nat) : Bool := (s.core k).wbs.any fun w => w.2 == blk

/-- An armed window covers a block (R218). -/
def State.armed (s : State) (pa : Nat) : Bool := (s.windowOf pa).isSome

/-! ### Captured stores (R208, R209) -/

/-- A release still in the order has captured an access. -/
def Core.captured (co : Core) (id : Nat) : Bool := co.rels.any fun r => r.scope != 0 && r.caps.contains id

/-- What a store that a release has captured writes in L1 goes to that release (R209): its words `w` of the line, and its
description. -/
def State.lateCapture (s : State) (k : CoreId) (id blk : Nat) (w : BitVec 32) (typed : Bool) : State :=
  let lk := s.l1Core k (blk / 2)
  match (s.core k).rels.find? fun r => r.scope != 0 && r.caps.contains id, (s.core lk).l1.find? fun l => l.line == blk / 2 with
  | some r, some l =>
    let w := w &&& l.dirty
    let ws : List CapWord := ((List.range 32).filter fun j => w.getLsbD j).map fun j =>
      ⟨32 * l.line + j, l.data.extractLsb' (32 * j) 32, l.desc (j / 16)⟩
    let r' : Rel :=
      { r with
        words := ws ++ r.words.filter fun x => ws.all fun y => y.wa != x.wa,
        descs := if typed then ⟨blk, l.desc (blk % 2)⟩ :: r.descs.filter (fun d => d.blk != blk) else r.descs }
    let s := s.modCore k fun co => { co with rels := co.rels.map fun o => if o.id = r.id then r' else o }
    s.modCopies lk (blk / 2) fun l =>
      { l with dirty := l.dirty &&& ~~~w, ddirty := if typed then l.ddirty &&& ~~~(1#2 <<< (blk % 2)) else l.ddirty }
  | _, _ => s

/-- A denied store's words and description leave the releases that captured it (R228). -/
def State.dropCaptured (s : State) (k : CoreId) (id blk : Nat) (w : BitVec 16) (typed : Bool) : State :=
  let drop := fun (r : Rel) =>
    if r.caps.contains id then
      { r with
        words := r.words.filter fun x => !(x.wa / 16 == blk && w.getLsbD (x.wa % 16)),
        descs := if typed then r.descs.filter (fun d => d.blk != blk) else r.descs }
    else r
  s.modCore k fun co => { co with rels := co.rels.map drop }

/-- A store performed at the L2 takes the place of the words its own release captured from earlier stores; words captured by
other releases must leave first (R208). -/
def Core.wordsAhead (co : Core) (id blk : Nat) : Bool :=
  co.rels.any fun r => !r.caps.contains id && r.words.any fun w => w.wa / 16 == blk

/-! ### Loads -/

/-- What an L1 or L2 lookup of a block comes to. -/
inductive Look where
  | got (data : B512) (desc : Desc) (s : State)
  | bad (cause : Cause)
  | owned
  | forbidden
  | wait
deriving DecidableEq, Repr

/-- A region is being rebound, or handed to the host: an access to it waits at its tag (R308, R350). -/
def State.rebinding (s : State) (p : PkgId) (n : Nat) : Bool := (s.pkg p).rebind.contains n

/-- The block read at the L2 of a die, with its checks (R199, R288, R296, R350). -/
def State.readL2 (s : State) (d : DieId) (blk : Nat) : Look :=
  match s.regionOf (d / 8) (blk * 64) with
  | none => .bad 0x07
  | some (n, r) =>
    if r.hostOwned then .owned
    else if s.rebinding (d / 8) n then .wait
    else if !tagReads (s.dieTag d blk) then .forbidden
    else let b := s.dieBuf d blk; .got b.data b.desc s

/-- The same, as core k's own accesses see it (R208). -/
def State.readOwn (s : State) (k : CoreId) (blk : Nat) : Look :=
  match s.readL2 (dieOf k) blk with
  | .got x y s => let b := (s.core k).ownView blk ⟨x, y⟩; .got b.data b.desc s
  | r => r

/-- A load of context c of core k from block `blk`, needing the words `w` of its line (R196-R200, R213). -/
def State.loadL1 (s : State) (k : CoreId) (c : Fin 8) (user : Bool) (blk : Nat) (w : BitVec 32) : Look :=
  let line := blk / 2
  let b := blk % 2
  let lk := s.l1Core k line
  let own := lk == k
  let co := s.core lk
  let pinIt := fun (l : L1Line) => { l with pin := if own then l.pin ||| (1 <<< c.val) else l.pin, use := co.stamp }
  let foreign := fun (l : L1Line) => w &&& (l.dirty ||| l.partWords) &&& ~~~(l.heldBy (quadIx k)) != 0
  let alien := co.l1.any fun l => l.line == line && foreign l
  let hit := hitIx co.l1 line c own
  let there := match hit with
    | some i => match co.l1[i]? with
      | some l => if w &&& ~~~l.valid == 0 && ((own && l.pin.getLsbD c.val) || tagReads (l.tag b)) && !alien then some (i, l)
        else none
      | none => none
    | none => none
  match there with
  | some (i, l) => .got (l.block b) (l.desc b) (s.modLine lk i pinIt)
  | none =>
    if s.wbPending k blk then .wait
    else
      let s := s.perfEv k 0x06 (some c)
      let d := dieOf k
      match s.readOwn k blk with
      | .got data desc s =>
        let plain := fun (s : State) =>
          -- served from L2 without filling; the core's own stored words are seen (R208)
          let x := s.ownL1 k blk ⟨data, desc⟩
          Look.got x.data x.desc (s.perfEv k 0x07 (some c))
        if s.armed (blk * 64) || alien then plain s
        else
          let other := 2 * line + (1 - b)
          let fill := fun (l : L1Line) =>
            let l := l.fillBlock b ⟨data, desc⟩ (s.dieTag d blk)
            let l := match s.readOwn k other with
              | .got x y _ => if s.wbPending k other then l else l.fillBlock (1 - b) ⟨x, y⟩ (s.dieTag d other)
              | _ => l
            pinIt l
          let done := fun (i : Nat) (s : State) =>
            let s := s.modLine lk i fill
            match (s.core lk).l1[i]? with
            | some l => Look.got (l.block b) (l.desc b) s
            | none => Look.wait
          match hit with
          | some i => done i s
          | none => match s.allocL1 lk k c user line with
            | .at i s => done i s
            | .noWay => plain s
            | .wait => .wait
      | r => r

/-! ### Stores -/

/-- How far a store got in the L1 (R197). -/
inductive Put where
  /-- complete -/
  | done (s : State)
  /-- in L1, awaiting its tag -/
  | tag (s : State)
  /-- written through to the L2 -/
  | through
  | wait
deriving DecidableEq, Repr

/-- Bytes stored into a copy (R197): full words and words already VALID become VALID and DIRTY; the bytes of other words wait for
the rest of their word. -/
def L1Line.store (b : Nat) (mask : BitVec 64) (data : B512) (desc : Option Desc) (q : Nat) (l : L1Line) : L1Line :=
  let touched := lineWords b (someWords mask)
  let w := lineWords b (fullWords mask) ||| (touched &&& l.valid)
  let at' : BitVec 128 := mask.setWidth 128 <<< (64 * b)
  let l :=
    { l with
      data := mergeBits (byteBits at') l.data (asLine b data), valid := l.valid ||| w, dirty := l.dirty ||| w,
      wby := mergeBits (writerBits touched) l.wby (writerAll q), part := (l.part ||| at') &&& ~~~wordBytesOf w }
  match desc with
  | some x => { l.setDesc b x with ddirty := l.ddirty ||| (1 <<< b) }
  | none => l

/-- Some stored word is not yet merged. -/
def L1Line.unmerged (b : Nat) (mask : BitVec 64) (l : L1Line) : Bool := lineWords b (someWords mask) &&& ~~~l.valid != 0

/-- A store of context c of core k into a block: every copy of the line is written (R213), or a line is allocated. -/
def State.storeL1 (s : State) (k : CoreId) (c : Fin 8) (user : Bool) (blk : Nat) (mask : BitVec 64) (data : B512)
    (desc : Option Desc) : Put :=
  let line := blk / 2
  let b := blk % 2
  let lk := s.l1Core k line
  let write := fun (s : State) =>
    let s := s.modCopies lk line fun l => { l.store b mask data desc (quadIx k) with use := (s.core lk).stamp }
    let ls := (s.core lk).l1.filter fun l => l.line == line
    if ls.all fun l => tagWrites (l.tag b) && !l.unmerged b mask then Put.done s else .tag s
  if (s.core lk).l1.any fun l => l.line == line then write s
  else match s.allocL1 lk k c user line with
    | .at _ s => write s
    | .noWay => .through
    | .wait => .wait

/-- The words of a store that L2 data completes: each copy takes the rest of its half-written words (R197). -/
def L1Line.merge (b : Nat) (mask : BitVec 64) (l2 : B512) (l : L1Line) : L1Line :=
  l.fillWords (lineWords b (someWords mask)) (asLine b l2)

/-- A denied store leaves L1: every word it wrote is invalidated in every copy; its description is the L2's again (R228). -/
def State.denyStore (s : State) (k : CoreId) (id blk : Nat) (mask : BitVec 64) (typed : Bool) : State :=
  let b := blk % 2
  let w := lineWords b (someWords mask)
  let lk := s.l1Core k (blk / 2)
  let s := s.dropCaptured k id blk (someWords mask) typed
  let seen := ((s.core k).ownView blk (s.dieBuf (dieOf k) blk)).desc
  let s := s.modCopies lk (blk / 2) fun l =>
    let l := { l with valid := l.valid &&& ~~~w, dirty := l.dirty &&& ~~~w, part := l.part &&& ~~~wordBytesOf w }
    if typed then { l.setDesc b seen with ddirty := l.ddirty &&& ~~~(1#2 <<< b) } else l
  s.modCore lk fun co => { co with l1 := co.l1.filter fun l => !l.dead }

/-- What a write-through writes at the L2 besides its own bytes: the rest of each DIRTY word of the L1 that it covers in part, which
becomes clean with it (R224). -/
def State.throughWords (s : State) (k : CoreId) (blk : Nat) (mask : BitVec 64) (data : B512) : BitVec 64 × B512 :=
  let b := blk % 2
  let ls := (s.core (s.l1Core k (blk / 2))).l1.filter fun l => l.line == blk / 2
  ls.foldl (fun (r : BitVec 64 × B512) l =>
    let w := blockWords b (l.dirty &&& lineWords b (someWords mask))
    let more : BitVec 64 := ((wordBytesOf (w.setWidth 32)).setWidth 64) &&& ~~~r.1
    (r.1 ||| more, mergeBits (BitVec.ofNat 512 (widenMask 64 more.toNat)) r.2 (l.block b))) (mask, data)

/-- A write-through updates the L1 copies of its line: its words become VALID, with the rest of the word from `l2`, and clean, and
its description is not DDIRTY (R224). -/
def State.updateL1 (s : State) (k : CoreId) (blk : Nat) (mask : BitVec 64) (data l2 : B512) (desc : Option Desc) : State :=
  let b := blk % 2
  let bm : B512 := BitVec.ofNat 512 (widenMask 64 mask.toNat)
  let w := lineWords b (someWords mask)
  s.modCopies (s.l1Core k (blk / 2)) (blk / 2) fun l =>
    -- a word that still held other stored bytes stays DIRTY
    let w' := w &&& ~~~l.partWords
    let l := l.fillWords w (asLine b l2)
    let l := { l with data := mergeBits (asLine b bm) l.data (asLine b data), dirty := l.dirty &&& ~~~w' }
    match desc with
    | some x => { l.setDesc b x with ddirty := l.ddirty &&& ~~~(1#2 <<< b) }
    | none => l

/-- An atomic's line leaves the L1: DIRTY words written back, every copy invalidated (R217). -/
def State.expelLine (s : State) (k : CoreId) (c : Fin 8) (user : Bool) (line : Nat) : State :=
  let lk := s.l1Core k line
  let s := (List.range (s.core lk).l1.length).foldl (fun s i =>
    match (s.core lk).l1[i]? with
    | some l => if l.line = line then s.cleanLine lk k c user i else s
    | none => s) s
  s.modCore lk fun co => { co with l1 := co.l1.filter fun l => l.line != line }

end Sys2Proof.Machine
end

