-- ==== Sys2Proof/Machine/Access.lean ====
section
/-! DEFINITION. Machine/Access.lean: the life of an access from issue to completion, stage by stage (R207, R212, R217-R219,
R240-R251). -/

namespace Sys2Proof.Machine

/-! ### Order -/

/-- The kinds of an access (R207). -/
def AKind.isLoad : AKind → Bool
  | .ld _ _ | .vld _ _ _ | .vldx _ _ _ | .ldblk _ _ | .ldmeta _ | .fetch | .pref _ => true
  | _ => false
def AKind.isStore : AKind → Bool
  | .st | .vst _ | .vstx _ | .stblk _ | .stmeta _ => true
  | _ => false
def AKind.isAtomic : AKind → Bool
  | .atomic .. | .ablk .. => true
  | _ => false
/-- An access whose reply can raise a flag: `afadd` and `ablk` (R71). -/
def AKind.raises : AKind → Bool
  | .atomic .fadd .. | .ablk .. => true
  | _ => false
/-- A load that raises 0x09 on a poisoned block (R240). -/
def AKind.consumes : AKind → Bool
  | .ld _ _ | .vld _ _ _ | .vldx _ _ _ => true
  | _ => false

def Stage.settled : Stage → Bool | .served => true | .failed _ _ => true | _ => false
def Stage.pa? : Stage → Option Nat
  | .ready pa | .tagReq pa | .susp pa | .suspW pa | .sent pa => some pa
  | _ => none

def State.acc? (s : State) (k : CoreId) (id : Nat) : Option Access := (s.core k).accs.find? fun a => a.id == id
def State.modAcc (s : State) (k : CoreId) (id : Nat) (f : Access → Access) : State :=
  s.modCore k fun co => { co with accs := co.accs.map fun a => if a.id = id then f a else a }
def State.setPart (s : State) (k : CoreId) (id i : Nat) (p : Part) : State :=
  s.modAcc k id fun a => { a with parts := a.parts.set i p }

/-- A request of an access leaves for another package, whose reply will come back from the source `key` there (R398, R399). -/
def State.shipAcc (s : State) (k : CoreId) (id : Nat) (dst : PkgId) (key : Nat) : State :=
  if pkgOf k = dst then s
  else (s.modAcc k id fun a => { a with far := some (dst, key) }).ship (pkgOf k) dst id k false .plain

/-- The releases of a list still in the core's order; with `x`, those that carry the .x qualifier (R212). -/
def Core.pendingRels (co : Core) (rels : List Nat) (x : Bool) : Bool :=
  co.rels.any fun r => rels.contains r.id && (!x || r.x)

/-- The bytes of a translated element at their place in its block, from byte 0 on. -/
def Part.placed (p : Part) : List (Option Byte) :=
  match p.stage.pa? with | some pa => List.replicate (pa % 64) none ++ p.bytes | none => []

/-- Two elements of one context touch one block, or one destination core. -/
def Part.near (p q : Part) : Bool :=
  match p.tgt, q.tgt with
  | .bank j _, .bank l _ => j == l
  | .glob a, .glob b =>
    a.toNat / 64 == b.toNat / 64 ||
    (match p.stage.pa?, q.stage.pa? with | some x, some y => x / 64 == y / 64 | _, _ => false)
  | _, _ => false

/-- A store already in L1 word for word, which only awaits its tag. -/
def State.inL1 (s : State) (k : CoreId) (a : Access) (p : Part) : Bool :=
  a.kind.isStore && match p.stage with
    | .tagReq pa | .susp pa =>
      let ls := (s.core (s.l1Core k (pa / 128))).l1.filter fun l => l.line == pa / 128
      !ls.isEmpty && ls.all fun l => !l.unmerged (pa / 64 % 2) (byteMask pa p.bytes)
    | _ => false

/-- No earlier access of the context to the same block, or the same destination core, is still open (R208, R219), nor a
lower element of its own to the same address (R243). -/
def State.inTurn (s : State) (k : CoreId) (a : Access) (i : Nat) (p : Part) : Bool :=
  ((a.parts.take i).all fun q => q.ea != p.ea || q.stage.settled) &&
  (s.core k).accs.all fun e =>
    e.id ≥ a.id || e.ctx != a.ctx || e.parts.all fun q => q.stage.settled || !p.near q || s.inL1 k e q

/-- Every earlier global store of a fence-strengthened context is performed (R224). -/
def State.storesDone (s : State) (k : CoreId) (a : Access) : Bool :=
  (s.core k).accs.all fun e => e.id ≥ a.id || e.ctx != a.ctx || !e.kind.isStore || e.parts.all fun p =>
    p.stage.settled || (match p.tgt with | .bank _ _ => true | _ => false)

/-- An earlier message of the context to that core has not been accepted (R219). -/
def Core.msgAhead (co : Core) (c : Fin 8) (dst : CoreId) (n : Nat) : Bool :=
  co.retry.any fun o => match o with
    | some r => r.msg.ctx == some c && r.msg.target == dst && decide (r.msg.uid < n) &&
      (match r.st with | .accepted | .frozen => false | _ => true)
    | none => false

/-- An earlier drain of the context whose writes to that core have been sent and are not all performed (R185, R219). -/
def Core.drainAhead (co : Core) (c : Fin 8) (dst : CoreId) (n : Nat) : Bool :=
  co.drains.any fun d => d.ctx == c && d.dst == dst && decide (d.seq < n) && decide (d.performed < d.lines.length)

/-! ### Atomics (R217, R247, R249, R250) -/

/-- The new value of one element and the flags; none where `acas` does not write. -/
def atomNew (op : AtOp) (fl : Bool) (w m c cmp : Nat) : Option Nat × Fl :=
  let minMax := fun (isMax : Bool) =>
    if fl then
      match fminTakesB isMax (decodeFloat fFP32 m) (decodeFloat fFP32 c) with
      | some true => m | some false => c | none => 0x7FC00000
    else if (decide (signExt w m < signExt w c)) != isMax then m else c
  match op with
  | .add =>
    if fl then
      let (v, f1) := valAdd false (decodeFloat fFP32 m) (decodeFloat fFP32 c)
      let (x, f2) := roundTo fFP32 0 0 v
      (some x, f1 ||| f2)
    else (some ((m + c) % 2 ^ w), 0)
  | .and => (some (m &&& c), 0)
  | .or => (some (m ||| c), 0)
  | .xor => (some (m ^^^ c), 0)
  | .min => (some (minMax false), 0)
  | .max => (some (minMax true), 0)
  | .xchg => (some c, 0)
  | .cas => (if m = cmp then some c else none, 0)
  | .fadd =>
    let (v, f1) := valAdd false (decodeFloat fFP32 m) (decodeFloat fFP32 c)
    let (x, f2) := roundTo fFP32 0 0 v
    (some x, f1 ||| f2)

/-- `ablk` on a whole block: each 4-byte element by its operation. -/
def ablkNew (op : AtOp) (fl : Bool) (old x : B512) : B512 × Fl :=
  let es := (List.range 16).map fun e =>
    let (n, f) := atomNew op fl 32 (old.extractLsb' (32 * e) 32).toNat (x.extractLsb' (32 * e) 32).toNat 0
    (n.getD 0, f)
  (BitVec.ofNat 512 (es.zipIdx.map fun e => e.1.1 * 2 ^ (32 * e.2)).sum, es.foldl (fun f e => f ||| e.2) 0)

/-- An atomic on a block with its description: what it leaves (mask, data, description), what it read, its flags; or the
cause it ends in (R249, R250). -/
def atomOn (kind : AKind) (noFmt : Bool) (pa : Nat) (buf : Buf) :
    Except Cause (BitVec 64 × B512 × Option Desc × List Byte × Fl) :=
  if buf.desc.fmt = 0xFF then .error 0x09
  else match kind with
  | .atomic op w _ x cmp =>
    let m := (buf.data.toNat / 2 ^ (8 * (pa % 64))) % 2 ^ w
    let (n, fl) := atomNew op (op == .fadd) w m (x.toNat % 2 ^ w) (cmp.toNat % 2 ^ w)
    let got := leBytes (w / 8) m
    match n with
    | some n => .ok (maskAt (pa % 64) (w / 8), BitVec.ofNat 512 (n * 2 ^ (8 * (pa % 64))), none, got, fl)
    | none => .ok (0, 0, none, got, fl)
  | .ablk op ty _ x =>
    if !noFmt && buf.desc.fmt != 0 && buf.desc.fmt.toNat != ty.toNat then .error 0x11
    else
      let (n, fl) := ablkNew op (ty == 9) buf.data x
      .ok (BitVec.allOnes 64, n, some ⟨ty.setWidth 8, buf.desc.scale⟩, bytesB buf.data, fl)
  | _ => .error 0x01

/-! ### One element, one stage -/

/-- The description a store gives the block of its h-th half (R242-R245). -/
def AKind.desc (kind : AKind) (h : Nat) : Option Desc :=
  match kind with
  | .vst ds => ds[h]?
  | .vstx d | .stblk d | .stmeta d => some d
  | _ => none

/-- A store performed at the bank (R194): data, the descriptions of the halves it writes. -/
def State.bankStore (s : State) (dst off : Nat) (p : Part) (kind : AKind) (remote : Bool) : State :=
  let s := s.bankWrite dst off p.bytes remote
  let halves := if p.bytes.isEmpty then [0] else
    (List.range ((off % 64 + p.bytes.length + 63) / 64)).filter fun h =>
      ((p.bytes.drop (64 * h - off % 64)).take 64).any Option.isSome
  halves.foldl (fun s h =>
    match kind.desc (p.off / 64 + h) with
    | some d => s.modCore dst fun co => co.setLocDesc (off + 64 * h) d
    | none => s) s

/-- A counter whose total is reached fires before a command acts on it (R356, R358). -/
def State.fire (s : State) (h : CtrId) : State :=
  if (s.ctr h).canFire then
    let s := s.modCtr h Arr.fire
    match h with | .loc k _ => s.perfEv k 0x10 none | .glob .. => s
  else s

/-- What `crd` reads of a counter (R366). -/
def Arr.read (a : Arr) (sel : Nat) : W64 :=
  match sel with | 0 => BitVec.ofNat 64 a.count | 1 => a.status | _ => BitVec.ofNat 64 a.total

/-- A core's banks perform no network access from step 2 of pre-emption on (R380). -/
def Core.closed (co : Core) : Bool := decide (2 ≤ co.pre.step)

/-- A write that has come to a core may be performed: it heads the write input queue, or the queue is empty (R255). -/
def Core.takes (co : Core) (ref : WRef) : Bool :=
  !co.closed && match co.wiq with | [] => true | w :: _ => w.ref == ref

/-- A global element of an access that is neither performed nor parked: it may yet park (R261). -/
def Part.unparked (p : Part) : Bool :=
  !p.stage.settled && (match p.stage with | .parked _ => false | _ => true) && (match p.tgt with | .glob _ => true | _ => false)

/-- What a die's pool holds and may yet have to hold: its parked accesses, and the global elements of its cores that are on their
way (R261). -/
def State.poolLoad (s : State) (d : DieId) : Nat :=
  (s.die d).parked.length +
    ((s.cores.filter fun e => dieOf e.1 == d).map fun e => (e.2.accs.map fun a => a.parts.countP Part.unparked).sum).sum

/-- An access parks in its die's pool. A fetch or a bare translation, whose instruction has not issued, takes no place that an
instruction on its way may need (R261, log 67). -/
def State.parkAcc (s : State) (k : CoreId) (a : Access) (i : Nat) (owned wr : Bool) (page : Nat) : Option State :=
  match a.kind with
  | .fetch | .xlate =>
    if 4096 < s.poolLoad (dieOf k) then none else s.park (dieOf k) (.acc k a.id i) owned wr page
  | _ => s.park (dieOf k) (.acc k a.id i) owned wr page

/-- An access of the context stands at its die's full pool: the context issues nothing (R261, log 67). -/
def Core.atPool (co : Core) (c : Fin 8) : Bool :=
  co.accs.any fun a => a.ctx == c && !a.hopped && a.parts.any fun p => match p.stage with | .missed => true | _ => false

/-- An element performed at a bank: a load, store, atomic, counter command or fill-bit command. -/
def State.atBank (s : State) (k : CoreId) (a : Access) (i : Nat) (p : Part) (dst off : Nat) : State :=
  let put := fun (p : Part) (s : State) => s.setPart k a.id i p
  let co := s.core dst
  let frozen := dst != k && co.frozen
  match a.kind with
  | .ldmeta _ =>
    let d := co.locDesc off
    put { p with stage := .served, got := [d.fmt, d.scale, 0] } s
  | .fillBits b n => put { p with stage := .served } (s.modCore dst fun co => co.setFill (off / 128) n b)
  | .cadd h x =>
    if frozen then put { p with stage := .failed 0x08 p.ea } s
    else put { p with stage := .served } (((s.fire h).modCtr h fun a => a.addCount x).fire h)
  | .crd h sel _ =>
    let s := s.fire h
    put { p with stage := .served, got := leBytes 8 ((s.ctr h).read sel).toNat } s
  | kind =>
    if kind.isAtomic then
      if frozen then put { p with stage := .failed 0x08 p.ea } s
      else
        let base := off / 64 * 64
        match atomOn kind false off ⟨blockOf (co.locRead base 64), co.locDesc base⟩ with
        | .error c => put { p with stage := .failed c p.ea } s
        | .ok (mask, data, desc, got, fl) =>
          let s := s.bankWrite dst base (maskedBytes mask data) false
          let s := match desc with | some d => s.modCore dst fun co => co.setLocDesc base d | none => s
          let s := s.modAcc k a.id fun a => { a with flags := a.flags ||| fl }
          put { p with stage := .served, got := got, gotD := co.locDesc base } s
    else if kind.isStore then
      if frozen then put { p with stage := .failed 0x08 p.ea } s
      else put { p with stage := .served } (s.bankStore dst off p kind (dst != k))
    else
      let d := co.locDesc off
      if kind.consumes && d.fmt = 0xFF then put { p with stage := .failed 0x09 p.ea } s
      else put { p with stage := .served, got := co.locRead off p.bytes.length, gotD := d } s

/-- The blocks a farrier supplied for a walk. -/
def Part.supplied (p : Part) (blks : List Nat) : List (Nat × List Byte) :=
  blks.zipIdx.map fun e => (e.1, (p.got.drop (64 * e.2)).take 64)

/-- An ownership fault parks (R296), or finds the pool full (R261). -/
def State.parkOwned (s : State) (k : CoreId) (a : Access) (i : Nat) (p : Part) (wr : Bool) (n : Nat) : State :=
  match s.parkAcc k a i true wr n with
  | some s => (s.setPart k a.id i { p with stage := .parked true }).perfEv k 0x11 (some a.ctx)
  | none => s.setPart k a.id i { p with stage := .missed }

/-- A global load served by L1 or L2 (`fetch` and `ldmeta` by L2 alone, `pref` never suspended). Where the L1 holds several copies of
the line (R213), `ldmeta` reports the first of the list (DESIGN CHOICE, log 81). -/
def State.loadPart (s : State) (k : CoreId) (a : Access) (i : Nat) (p : Part) (pa : Nat) : Option State :=
  let blk := pa / 64
  let d := dieOf k
  let put := fun (p : Part) (s : State) => s.setPart k a.id i p
  let give := fun (data : B512) (desc : Desc) (s : State) =>
    if a.kind.consumes && desc.fmt = 0xFF then put { p with stage := .failed 0x09 p.ea } s
    else put { p with stage := .served, got := ((bytesB data).drop (pa % 64)).take p.bytes.length, gotD := desc } s
  match a.kind with
  | .ldmeta _ =>
    let desc := match (s.core (s.l1Core k (pa / 128))).l1.find? fun l => l.line == pa / 128 with
      | some l => if isHbm pa then l.desc (blk % 2) else s.homeDesc blk
      | none => ((s.core k).ownView blk (if s.diePresent d blk then s.dieBuf d blk else s.homeBuf blk)).desc
    match s.regionOf (d / 8) pa with
    | none => some (put { p with stage := .failed 0x07 p.ea } s)
    | some (n, r) =>
      if r.hostOwned then some (s.parkOwned k a i p false n)
      else some (put { p with stage := .served, got := [desc.fmt, desc.scale, (s.dieTag d blk).setWidth 8] } s)
  | .pref l2 =>
    let lk := s.l1Core k (pa / 128)
    let s' := if l2 || s.armed pa || (s.core lk).l1.any fun l => l.line == pa / 128 then s else
      match s.loadL1 k a.ctx a.user blk (blkWords (blk % 2)) with
      | .got _ _ s' => s'.modCopies lk (pa / 128) fun l => { l with pin := 0 }
      | _ => s
    some (put { p with stage := .served } s')
  | _ =>
    let r := match a.kind with
      | .fetch => s.readL2 d blk
      | _ => s.loadL1 k a.ctx a.user blk (wordsOf pa p.bytes.length)
    match r with
    | .got data desc s => some (give data desc s)
    | .bad c =>
      let s := if a.kind == .fetch then s else s.perfEv k 0x06 (some a.ctx)
      some (put { p with stage := .failed c p.ea } s)
    | .owned => (s.regionOf (d / 8) pa).map fun n => s.parkOwned k a i p false n.1
    | .forbidden =>
      some ((put { p with stage := .susp pa } s).post (d / 8) d 0x00 blk (!a.user) (.acc k a.id i) 0 0 none)
    | .wait => none

/-- The stores of a quad that wait in L1 for the tag of a block: core, access and element, with the bytes each has written. -/
def State.waitingStores (s : State) (lk : CoreId) (blk : Nat) : List (CoreId × Nat × Nat × Part) :=
  ((List.range 4).map (quadCore lk)).flatMap fun j =>
    if s.l1Core j (blk / 2) != lk then [] else
    (s.core j).accs.flatMap fun a => if !a.kind.isStore then [] else a.parts.zipIdx.filterMap fun e =>
      match e.1.stage with
      | .tagReq x | .susp x => if x / 64 == blk then some (j, a.id, e.2, e.1) else none
      | _ => none

/-- A block of an L1 holds nothing but the bytes of stores that wait for their tag: its line was allocated and never filled. -/
def State.unfilled (s : State) (lk : CoreId) (blk : Nat) : Bool :=
  let b := blk % 2
  let mine := (s.waitingStores lk blk).foldl (fun (m : BitVec 64) w => m ||| byteMask (blk * 64) w.2.2.2.placed) 0
  (s.core lk).l1.all fun l => l.line != blk / 2 ||
    (((wordBytesOf (l.valid ||| l.dirty) ||| l.part) >>> (64 * b)).setWidth 64 &&& ~~~mine == 0)

/-- A no-allocate reply to the sideband request of such a block: every store that waits for it leaves the L1 and is written through
(R218). -/
def State.noAllocate (s : State) (lk : CoreId) (blk : Nat) : State :=
  (s.waitingStores lk blk).foldl (fun (s : State) (w : CoreId × Nat × Nat × Part) =>
    let (j, id, i, p) := w
    match p.stage.pa?, s.acc? j id with
    | some pa, some a =>
      ((s.denyStore j id blk (byteMask pa p.bytes) (a.kind.desc (p.off / 64)).isSome).setPart j id i
        { p with stage := .sent pa }).shipAcc j id (homePkg pa) (sliceKey (homeDie pa) pa)
    | _, _ => s) s

/-- A store in L1 takes its tag, format and scale (R197), or its denial (R228). Where an armed window has come to cover a line that
was never filled the answer is a no-allocate reply; a filled line keeps its copy (R218). -/
def State.tagPart (s : State) (k : CoreId) (a : Access) (i : Nat) (p : Part) (pa : Nat) : Option State :=
  let blk := pa / 64
  let d := dieOf k
  let b := blk % 2
  let mask := byteMask pa p.bytes
  let lk := s.l1Core k (pa / 128)
  let put := fun (p : Part) (s : State) => s.setPart k a.id i p
  let there : Bool := (s.core lk).l1.any fun l => l.line == pa / 128
  match s.regionOf (d / 8) pa with
  | none =>
    some (put { p with stage := .failed 0x07 p.ea } (s.denyStore k a.id blk mask (a.kind.desc (p.off / 64)).isSome))
  | some (n, r) =>
    -- the line has been written back, and its bytes with it
    if there = false then some (put { p with stage := .served } s)
    else if s.rebinding (d / 8) n then none
    else if r.hostOwned then some (s.parkOwned k a i p true n)
    else
      let tag := s.dieTag d blk
      let desc := (s.dieBuf d blk).desc
      let s := if s.diePresent d blk then
          s.modCopies lk (pa / 128) fun l =>
            (if l.ddirty.getLsbD b then l else l.setDesc b desc).setTag b tag
        else s
      if s.armed pa && s.unfilled lk blk then some (s.noAllocate lk blk)
      else if !tagWrites tag then
        some ((put { p with stage := .susp pa } s).post (d / 8) d 0x01 blk (!a.user) (.acc k a.id i) 0 0 none)
      else if s.wbPending k blk then none
      else
        let s := s.modCopies lk (pa / 128) (L1Line.merge b mask ((s.core k).ownView blk (s.dieBuf d blk)).data)
        some (put { p with stage := .served }
          (s.lateCapture k a.id blk (lineWords b (someWords mask)) (a.kind.desc (p.off / 64)).isSome))

/-- What a store written through comes to once it is performed: its L1 copies, and the words its own release captured before it,
which are its own from here on (R209, R224). -/
def State.throughDone (s : State) (k : CoreId) (a : Access) (p : Part) (pa : Nat) : State :=
  let blk := pa / 64
  let mask := byteMask pa p.bytes
  let desc := a.kind.desc (p.off / 64)
  let s := s.updateL1 k blk mask (byteData pa p.bytes) (s.dieBuf (dieOf k) blk).data (if isHbm pa then desc else none)
  if (s.core k).captured a.id then s.dropCaptured k a.id blk (fullWords mask) desc.isSome else s

/-- A write-through that is not performed: its words are dropped from L1, and eaddr is the block's physical address (R228). -/
def State.throughFail (s : State) (k : CoreId) (a : Access) (i : Nat) (p : Part) (pa : Nat) (cause : Cause) : State :=
  (s.dropClean k (pa / 64) (someWords (byteMask pa p.bytes))).setPart k a.id i
    { p with stage := .failed cause (BitVec.ofNat 64 (pa / 64 * 64)) }

/-- A store written through: at the home for CXL, host and counted lines, otherwise at the die's L2 (R198, R203, R218,
R222, R224). -/
def State.throughPart (s : State) (k : CoreId) (a : Access) (i : Nat) (p : Part) (pa : Nat) : Option State :=
  let blk := pa / 64
  let d := dieOf k
  let put := fun (p : Part) (s : State) => s.setPart k a.id i p
  let home := !isHbm pa || s.armed pa
  let at' := if home then homeDie pa else d
  let desc := a.kind.desc (p.off / 64)
  let (mask, data) := s.throughWords k blk (byteMask pa p.bytes) (byteData pa p.bytes)
  let co := s.core k
  -- in program order, and behind every release entered before it, unless it is a plain store to a CXL or host home (R208, R212, R224)
  if s.inFab a.id || !s.inTurn k a i p || ((isHbm pa || s.armed pa) && co.pendingRels a.rels false) ||
    (!home && co.wordsAhead a.id blk) then none
  else match s.regionOf (at' / 8) pa with
  | none => some (s.throughFail k a i p pa 0x07)
  | some (n, r) =>
    if s.rebinding (at' / 8) n then none
    else if r.hostOwned then some (s.parkOwned k a i p true n)
    else if s.wbPending k blk then none
    else if tagWrites (s.dieTag at' blk) then
      some (put { p with stage := .served } ((s.dieWrite at' blk mask data desc).throughDone k a p pa))
    else
      some ((put { p with stage := .suspW pa } s).post (at' / 8) at' 0x02 blk (!a.user) (.acc k a.id i) mask 0
        (some ⟨data, desc.getD (s.dieBuf at' blk).desc⟩))

/-- An atomic at its home slice (R217). The block check of R249 is not made for a host-homed block either, which holds no sideband
(R205) as a CXL-homed one does not (DEDUCED, log 79). -/
def State.atomPart (s : State) (k : CoreId) (a : Access) (i : Nat) (p : Part) (pa : Nat) : Option State :=
  let blk := pa / 64
  let h := homeDie pa
  let put := fun (p : Part) (s : State) => s.setPart k a.id i p
  if s.inFab a.id then none
  else match s.regionOf (h / 8) pa with
  | none => some (put { p with stage := .failed 0x07 p.ea } s)
  | some (n, r) =>
    if s.rebinding (h / 8) n then none
    else if r.hostOwned then some (s.parkOwned k a i p true n)
    else if !tagWrites (s.homeTag blk) then
      let (g5, data) := match a.kind with
        | .atomic _ _ _ x _ => (x, none)
        | .ablk _ _ _ x => (0, some ⟨x, {}⟩)
        | _ => (0, none)
      some ((put { p with stage := .susp pa } s).post (h / 8) (dieOf k) 0x03 blk (!a.user) (.acc k a.id i)
        (a.mi.setWidth 64) g5 data)
    else match atomOn a.kind (!isHbm pa) pa (s.homeBuf blk) with
    | .error c => some (put { p with stage := .failed c p.ea } s)
    | .ok (mask, data, desc, got, fl) =>
      let old := s.homeDesc blk
      let s := s.homeWrite blk mask data desc
      some (put { p with stage := .served, got := got, gotD := old } (s.modAcc k a.id fun a => { a with flags := a.flags ||| fl }))

/-- A release still in the order holds words or a description of a line that it has not yet written (R208). -/
def Core.lineAhead (co : Core) (line : Nat) : Bool :=
  co.rels.any fun r => r.words.any (fun w => w.wa / 32 == line) || r.descs.any fun d => d.blk / 2 == line

/-- The L1 holds part of a word of a line. -/
def State.partAt (s : State) (k : CoreId) (line : Nat) : Bool :=
  (s.core (s.l1Core k line)).l1.any fun l => l.line == line && l.part != 0

/-- A translated element: loads and L1 stores are performed; the rest leaves for its slice. -/
def State.readyPart (s : State) (k : CoreId) (a : Access) (i : Nat) (p : Part) (pa : Nat) : Option State :=
  let blk := pa / 64
  let put := fun (p : Part) (s : State) => s.setPart k a.id i p
  let leave := fun (s : State) => (put { p with stage := .sent pa } s).shipAcc k a.id (homePkg pa) (sliceKey (homeDie pa) pa)
  let co := s.core k
  let mask := byteMask pa p.bytes
  let data := byteData pa p.bytes
  let desc := a.kind.desc (p.off / 64)
  match a.kind with
  | .xlate => some (put { p with stage := .served, got := leBytes 8 pa } s)
  | kind =>
    if kind.isLoad then s.loadPart k a i p pa
    else if (match s.regionOf (pkgOf k) pa with | some (_, r) => r.hostOwned | none => false) then
      (s.regionOf (pkgOf k) pa).map fun n => s.parkOwned k a i p true n.1
    else if kind.isAtomic then
      -- words of the line that a release has captured leave first, and a store that has not yet its whole word
      if co.pendingRels a.rels false || co.lineAhead (pa / 128) || s.partAt k (pa / 128) then none
      else
        let s := s.expelLine k a.ctx a.user (pa / 128)
        if s.wbPending k blk || s.wbPending k (blk / 2 * 2 + (1 - blk % 2)) then some s
        else some (leave s)
    else if a.through && !s.storesDone k a then none
    else if !isHbm pa then
      -- a counted store waits for every release before it, a plain one for those with .x (R212)
      if co.pendingRels a.rels (!s.armed pa) then none else some (leave s)
    else
      let lk := s.l1Core k (pa / 128)
      let kept := (s.core lk).l1.any fun l => l.line == pa / 128 && tagWrites (l.tag (blk % 2))
      if s.armed pa && !kept then
        if co.pendingRels a.rels false then none else some (leave s)
      else if a.through then some (put { p with stage := .sent pa } s)
      else match s.storeL1 k a.ctx a.user blk mask data desc with
        | .done s => some (put { p with stage := .served } (s.lateCapture k a.id blk (lineWords (blk % 2) (someWords mask)) desc.isSome))
        | .tag s => some (put { p with stage := .tagReq pa } (s.lateCapture k a.id blk (lineWords (blk % 2) (someWords mask)) desc.isSome))
        | .through => some (put { p with stage := .sent pa } (s.perfEv k 0x07 (some a.ctx)))
        | .wait =>
          -- a captured store cannot wait for its own release: it takes the no-allocate path
          if co.captured a.id then some (put { p with stage := .sent pa } (s.perfEv k 0x07 (some a.ctx))) else none

/-- What an access would park for as the tables stand: an unmapped page in user mode, or a host-owned region (R291, R296); its KIND
and page. -/
def State.poolNeed (s : State) (k : CoreId) (a : Access) (wr : Bool) (va : W64) : Option (Bool × Nat) :=
  match (s.translate k wr (match a.kind with | .fetch => true | _ => false) a.user [] va.toNat).1 with
  | .miss => if a.user then some (false, va.toNat / 2 ^ 16 % 2 ^ 41) else none
  | .owned n => some (true, n)
  | .ok pa => (s.regionOf (pkgOf k) pa).bind fun n => if n.2.hostOwned then some (true, n.1) else none
  | _ => none

/-- What the translation of an element comes to; `blks` are the table blocks that farriers have supplied for its walk. -/
def State.walked (k : CoreId) (a : Access) (i : Nat) (p : Part) (wr : Bool) (blks : List Nat) : Walk × State → Option State
  | (w, s) =>
    let put := fun (p : Part) (s : State) => s.setPart k a.id i p
    match w with
    | .ok pa =>
      if badHome (pkgOf k) pa || !s.reaches (pkgOf k) (homePkg pa) then some (put { p with stage := .failed 0x07 p.ea } s)
      else some (put { p with stage := .ready pa, got := [] } s)
    | .miss => if a.user then some (put { p with stage := .missed, got := [] } s) else some (put { p with stage := .failed 0x06 p.ea } s)
    | .denied => some (put { p with stage := .failed 0x06 p.ea } s)
    | .susp pa =>
      some ((put { p with stage := .walkSusp pa blks } s).post (pkgOf k) (dieOf k) 0x00 (pa / 64) true (.walk k a.id i) 0 0 none)
    | .owned n => match a.kind with
      | .pref _ => some (put { p with stage := .served } s)
      | _ => some (s.parkOwned k a i p wr n)
    | .wait => none

/-- One element moves one stage; none where it must wait. A walk waits for its place among the sixteen of the die (R291). -/
def State.partStep (s : State) (k : CoreId) (a : Access) (i : Nat) (p : Part) : Option State :=
  let put := fun (p : Part) (s : State) => s.setPart k a.id i p
  let wr := !a.kind.isLoad && (match a.kind with | .xlate => false | _ => true)
  match p.tgt, p.stage with
  | _, .served | _, .failed _ _ | _, .parked _ | _, .susp _ | _, .suspW _ | _, .walkSusp _ _ => none
  | .bank dst off, _ =>
    if (s.core k).pendingRels a.rels false || !s.inTurn k a i p || (s.core k).msgAhead a.ctx dst a.id ||
      (s.core k).drainAhead a.ctx dst a.id then none
    else if dst = k then some (s.atBank k a i p dst off)
    else match p.stage with
      | .wait => some ((put { p with stage := .sent 0 } s).shipAcc k a.id (pkgOf dst) dst)
      | _ =>
      if s.inFab a.id || (s.core dst).closed || (!a.kind.isLoad && !(s.core dst).takes (.acc k a.id i)) then none else some (s.atBank k a i p dst off)
  | .glob va, .wait =>
    match s.tlbSeek k wr (a.kind == .fetch) a.user va.toNat with
    | some r => State.walked k a i p wr [] r
    | none => some (put { p with stage := .walk [] } s)
  | .glob va, .walk blks =>
    if blks.isEmpty && s.walkerFull (dieOf k) then none
    else State.walked k a i p wr blks (s.walkAgain k wr (a.kind == .fetch) a.user (p.supplied blks) va.toNat)
  | .glob va, .missed =>
    match a.kind with
    | .pref _ => some (put { p with stage := .served } s)
    | _ => match s.poolNeed k a wr va with
      | some (owned, page) =>
        (s.parkAcc k a i owned wr page).map fun s =>
          (put { p with stage := .parked owned } s).perfEv k 0x11 (some a.ctx)
      | none => some (put { p with stage := .walk [] } s)
  | .glob _, .ready pa => if s.inTurn k a i p then s.readyPart k a i p pa else none
  | .glob _, .tagReq pa => s.tagPart k a i p pa
  | .glob _, .sent pa =>
    match a.kind with
    | .crd .. => if s.inFab a.id then none else some (s.atBank k a i p k 0)
    | .cadd _ _ => if (s.core k).pendingRels a.rels false || s.inFab a.id then none else some (s.atBank k a i p k 0)
    | kind => if kind.isAtomic then s.atomPart k a i p pa else s.throughPart k a i p pa

/-- Move element i of an access, if it can move. -/
def State.movePart (s : State) (k : CoreId) (id i : Nat) : State :=
  match s.acc? k id with
  | none => s
  | some a => match a.parts[i]? with
    | none => s
    | some p => (s.partStep k a i p).getD s

/-- The stage of element i of an access. -/
def State.stageOf (s : State) (k : CoreId) (id i : Nat) : Option Stage :=
  ((s.acc? k id).bind fun a => a.parts[i]?).map (·.stage)

/-- Every element moves as far as it can, at most `n` stages each, in element order. -/
def State.drive (n : Nat) (s : State) (k : CoreId) (id : Nat) : State :=
  match s.acc? k id with
  | none => s
  | some a => (List.range a.parts.length).foldl (fun s i => (List.range n).foldl (fun s _ => s.movePart k id i) s) s

/-! ### Completion (R240) -/

/-- The register image of the parts: enabled bytes at their places, and their mask. -/
def imageOf (ps : List Part) (at' : Nat) : V1024 × V1024 :=
  ps.foldl (fun im p =>
    if p.off / 128 = at' / 128 then
      let sh := 8 * (p.off % 128)
      let mask := BitVec.ofNat 1024 (leNat (p.bytes.map fun b => if b.isSome then 0xFF else 0) * 2 ^ sh)
      (im.1 ||| mask, im.2 ||| (mask &&& BitVec.ofNat 1024 (leNat p.got * 2 ^ sh)))
    else im) (0, 0)

/-- Sign or zero extension of a loaded value by SZ (R241). -/
def extLoad (sz : BitVec 3) (bs : List Byte) : W64 :=
  let n := leNat bs
  if sz.getLsbD 0 then BitVec.ofNat 64 n else BitVec.ofInt 64 (signExt (8 * bs.length) n)

/-- The registers a completed access writes, and the flags of coefficient 0. -/
def Access.writes (a : Access) : List RegWrite :=
  let first := a.parts.headD { ea := 0, tgt := .glob 0, off := 0, bytes := [], stage := .served }
  match a.kind with
  | .ld sz r => [.g r (extLoad sz first.got)]
  | .vld regs zr clear =>
    (clear.flatMap fun r => [RegWrite.v r (BitVec.allOnes 1024) 0, .vs r (BitVec.allOnes 64) 0]) ++
    (regs.zipIdx.map fun e =>
      let im := imageOf a.parts (128 * e.2)
      [RegWrite.v e.1 (if zr then BitVec.allOnes 1024 else im.1) im.2] ++
      (a.parts.filter fun p => p.off / 128 == e.2).map fun p => vsWrite e.1 (p.off % 128 / 64) p.gotD).flatten
  | .vldx r _ zr =>
    let im := imageOf a.parts 0
    [.v r (if zr then BitVec.allOnes 1024 else im.1) im.2]
  | .ldblk r h =>
    let im := imageOf a.parts 0
    [.v r im.1 im.2, vsWrite r (if h then 1 else 0) first.gotD]
  | .ldmeta r | .crd _ _ r => [.g r (BitVec.ofNat 64 (leNat first.got))]
  | .atomic op w (some r) _ _ =>
    [.g r (if op == .fadd then BitVec.ofNat 64 (leNat first.got) else BitVec.ofInt 64 (signExt w (leNat first.got)))]
  | .ablk _ _ (some r) _ =>
    [.v r (BitVec.ofNat 1024 (2 ^ 512 - 1)) (BitVec.ofNat 1024 (leNat first.got)), vsWrite r 0 first.gotD]
  | _ => []

/-- The failure of an access: that of its lowest failing element, where several fail (DESIGN CHOICE, log 80). -/
def Access.failure (a : Access) : Option (Cause × W64) :=
  a.parts.findSome? fun p => match p.stage with | .failed c ea => some (c, ea) | _ => none

/-- An acquire of context c (R211): its pins, and at quad or wider the clean words of unpinned lines (of every slice of a
fused quad); at pod the die's read-only copies of CXL lines (R348). -/
def State.acquire (s : State) (k : CoreId) (c : Fin 8) (scope : Nat) : State :=
  let s := s.modCore k fun co => { co with l1 := l1Unpin (1 <<< c.val) (decide (1 ≤ scope)) co.l1 }
  let s := if (s.core k).fused && 1 ≤ scope then
      (List.range 4).foldl (fun s q => s.modCore (quadCore k q) fun co => { co with l1 := l1Unpin 0 true co.l1 }) s
    else s
  if scope = 4 then
    ((s.die (dieOf k)).l2.filter fun e => (match homeOf (e.1 * 64) with | .cxl _ => true | _ => false) && e.2.tag == 1).foldl
      (fun s e => s.dropCopy (dieOf k) e.1) s
  else s

/-- Where the reply of an access comes from, if from another package (R399). -/
def Access.from (a : Access) (k : CoreId) : Option (PkgId × Nat) :=
  match a.kind with
  | .crd (.glob d sl _) .. | .cadd (.glob d sl _) _ => if d / 8 = pkgOf k then none else some (d / 8, 2 ^ 31 + d * 80 + sl.val)
  | _ => a.far

/-- The packet that brings the reply of an access, or forwards it, in its turn: `n` counts those before it. True once it has arrived
(R25, R399). -/
def State.broughtBy (s : State) (k : CoreId) (a : Access) (n : Nat) (src dst : PkgId) (key : Nat) : Bool × State :=
  if src = dst then (true, s)
  else if a.backs ≤ n then (false, (s.modAcc k a.id fun a => { a with backs := n + 1 }).ship src dst a.id key true .plain)
  else (!s.inFab a.id, s)

/-- The reply of a settled access, on its way from another package. -/
def State.brought (s : State) (k : CoreId) (a : Access) : Bool × State :=
  match a.from k with
  | some (q, key) => s.broughtBy k a 0 q (pkgOf k) key
  | none => (true, s)

/-- An access whose elements are all settled leaves: its registers and flags, or a reply fault (R240, R374); its
acquire (R217); its place in unack. -/
def State.finish (s : State) (k : CoreId) (id : Nat) : State :=
  match s.acc? k id with
  | none => s
  | some a =>
    if a.hopped || !(a.parts.all (·.stage.settled)) then s
    else match s.brought k a with
    | (false, s) => s
    | (true, s) =>
      -- beyond sixteen listed entries a failing reply waits at the interface (R374)
      if a.failure.isSome && decide (16 ≤ (s.core k).rfaults.length) && a.kind != .xlate then s else
      let s := s.modCore k fun co => { co with accs := co.accs.filter fun e => e.id != id }
      let c := a.ctx
      let close := fun (x : Ctx) =>
        { x with flight := x.flight.filterMap fun f =>
            if f.acc = some id then (if f.left = 0 then none else some { f with done := true }) else some f }
      match a.kind with
      | .pref _ => s
      | .xlate => s.modCore k fun co => { co with accs := co.accs ++ [a] }
      | .fetch =>
        match a.failure with
        | some (cause, _) =>
          s.fault k ⟨c, a.id, a.user, cause, a.pc.setWidth 64, none, true, none, false⟩
        | none =>
          let line : IcLine := ⟨a.pc.toNat / 192 * 192, a.user, (a.parts.map (·.got)).flatten⟩
          s.modCore k fun co => { co with ic := (line :: co.ic.filter fun l => l.va != line.va).take 128 }
      | _ =>
        match a.failure with
        | some (cause, ea) =>
          (s.modCtx k c close).fault k ⟨c, a.id, a.user, cause, ea, (if a.counted then some a.id else none), false, none, s.inBundle k (!a.user) a.pc⟩
        | none =>
          let s := s.modCtx k c fun x =>
            (close ((applyWrites a.writes x).raiseFlags (orFlags 0 a.flags))).unpend id
          match a.acq with
          | some sc => s.acquire k c sc.toNat
          | none => s

/-! ### Issue -/

/-- The releases in the core's order, which an ordered access waits for (R212). -/
def Core.relIds (co : Core) : List Nat := co.rels.map (·.id)

/-- A new element. -/
def newPart (ea : W64) (tgt : Tgt) (off : Nat) (bytes : List (Option Byte)) : Part :=
  { ea := ea, tgt := tgt, off := off, bytes := bytes, stage := .wait }

/-- Later accesses wait for an acquire atomic (R217). -/
def State.acqWait (s : State) : Bool := s.myCore.accs.any fun a => a.ctx == s.kc.2 && a.acq.isSome

/-! ### Fill waits (R193, R252) -/

/-- The fill bits of some of these lines are not set, or an earlier `fclr` of the context to one of them is still to be performed
(R193, R252). -/
def Core.fillUnset (co : Core) (c : Fin 8) (lines : List Nat) : Bool :=
  lines.any fun n => !co.fillBit n || co.accs.any fun a => a.ctx == c &&
    match a.kind with
    | .fillBits false m => a.parts.any fun p => !p.stage.settled && (match p.tgt with
      | .bank _ o => decide (o / 128 ≤ n) && decide (n < o / 128 + m)
      | _ => false)
    | _ => false

/-- A `.fw` wait for these lines is open: no cycle since it began has found every bit set, and this one does not (R252). -/
def State.fillOpen (s : State) (lines : List Nat) : Bool :=
  s.myCore.fillUnset s.kc.2 lines && !(match s.me.wait with | .fill l met _ => met && l == lines | _ => false)

/-- The context waits for the fill bits of these lines; every clock looks at them (R252). -/
def State.awaitFill (s : State) (lines : List Nat) (fmt : Option Byte) : State :=
  s.goOn.modMe fun x => { x with wait := .fill lines false fmt }

/-- In this cycle the bits of a waiting context are looked at. -/
def State.pollFill (s : State) (k : CoreId) (c : Fin 8) : State :=
  match (s.ctx k c).wait with
  | .fill l false f => if (s.core k).fillUnset c l then s else s.modCtx k c fun x => { x with wait := .fill l true f }
  | _ => s

end Sys2Proof.Machine
end

