-- ==== Sys2Proof/Machine/Release.lean ====
section
/-! DEFINITION. Machine/Release.lean: releases and the release engine (R209, R210, R227), what a farrier's settlement does
to a suspended party (R330), and the end of an activation (R20, R256). -/

namespace Sys2Proof.Machine

/-! ### Releases (R209) -/

/-- The DIRTY words a release of the core with index q captures from one copy. -/
def L1Line.capture (q : Nat) (l : L1Line) : List CapWord :=
  ((List.range 32).filter fun j => (l.dirtyBy q).getLsbD j).map fun j =>
    ⟨32 * l.line + j, l.data.extractLsb' (32 * j) 32, l.desc (j / 16)⟩

/-- The DDIRTY descriptions it captures: of its own L1, and of blocks in which it wrote a DIRTY word. -/
def L1Line.captureDesc (q : Nat) (own : Bool) (l : L1Line) : List CapDesc :=
  ((List.range 2).filter fun b => l.ddirty.getLsbD b && (own || l.dirtyBy q &&& blkWords b != 0)).map fun b =>
    ⟨2 * l.line + b, l.desc b⟩

/-- What the capture leaves in a copy: those words and descriptions clean. -/
def L1Line.afterCapture (q : Nat) (own : Bool) (l : L1Line) : L1Line :=
  let ds := l.captureDesc q own
  { l with
    dirty := l.dirty &&& ~~~(l.dirtyBy q),
    ddirty := BitVec.ofNat 2 ((List.range 2).map fun b =>
      if l.ddirty.getLsbD b && !(ds.any fun d => d.blk == 2 * l.line + b) then 2 ^ b else 0).sum }

/-- The cores whose L1 may hold words of core k (R200). -/
def State.l1Group (s : State) (k : CoreId) : List CoreId :=
  if (s.core k).fused then (List.range 4).map (quadCore k) else [k]

/-- Words without a second for the same address. -/
def firstWords (ws : List CapWord) : List CapWord :=
  ws.foldl (fun r w => if r.any fun x => x.wa == w.wa then r else r ++ [w]) []
def firstDescs (ws : List CapDesc) : List CapDesc :=
  ws.foldl (fun r w => if r.any fun x => x.blk == w.blk then r else r ++ [w]) []

/-- Release(s, x) of context c enters the order with what it captures; none when the order is full. -/
def State.capture (s : State) (k : CoreId) (c : Fin 8) (scope : Nat) (x : Bool) : Option (Nat × State) :=
  let co := s.core k
  if 16 ≤ co.rels.length then none
  else
    let q := quadIx k
    let group := if scope = 0 then [] else s.l1Group k
    let words := group.flatMap fun j => (s.core j).l1.flatMap (L1Line.capture q)
    let descs := group.flatMap fun j => (s.core j).l1.flatMap (L1Line.captureDesc q (j == k))
    let (id, s) := s.newId
    let me := s.ctx k c
    let r : Rel :=
      { id := id, ctx := c, user := !me.sup, scope := BitVec.ofNat 3 scope, x := x, caps := me.pend ++ co.wbs.map (·.1),
        words := firstWords words, descs := firstDescs descs, pc := me.hart.pc }
    let s := group.foldl (fun s j => s.modCore j fun co =>
      { co with l1 := co.l1.map (L1Line.afterCapture q (j == k)) }) s
    some (id, s.modCore k fun co => { co with rels := co.rels ++ [r] })

def State.modRel (s : State) (k : CoreId) (id : Nat) (f : Rel → Rel) : State :=
  s.modCore k fun co => { co with rels := co.rels.map fun r => if r.id = id then f r else r }

/-- The words and description of a block leave a release. -/
def Rel.without (blk : Nat) (r : Rel) : Rel :=
  { r with
    words := r.words.filter fun w => w.wa / 16 != blk, descs := r.descs.filter fun d => d.blk != blk,
    posted := r.posted.erase blk }

/-- Each captured block is written at the die's L2, or posted as WR and awaited. -/
def State.writeCaps (s : State) (k : CoreId) (r : Rel) : State :=
  let blks : List Nat := (r.words.map (fun w : CapWord => w.wa / 16) ++ r.descs.map (fun d : CapDesc => d.blk)).eraseDups.filter fun b =>
    !r.posted.contains b
  blks.foldl (fun (s : State) (blk : Nat) =>
    let ws := r.words.filter fun w => w.wa / 16 == blk
    let typed := r.descs.find? fun d => d.blk == blk
    let mask : BitVec 64 := BitVec.ofNat 64 (ws.map fun w => 15 * 16 ^ (w.wa % 16)).sum
    let data : B512 := BitVec.ofNat 512 (ws.map fun w => w.val.toNat * 2 ^ (32 * (w.wa % 16))).sum
    let desc := match typed with | some d => d.desc | none => ((ws.head?).map (·.desc)).getD {}
    let (s, posted) := s.writeL2 k r.ctx r.user (.rel k r.id blk) blk mask data desc typed.isSome
    s.modRel k r.id fun r => if posted then { r with posted := r.posted ++ [blk] } else r.without blk) s

/-- A captured access, drain, message or write-back is not yet performed. -/
def State.capLive (s : State) (k : CoreId) (id : Nat) : Bool :=
  let co := s.core k
  co.accs.any (fun a => a.id == id) || co.wbs.any (fun w => w.1 == id) || co.anvil.any (fun e => e.id == id) ||
  co.anvRun.any (fun e => e.1.id == id) || co.drains.any (fun d => d.id == id) ||
  co.retry.any (fun o => match o with | some r => r.msg.uid == id | none => false) ||
  s.rets.any (fun r => r.n == id) || s.recs.any (fun r => r.n == id)

/-- The closes of an interval leave, one in each flow that carried its write-backs, behind them (R398, log 96). -/
def State.shipCloses (s : State) (p q : PkgId) (iv : BitVec 32) : State :=
  let flows := (((s.pkg p).kept.filter fun x => x.dst == q && x.body == .wb iv).map (·.flow)).eraseDups
  flows.foldl (fun (s : State) w => let (n, s) := s.newId; s.ship p q n w false (.close iv)) s

/-- A pod-scope release closes the open interval of each destination its package sent to (R227, R360). -/
def State.closeIntervals (s : State) (k : CoreId) (id : Nat) : State :=
  let p := pkgOf k
  let ended := (s.pkg p).ivs.filterMap fun e => if e.2.sent = 0 then none else some (e.1, e.2.intv)
  let s := s.modPkg p fun x =>
    { x with ivs := x.ivs.map fun e =>
        if e.2.sent = 0 then e
        else (e.1, { e.2 with
          intv := e.2.intv + 1, sent := 0, closed := e.2.closed ++ [(e.2.intv, e.2.sent)] }) }
  let s := ended.foldl (fun (s : State) e => s.shipCloses p e.1 e.2) s
  let open' := (s.pkg p).ivs.flatMap fun e => e.2.closed.map fun c => (e.1, c.1)
  s.modRel k id fun r => { r with closed := true, ivs := open' }

/-- A packet of an interval, or its answer, is under way. -/
def State.ivMoving (s : State) (p q : PkgId) (iv : BitVec 32) : Bool :=
  s.fab.any fun x => (x.src == p && x.dst == q && (x.body == .wb iv || x.body == .close iv)) ||
    (x.src == q && x.dst == p && x.body == .answer iv)

/-- The kept write-backs of an interval are sent again, with its closes: the destination counts from 0 (R227, log 17). -/
def State.sendInterval (s : State) (p q : PkgId) (iv : BitVec 32) : State :=
  let s := s.modPkg q fun x => let e := fmGet {} x.ivs p
    { x with ivs := fmSet x.ivs p { e with rcvd := e.rcvd.filter fun c => c.1 != iv } }
  let s := ((s.pkg p).kept.filter fun x => x.dst == q && x.body == .wb iv).foldl
    (fun (s : State) x => s.ship p q x.uid x.flow false (.wb iv)) s
  s.shipCloses p q iv

/-- `eret` to a releasing instruction that took 0x0D: its intervals are sent again (R227). -/
def State.sendAgain (s : State) (k : CoreId) (c : Fin 8) (pc : PcW) : State :=
  let p := pkgOf k
  let ivs := ((s.core k).rels.filter fun r => r.failed && r.ctx == c && r.pc == pc).flatMap (·.ivs)
  ivs.foldl (fun (s : State) e =>
    let s := if s.ivMoving p e.1 e.2 then s else s.sendInterval p e.1 e.2
    { s with cores := s.cores.map fun (j : Nat × Core) => if pkgOf j.1 = p then
        (j.1, { j.2 with rels := j.2.rels.map fun r => if r.ivs.contains e then { r with failed := false } else r }) else j }) s

/-- A captured store has still to reach the L1: the release's words are not yet complete. -/
def Core.landing (co : Core) (r : Rel) : Bool :=
  r.scope != 0 && co.accs.any fun a => r.caps.contains a.id && a.kind.isStore && !a.through && a.parts.any fun p =>
    match p.tgt, p.stage with
    | .bank _ _, _ | _, .sent _ | _, .served | _, .failed _ _ => false
    | _, .ready pa | _, .tagReq pa | _, .susp pa | _, .suspW pa => isHbm pa
    | _, _ => true

/-- The release engine works on the head of the order: it writes, closes intervals and completes (R209). -/
def State.relStep (s : State) (k : CoreId) : State :=
  match (s.core k).rels.head? with
  | none => s
  | some r =>
    let s := if (s.core k).landing r then s else s.writeCaps k r
    match (s.core k).rels.head? with
    | none => s
    | some r =>
      if !r.words.isEmpty || !r.descs.isEmpty || !r.posted.isEmpty || r.caps.any (s.capLive k) then s
      else
        let s := if r.scope = 4 && !r.closed then s.closeIntervals k r.id else s
        match (s.core k).rels.head? with
        | some r => if r.ivs.isEmpty && !r.failed then s.modCore k fun co => { co with rels := co.rels.tail } else s
        | none => s

/-- The engine goes as far as it can. -/
def State.pumpRels (s : State) (k : CoreId) : State := (List.range 16).foldl (fun s _ => s.relStep k) s

/-- A release entered, prompt if the choice says so. -/
def State.release (s : State) (k : CoreId) (c : Fin 8) (scope : Nat) (x : Bool) : Option (Nat × State) :=
  (s.capture k c scope x).map fun r =>
    let (l, s) := r.2.popLag
    (r.1, if l = 0 then s.pumpRels k else s)

/-- A release is still in the order. -/
def State.relOpen (s : State) (k : CoreId) (id : Nat) : Bool := (s.core k).rels.any fun r => r.id == id

/-! ### Issue of an access -/

/-- A store of a fence-strengthened context is a release of itself at die scope: it takes its place in the release order (R209, R224). -/
def State.throughRel (s : State) (k : CoreId) (a : Access) : State :=
  if a.through && a.kind.isStore && a.parts.any (fun p => !p.stage.settled && (match p.tgt with | .glob _ => true | _ => false)) then
    let (id, s) := s.newId
    s.modCore k fun co =>
      { co with rels := co.rels ++
          [{ id := id, ctx := a.ctx, user := a.user, scope := 2, x := false, caps := [a.id], words := [], descs := [], pc := a.pc }] }
  else s

/-- Whether an element stands before its translation, or at or in the pool (R261). -/
def Stage.untranslated : Stage → Bool
  | .wait | .walk _ | .walkSusp _ _ | .missed | .parked _ => true
  | _ => false

/-- An access enters the core; prompt (choice 0) it goes as far as it can at once; `flight` says that it completes later as an
instruction. While its die's pool has no room for every element that may yet park, an access goes prompt, and one that is not
translated at once is held without effect (R261, log 67). -/
def launch (i : Instr) (f : Fields) (kind : AKind) (parts : List Part) (counted flight : Bool) (acq : Option (BitVec 3))
    (rels : List Nat) (s0 : State) : Res :=
  let (k, c) := s0.kc
  let x := s0.ctx k c
  let (id, s) := s0.newId
  let a : Access :=
    { id := id, ctx := c, user := !x.sup, kind := kind, parts := parts, pc := x.hart.pc,
      rels := rels, counted := counted, acq := acq, through := x.mmrev == 1, mi := f.mi }
  let tight := (match kind with | .pref _ => false | _ => true) && parts.any Part.unparked &&
    decide (4096 < s0.poolLoad (dieOf k) + parts.countP Part.unparked)
  if a.through && kind.isStore && decide (16 ≤ (s0.core k).rels.length) then .hold s0 else
  let s := (s.modCore k fun co => { co with accs := co.accs ++ [a] }).throughRel k a
  let s := if counted then s.modCtx k c fun x => { x with pend := x.pend ++ [id] } else s
  let (l, s) := s.popLag
  let s := if l = 0 || tight then s.drive 6 k id else s
  let open' := match s.acc? k id with
    | some a => a.parts.any fun p => (match p.tgt with | .glob _ => true | _ => false) && p.stage.untranslated
    | none => false
  if tight && open' then .hold s0 else
  let s := if l = 0 then s.finish k id else s
  let s := if l = 0 && a.through && kind.isStore then s.pumpRels k else s
  let win : Flight :=
    { id := id, pc := x.hart.pc, left := f.hd.look.toNat, dests := writesOf x.jord.toNat i f,
      raises := kind.raises, acc := some id }
  let offs := if kind.isLoad then [] else parts.flatMap fun p => match p.tgt with
    | .bank j o => if j = k then writtenOffs o p.bytes else []
    | _ => []
  match lkRows x offs with
  | some p => .trap 0x04 (p.setWidth 64)
  | none =>
  match s.acc? k id with
  | some _ => .ok s (if flight then [win] else [])
  | none => .ok s (if flight && f.hd.look != 0 then [{ win with done := true }] else [])

/-! ### Settling a suspended party (R228, R330) -/

/-- Why a farrier ends an access. -/
inductive Verdict where
  | res
  | sat (buf : Buf) (g5 : W64)
  | deny
deriving DecidableEq, Repr

/-- The L1 miss of a load that was suspended is counted as its L2 read ends (R361). -/
def State.missed (s : State) (k : CoreId) (a : Access) : State :=
  if a.kind.isLoad && a.kind != .fetch then s.perfEv k 0x06 (some a.ctx) else s

/-- What a settled element becomes. A load satisfied by `fdone.sat` takes what the farrier gave, under the core's own stores; no copy
is installed, and the value is not held stable for the phase (R330, R346; R214 does not list it: DESIGN CHOICE, log 89). A store so
satisfied completes as if the tag were writable: the rest of its words comes from the L2 (R197). -/
def State.settlePart (s : State) (k : CoreId) (id i : Nat) (v : Verdict) : State :=
  match s.acc? k id with
  | none => s
  | some a => match a.parts[i]? with
    | none => s
    | some p => match p.stage with
      | .suspW pa =>
        match v with
        | .res => s.setPart k id i { p with stage := .sent pa }
        | .deny => s.throughFail k a i p pa 0x14
        | .sat _ _ => (s.throughDone k a p pa).setPart k id i { p with stage := .served }
      | .susp pa =>
        let mask := byteMask pa p.bytes
        let typed := (a.kind.desc (p.off / 64)).isSome
        let l1Store := a.kind.isStore && (s.core (s.l1Core k (pa / 128))).l1.any fun l => l.line == pa / 128
        match v with
        | .res =>
          let st := if a.kind.isLoad then Stage.ready pa else if a.kind.isStore then .tagReq pa else .sent pa
          s.setPart k id i { p with stage := st }
        | .deny =>
          let s := if l1Store then s.denyStore k a.id (pa / 64) mask typed else s.missed k a
          s.setPart k id i { p with stage := .failed 0x14 p.ea }
        | .sat buf g5 =>
          let s := s.missed k a
          let buf := if a.kind.isAtomic then buf
            else if a.kind == .fetch then (s.core k).ownView (pa / 64) buf
            else s.ownL1 k (pa / 64) ((s.core k).ownView (pa / 64) buf)
          let got := match a.kind with
            | .atomic _ w _ _ _ => leBytes (w / 8) g5.toNat
            | .ablk .. => bytesB buf.data
            | _ => ((bytesB buf.data).drop (pa % 64)).take p.bytes.length
          let s := if l1Store then
              (s.modCopies (s.l1Core k (pa / 128)) (pa / 128) (L1Line.merge (pa / 64 % 2) mask
                ((s.core k).ownView (pa / 64) (s.dieBuf (dieOf k) (pa / 64))).data)).lateCapture k a.id (pa / 64)
                (lineWords (pa / 64 % 2) (someWords mask)) typed
            else s
          let bad := a.kind.consumes && buf.desc.fmt = 0xFF
          s.setPart k id i
            { p with stage := if bad then .failed 0x09 p.ea else .served, got := got, gotD := buf.desc }
      | _ => s

/-- The settlement of a walk's read: walked again, with the block supplied, or denied as a translation (R291). -/
def State.settleWalk (s : State) (k : CoreId) (id i : Nat) (v : Verdict) : State :=
  match s.acc? k id with
  | none => s
  | some a => match a.parts[i]? with
    | none => s
    | some p => match p.stage with
      | .walkSusp pa blks =>
        s.setPart k id i (match v with
          | .res => { p with stage := .walk blks }
          | .sat buf _ => { p with stage := .walk (blks ++ [pa / 64]), got := p.got ++ bytesB buf.data }
          | .deny => { p with stage := .failed 0x06 p.ea })
      | _ => s

/-- The settlement of a release's or a write-back's WR (R228). -/
def State.settleWrite (s : State) (m : FMsg) (v : Verdict) : State :=
  let gone := fun (k : CoreId) (c : Fin 8) (user : Bool) (s : State) =>
    let (id, s) := s.newId
    s.fault k ⟨c, id, user, 0x14, BitVec.ofNat 64 (m.blk * 64), none, false, none, false⟩
  match m.party with
  | .rel k id blk =>
    match (s.core k).rels.find? fun r => r.id == id with
    | none => s
    | some r => match v with
      | .res => s.modRel k id fun r => { r with posted := r.posted.erase blk }
      | .sat _ _ => s.modRel k id (Rel.without blk)
      | .deny =>
        let ws := (r.words.filter fun w => w.wa / 16 == blk).map fun w => 2 ^ (w.wa % 16)
        gone k r.ctx r.user ((s.modRel k id (Rel.without blk)).dropClean k blk (BitVec.ofNat 16 ws.sum))
  | .wb k id c user typed =>
    let drop := fun (s : State) => s.modCore k fun co => { co with wbs := co.wbs.filter fun w => w.1 != id }
    match v with
    | .sat _ _ => drop s
    | .deny =>
      -- a write-back that a job left behind ends with no context to tell
      if (s.core k).wbs.all fun w => w.1 != id then s else gone k c user ((drop s).dropClean k m.blk (someWords m.g4))
    | .res =>
      -- checked again under the tag then held
      let buf := m.data.getD {}
      let (s, posted) := s.writeL2 k c user m.party m.blk m.g4 buf.data buf.desc typed
      if posted then s else drop s
  | _ => s

/-! ### Queue fences (R220, R284) -/

/-- An entry placed before a fence point is not yet performed in a queue the point names. -/
def Core.fenceOpen (co : Core) (x : Ctx) (p : FencePt) : Bool :=
  p.before.any fun id =>
    (p.anvil && (co.anvil.any (fun e => e.id == id) || (match co.anvRun with | some e => e.1.id == id | none => false))) ||
    (p.dray && (co.dray.any (fun e => e.id == id) || (match co.drayRun with | some e => e.id == id | none => false))) ||
    (p.st && x.pend.contains id)

/-- A fence point of context c holds back an entry of a queue it names. -/
def Core.fenced (co : Core) (c : Fin 8) (names : FencePt → Bool) (id : Nat) : Bool :=
  co.ctxs[c].fences.any fun p => names p && !p.before.contains id && co.fenceOpen co.ctxs[c] p

/-- A store to the core's own local memory issued before an engine command is not yet performed (R221). -/
def Core.storesOpen (co : Core) (k : CoreId) (id : Nat) : Bool :=
  co.accs.any fun a => decide (a.id < id) && !a.kind.isLoad && a.parts.any fun p =>
    !p.stage.settled && (match p.tgt with | .bank j _ => j == k | _ => false)

/-- An access of the store stream finds its context not ready: a fence point (R284), or an unack count of 0xFFFF (R68). -/
def storeFence (s : State) : Bool :=
  !s.onFarrier && (s.myCore.fenced s.kc.2 (·.st) 0 || decide (0xFFFF ≤ s.me.pend.length))

/-! ### The end of an activation (R20, R122, R256) -/

/-- An anvil command that can raise a flag (R71). -/
def AnvOp.raises : AnvOp → Bool
  | .amma .. | .ascale .. | .adrain .. => true
  | _ => false

/-- The engines still have an entry of a context (R20, R121). -/
def Core.engineBusy (co : Core) (c : Fin 8) : Bool :=
  co.anvil.any (fun e => e.ctx == c) || (match co.anvRun with | some e => e.1.ctx == c | none => false) ||
  co.dray.any (fun d => d.ctx == c) ||
  (match co.drayRun with | some d => d.ctx == c | none => false) || co.drayOut.any fun d => d.ctx == c

/-- A dray command of a context has stopped, and its fault has not reached the list (R273). -/
def Core.drayFailed (co : Core) (c : Fin 8) : Bool := co.drayBad.any fun b => b.ctx == c

/-- Nothing of an ending activation is open. -/
def State.quiet (s : State) (k : CoreId) (c : Fin 8) (rel : Nat) : Bool :=
  let co := s.core k
  !s.relOpen k rel && !co.engineBusy c && (s.ctx k c).pend.isEmpty && co.accs.all (fun a => a.ctx != c || a.hopped) &&
  co.rfaults.all (fun r => r.ctx != c) && !co.drayFailed c

/-- A number whose failure stands in the reply-fault list: its access is complete, and its unack count waits for the trap
(R228). -/
def Core.failedPend (co : Core) (c : Fin 8) (id : Nat) : Bool := co.rfaults.any fun r => r.ctx == c && r.uid == some id

/-- What a double-faulted activation had issued is complete: accesses, engine entries, messages (R20, R372). -/
def State.ended (s : State) (k : CoreId) (c : Fin 8) : Bool :=
  let co := s.core k
  !co.engineBusy c && (s.ctx k c).pend.all (co.failedPend c) && co.accs.all fun a => a.ctx != c || a.hopped

/-- The cycle in which a `done` or `halt` with S ends its wait moves the context to the end of the age order, after any issue of
that cycle (R263). -/
def State.endMove (s : State) (k : CoreId) (c : Fin 8) : State := if (s.ctx k c).swEnd then s.moveLater k c else s

/-- `done`, `halt` or a double fault completes: the context frees, or is discarded (R20, R122, R372). -/
def State.endCtx (s : State) (k : CoreId) (c : Fin 8) : State :=
  match (s.ctx k c).wait with
  | .finish 0 =>
    if s.ended k c then (s.modCore k fun co => { co with rfaults := co.rfaults.filter fun r => r.ctx != c }).freeCtx k c
    else s
  | .finish r => if s.quiet k c r then (s.endMove k c).freeCtx k c else s
  | .halting r =>
    if s.quiet k c r then
      (((s.endMove k c).clearCtx k c).modCtx k c fun x => { x with pool := .discarded }).modCore k fun co => { co with halted := true }
    else s
  | _ => s

end Sys2Proof.Machine
end

