-- ==== Sys2Proof/Machine/Series.lean ====
section
/-! DEFINITION. Machine/Series.lean: elements of vector registers (R79, R126-R128), exact values with flags, the special
functions (R133-R135) and the series rules (R154-R163). At order 0 a rule is the order-0 effect of the instruction. -/

namespace Sys2Proof.Machine

/-! ### Elements -/

/-- Element e of width w bits. -/
def elemAt (x : V1024) (w e : Nat) : Nat := x.toNat / 2 ^ (w * e) % 2 ^ w
/-- Enabled(k, e, w) (R126): the mask bit of the byte that holds the element. -/
def enabled (mask : BitVec 128) (w e : Nat) : Bool := mask.getLsbD (e * w / 8)
/-- The bits of the elements listed, and their values. -/
def elemImage (w : Nat) (es : List (Nat × Nat)) : V1024 × V1024 :=
  (BitVec.ofNat 1024 (es.map fun e => (2 ^ w - 1) * 2 ^ (w * e.1)).sum,
   BitVec.ofNat 1024 (es.map fun e => e.2 * 2 ^ (w * e.1)).sum)
/-- The masked write of elements (R128): with ZR, every other bit of the elements 0 to n-1 is zero. -/
def elemWrite (r : Fin 32) (w : Nat) (zr : Bool) (es : List (Nat × Nat)) : RegWrite :=
  let im := elemImage w es
  .v r (if zr then BitVec.allOnes 1024 else im.1) im.2

/-! ### Values with flags -/

/-- A value and the flags raised on the way to it. -/
abbrev FV := Val × Fl

def fvAdd (rdn : Bool) (x y : FV) : FV := let r := valAdd rdn x.1 y.1; (r.1, x.2 ||| y.2 ||| r.2)
def fvNeg (x : FV) : FV := (valNeg x.1, x.2)
def fvSub (rdn : Bool) (x y : FV) : FV := fvAdd rdn x (fvNeg y)
def fvMul (x y : FV) : FV := let r := valMul x.1 y.1; (r.1, x.2 ||| y.2 ||| r.2)
def fvDiv (x y : FV) : FV := let r := valDiv x.1 y.1; (r.1, x.2 ||| y.2 ||| r.2)
def fvSqrt (x : FV) : FV := let r := valSqrt x.1; (r.1, x.2 ||| r.2)
def fvInt (n : Int) : FV := (intVal n, 0)

/-- How a lane rounds: type, effective code, the draw of each coefficient. -/
structure Rnd where
  t    : Nat
  m    : Nat
  draw : Nat → Nat

/-- mi of R154. -/
def Rnd.mi (r : Rnd) : Nat := if r.m = 5 then 0 else r.m
/-- Exact zero sums are −0 (R80). -/
def Rnd.rdn (r : Rnd) : Bool := r.m == 3
/-- A coefficient as read from T. -/
def Rnd.val (r : Rnd) (code : Nat) : FV := (decodeFloat (floatFmt r.t) code, 0)
/-- St (R154). -/
def Rnd.st (r : Rnd) (x : FV) : FV := let y := roundTo fFP32 r.mi 0 x.1; (decodeFloat fFP32 y.1, x.2 ||| y.2)
/-- Fin for coefficient n (R154). -/
def Rnd.fin (r : Rnd) (n : Nat) (x : FV) : Nat × Fl :=
  let y := roundTo (floatFmt r.t) r.m (r.draw n) x.1; (y.1, x.2 ||| y.2)
/-- Chain (R154). -/
def Rnd.chain (r : Rnd) (x0 : FV) (ts : List FV) : FV := ts.foldl (fun acc t => fvAdd r.rdn (r.st acc) t) x0
/-- Chain of a list, unrounded where it has one term. -/
def Rnd.chainL (r : Rnd) (ts : List FV) : FV := match ts with | [] => (.zero false, 0) | x :: ts => r.chain x ts

/-! ### Special functions (R133-R135) -/

/-- The functions with an internal value. -/
inductive SpFn where
  | rcp | rsq | exp | log | sin | cos | tanh | sigm
deriving DecidableEq, Repr

def SpFn.num : SpFn → Nat
  | .rcp => 0 | .rsq => 1 | .exp => 2 | .log => 3 | .sin => 4 | .cos => 5 | .tanh => 6 | .sigm => 7

/-- A special result, with the only flags it raises, or an internal value to be rounded inexact. -/
inductive SpVal where
  | exact (v : Val) (fl : Fl)
  | near (v : Val)
deriving DecidableEq, Repr

def halfVal : Val := .fin false 1 2

/-- A nonzero fraction is representable in a format. -/
def representable (f : FloatFmt) (v : Val) : Bool := (roundTo f 1 0 v).2 == 0

/-! #### True results, to about 2^-600, by which the bounds of R133 are checked (log 9) -/

/-- The grid of the true results: a number x stands for x / 2^704. -/
def fxP : Nat := 704

/-- The terms `t / (2k+1)`, each `t` the one before it divided by `q²`; of alternating sign where `alt`: with t = 2^704 / q, the
inverse tangent of 1/q, or its hyperbolic cousin. -/
def atanTerms (alt : Bool) (q : Nat) : Nat → Nat → Nat → Int
  | 0, _, _ => 0
  | fuel + 1, k, t =>
    let x : Int := t / (2 * k + 1)
    (if alt && k % 2 == 1 then -x else x) + atanTerms alt q fuel (k + 1) (t / (q * q))
def atanInv (alt : Bool) (q : Nat) : Int := atanTerms alt q 400 0 (2 ^ fxP / q)
/-- ln 2 and π / 2 on the grid. -/
def fxLn2 : Int := 18 * atanInv false 26 - 2 * atanInv false 4801 + 8 * atanInv false 8749
def fxHalfPi : Int := 8 * atanInv true 5 - 2 * atanInv true 239

/-- The terms rᵏ / k! from k on, `t` the k-th. -/
def expTerms (r : Nat) : Nat → Nat → Nat → List Nat
  | 0, _, _ => []
  | fuel + 1, k, t => t :: expTerms r fuel (k + 1) (t * r / 2 ^ fxP / (k + 1))
/-- eʳ, sin r and cos r for 0 ≤ r < 2 on the grid. -/
def fxExp (r : Nat) : Nat := (expTerms r 240 0 (2 ^ fxP)).sum
def fxTrig (r : Nat) (cos : Bool) : Int :=
  ((expTerms r 240 0 (2 ^ fxP)).zipIdx.map fun (e : Nat × Nat) =>
    let x : Int := e.1
    if e.2 % 2 == (if cos then 0 else 1) then (if e.2 / 2 % 2 == 0 then x else -x) else 0).sum
/-- zᵏ / k for odd k, the half of ln ((1 + z) / (1 - z)), for 0 ≤ z < 1/2 on the grid. -/
def fxAtanh (z : Nat) : Nat → Nat → Nat → Nat
  | 0, _, _ => 0
  | fuel + 1, k, t => t / (2 * k + 1) + fxAtanh z fuel (k + 1) (t * z / 2 ^ fxP * z / 2 ^ fxP)

/-- A fraction on the grid, of either sign. -/
def fxOf (s : Bool) (n d : Nat) : Int := let x : Int := n * 2 ^ fxP / d; if s then -x else x
/-- eᵇ for |b| at most 1,000, as a fraction; beyond that eᵇ at 1,000 or -1,000, which overflows or vanishes as eᵇ does. -/
def trueExp (b : Int) : Nat × Nat :=
  let lim : Int := 1000 * 2 ^ fxP
  let b := if b < -lim then -lim else if lim < b then lim else b
  let k := b / fxLn2
  let e := fxExp (b - k * fxLn2).toNat
  if 0 ≤ k then (e * 2 ^ k.toNat, 2 ^ fxP) else (e, 2 ^ (fxP + (-k).toNat))
/-- ln (n/d) on the grid. -/
def trueLog (n d : Nat) : Int :=
  let e := log2Frac n d
  let m := if 0 ≤ e then n * 2 ^ fxP / (d * 2 ^ e.toNat) else n * 2 ^ (fxP + (-e).toNat) / d
  let z := (m - 2 ^ fxP) * 2 ^ fxP / (m + 2 ^ fxP)
  2 * (fxAtanh z 400 0 z : Nat) + e * fxLn2
/-- sin b and cos b on the grid. -/
def trueTrig (b : Int) (cos : Bool) : Int :=
  let q := b / fxHalfPi
  let r := (b - q * fxHalfPi).toNat
  let n := (q % 4).toNat + (if cos then 1 else 0)
  let x := fxTrig r (n % 2 == 1)
  if n % 4 < 2 then x else -x

/-- The true result of a function with a transcendental value, as a signed fraction. -/
def trueVal (fn : SpFn) (s : Bool) (n d : Nat) : Int × Nat :=
  match fn with
  | .exp => let e := trueExp (fxOf s n d); (e.1, e.2)
  | .log => (trueLog n d, 2 ^ fxP)
  | .sin => (trueTrig (fxOf s n d) false, 2 ^ fxP)
  | .cos => (trueTrig (fxOf s n d) true, 2 ^ fxP)
  | .tanh =>
    let e := trueExp (2 * fxOf false n d)
    let x : Int := (e.1 - e.2 : Nat)
    (if s then -x else x, e.1 + e.2)
  | .sigm => let e := trueExp (fxOf s n d); (e.1, e.1 + e.2)
  | _ => (0, 1)

/-- An internal value p/q lies within the bound of R133 of the true result Y/D: relative 2^-22, and for `vlog`, `vsin` and `vcos`
absolute 2^-32 where |Y/D| is below 2^-10. What the true result itself may be off, 2^-600 of it, counts as within. -/
def inBound (fn : SpFn) (p : Int) (q : Nat) (y : Int × Nat) : Bool :=
  let err := (p * y.2 - y.1 * q).natAbs
  let rel := decide (err * 2 ^ 622 ≤ (2 ^ 600 + 1) * y.1.natAbs * q)
  match fn with
  | .log | .sin | .cos =>
    if y.1.natAbs * 2 ^ 10 < y.2 then decide (err * 2 ^ 632 ≤ (2 ^ 600 + 1) * q * y.2) else rel
  | _ => rel

/-- A signed fraction as a value. -/
def fracVal (s : Bool) (n d : Nat) : Val := if n = 0 then .zero s else .fin s n d

/-- The internal value: what the configuration gives where it lies within its bound (R133, log 9), else the true result. -/
def spNear (fn : SpFn) (t bits : Nat) (s : Bool) (n d : Nat) : Val :=
  let (cs, p, q) := Config.special fn.num t bits
  match fn with
  | .rcp =>
    let e := max (p * n) (d * q) - min (p * n) (d * q)
    if decide (2 ^ 14 * e ≤ d * q) && p ≠ 0 && q ≠ 0 then .fin s p q else .fin s d n
  | .rsq =>
    let x := p * p * n * 2 ^ 28; let y := q * q * d
    let r := sqrtFrac d n
    if decide ((2 ^ 14 - 1) ^ 2 * y ≤ x) && decide (x ≤ (2 ^ 14 + 1) ^ 2 * y) && p ≠ 0 && q ≠ 0 then .fin false p q else .fin false r.1 r.2
  | _ =>
    let y := trueVal fn s n d
    let c : Int := if cs then -(p : Int) else p
    if q ≠ 0 && inBound fn c q y then fracVal cs p q else fracVal (decide (y.1 < 0)) y.1.natAbs y.2

/-- The order-0 result before rounding (R133-R135). -/
def spVal (fn : SpFn) (t bits : Nat) : SpVal :=
  let fmt := floatFmt t
  match decodeFloat fmt bits with
  | .nan => .exact .nan 0
  | .inf s => match fn with
    | .rcp => .exact (.zero s) 0
    | .rsq => if s then .exact .nan flNV else .exact (.zero false) 0
    | .exp => .exact (if s then .zero false else .inf false) 0
    | .log => if s then .exact .nan flNV else .exact (.inf false) 0
    | .sin | .cos => .exact .nan flNV
    | .tanh => .exact (intVal (if s then -1 else 1)) 0
    | .sigm => .exact (if s then .zero false else intVal 1) 0
  | .zero s => match fn with
    | .rcp | .rsq => .exact (.inf s) flDZ
    | .exp | .cos => .exact (intVal 1) 0
    | .log => .exact (.inf true) flDZ
    | .sin | .tanh => .exact (.zero s) 0
    | .sigm => .exact halfVal 0
  | .fin s n d => match fn with
    | .rcp => if representable fmt (.fin s d n) then .exact (.fin s d n) 0 else .near (spNear fn t bits s n d)
    | .rsq =>
      if s then .exact .nan flNV
      else
        let r := sqrtFrac d n
        if r.1 * r.1 * n = r.2 * r.2 * d && representable fmt (.fin false r.1 r.2) then .exact (.fin false r.1 r.2) 0
        else .near (spNear fn t bits false n d)
    | .log =>
      if s then .exact .nan flNV else if n = d then .exact (.zero false) 0 else .near (spNear fn t bits s n d)
    | _ => .near (spNear fn t bits s n d)

/-- Its rounding (R133-R135): every inexact finite result raises NX, and UF below 2^Emin; `vrcp` beyond MaxF is an
infinity in every mode. -/
def spRound (fn : SpFn) (fmt : FloatFmt) (m draw : Nat) (v : SpVal) : Nat × Fl :=
  match v with
  | .exact v fl => ((roundTo fmt m draw v).1, fl)
  | .near v =>
    let big := match v, decodeFloat fmt fmt.maxc with
      | .fin _ n d, .fin _ p q => decide (p * d < n * q)
      | _, _ => false
    let sneg := match v with | .fin s _ _ => s | _ => false
    if fn == .rcp && big then ((roundTo fmt 0 0 (.inf sneg)).1, flOF ||| flNX)
    else
      let tiny := match v with | .fin _ n d => decide (log2Frac n d < fmt.emin) | _ => true
      let r := roundTo fmt m draw v
      (r.1, r.2 ||| flNX ||| (if tiny then flUF else 0))

/-- The delivered coefficient 0 of a special function. -/
def Rnd.special (r : Rnd) (fn : SpFn) (bits : Nat) : Nat × Fl :=
  spRound fn (floatFmt r.t) r.m (r.draw 0) (spVal fn r.t bits)
/-- The companion's coefficient 0, held in FP32 (R161). -/
def Rnd.specialSt (r : Rnd) (fn : SpFn) (bits : Nat) : FV :=
  let y := spRound fn fFP32 r.mi 0 (spVal fn r.t bits)
  (decodeFloat fFP32 y.1, y.2)

/-! ### Series rules (R158-R163): raw coefficients of A, B, C in, delivered coefficients with their flags out -/

abbrev Rule := Rnd → Nat → List Nat → List Nat → List Nat → List (Nat × Fl)

/-- The coefficient of a source. -/
def Rnd.at (r : Rnd) (xs : List Nat) (i : Nat) : FV := r.val (xs.getD i 0)

/-- Coefficients 0 to k by a rule that does not look back. -/
def perCoef (k : Nat) (g : Nat → Nat × Fl) : List (Nat × Fl) := (List.range (k + 1)).map g

/-- y₀, then each yₙ from the delivered coefficients before it. -/
def recur (r : Rnd) (k : Nat) (y0 : Nat × Fl) (next : Nat → (Nat → FV) → Nat × Fl) : List (Nat × Fl) :=
  (List.range k).foldl (fun ys j => ys ++ [next (j + 1) fun i => r.val ((ys.getD i (0, 0)).1)]) [y0]

/-- The products b₀cₙ, …, bₙc₀. -/
def Rnd.products (r : Rnd) (b c : List Nat) (n : Nat) : List FV :=
  (List.range (n + 1)).map fun i => fvMul (r.at b i) (r.at c (n - i))

def ruleAdd : Rule := fun r k _ b c => perCoef k fun n => r.fin n (fvAdd r.rdn (r.at b n) (r.at c n))
def ruleSub : Rule := fun r k _ b c => perCoef k fun n => r.fin n (fvSub r.rdn (r.at b n) (r.at c n))
def ruleMul : Rule := fun r k _ b c => perCoef k fun n => r.fin n (r.chainL (r.products b c n))
def ruleFma : Rule := fun r k a b c => perCoef k fun n => r.fin n (r.chain (r.at a n) (r.products b c n))
def ruleFms : Rule := fun r k a b c => perCoef k fun n => r.fin n (r.chain (r.at a n) ((r.products b c n).map fvNeg))
def ruleFnm : Rule := fun r k a b c => perCoef k fun n => r.fin n (fvNeg (r.chain (r.at a n) (r.products b c n)))

def ruleDiv : Rule := fun r k _ b c =>
  recur r k (r.fin 0 (fvDiv (r.at b 0) (r.at c 0))) fun n y =>
    r.fin n (fvDiv (r.chain (r.at b n) ((List.range n).map fun i => fvNeg (fvMul (r.at c (i + 1)) (y (n - 1 - i))))) (r.at c 0))

def ruleRcp : Rule := fun r k _ b _ =>
  recur r k (r.special .rcp (b.getD 0 0)) fun n y =>
    r.fin n (fvDiv (fvNeg (r.chainL ((List.range n).map fun i => fvMul (r.at b (i + 1)) (y (n - 1 - i))))) (r.at b 0))

def ruleSqrt : Rule := fun r k _ b _ =>
  recur r k (r.fin 0 (fvSqrt (r.at b 0))) fun n y =>
    r.fin n (fvDiv (r.chain (r.at b n) ((List.range (n - 1)).map fun i => fvNeg (fvMul (y (i + 1)) (y (n - 1 - i)))))
      (fvMul (fvInt 2) (y 0)))

def ruleRsq : Rule := fun r k _ b _ =>
  recur r k (r.special .rsq (b.getD 0 0)) fun n y =>
    r.fin n (fvDiv (r.chainL ((List.range n).map fun (i : Nat) =>
      fvMul (fvMul (mkVal false ((i : Int) + 1 - 2 * n) 2, 0) (r.at b (i + 1))) (y (n - 1 - i)))) (fvMul (fvInt n) (r.at b 0)))

/-- Σ i·bᵢ·zₙ₋ᵢ, i from 1 to n, over n. -/
def Rnd.derive (r : Rnd) (b : List Nat) (n : Nat) (z : Nat → FV) (neg : Bool) : FV :=
  let c := r.chainL ((List.range n).map fun (i : Nat) => fvMul (fvMul (fvInt ((i : Int) + 1)) (r.at b (i + 1))) (z (n - 1 - i)))
  fvDiv (if neg then fvNeg c else c) (fvInt n)

def ruleExp : Rule := fun r k _ b _ => recur r k (r.special .exp (b.getD 0 0)) fun n y => r.fin n (r.derive b n y false)

def ruleLog : Rule := fun r k _ b _ =>
  recur r k (r.special .log (b.getD 0 0)) fun n y =>
    r.fin n (fvDiv (r.chain (fvMul (fvInt n) (r.at b n))
      ((List.range (n - 1)).map fun (i : Nat) => fvMul (fvMul (fvInt (-((i : Int) + 1))) (y (i + 1))) (r.at b (n - 1 - i))))
      (fvMul (fvInt n) (r.at b 0)))

/-- `vsin` (or `vcos`): the delivered series and its companion in FP32, whose flags fall on its own coefficient (R161). -/
def ruleSinCos (isCos : Bool) : Rule := fun r k _ b _ =>
  let x := b.getD 0 0
  let y0 := r.special (if isCos then .cos else .sin) x
  let z0 := r.specialSt (if isCos then .sin else .cos) x
  ((List.range k).foldl (fun (p : List (Nat × Fl) × List FV) j =>
    let n := j + 1
    let z := fun i => let v := p.2.getD i (.nan, 0); (v.1, (0 : Fl))
    let y := fun i => r.val ((p.1.getD i (0, 0)).1)
    let yn := r.fin n (r.derive b n z isCos)
    let zn := if n < k then r.st (r.derive b n y (!isCos)) else (.zero false, 0)
    (p.1 ++ [(yn.1, yn.2 ||| zn.2)], p.2 ++ [zn])) ([(y0.1, if k = 0 then y0.2 else y0.2 ||| z0.2)], [z0])).1

/-- `vtanh` and `vsigm`: yₙ from the auxiliary series z (R162), whose flags fall on its own coefficient. -/
def ruleAux (fn : SpFn) : Rule := fun r k _ b _ =>
  let ys := (List.range k).foldl (fun (p : List (Nat × Fl) × List FV) j =>
    let y := fun i => r.val ((p.1.getD i (0, 0)).1)
    let prods := (List.range (j + 1)).map fun i => fvNeg (fvMul (y i) (y (j - i)))
    let zj := r.st (match fn with
      | .tanh => if j = 0 then r.chain (fvInt 1) prods else r.chainL prods
      | _ => r.chain (y j) prods)
    let zs := p.2 ++ [zj]
    let z := fun i => let v := zs.getD i (.nan, 0); (v.1, (0 : Fl))
    let yn := r.fin (j + 1) (r.derive b (j + 1) z false)
    ((p.1.set j (((p.1.getD j (0, 0)).1), ((p.1.getD j (0, 0)).2 ||| zj.2))) ++ [yn], zs))
    ([r.special fn (b.getD 0 0)], [])
  ys.1

/-- The canonical NaN of a type. -/
def qnanOf (t : Nat) : Nat := ((floatFmt t).qnan).getD 0
def isNanCode (t x : Nat) : Bool := decodeFloat (floatFmt t) x == .nan
/-- The sign bit of a type. -/
def signBit (t : Nat) : Nat := 2 ^ ((floatFmt t).w - 1)
def negCode (t x : Nat) : Nat := if isNanCode t x then qnanOf t else (x + signBit t) % (2 * signBit t)
def absCode (t x : Nat) : Nat := if isNanCode t x then qnanOf t else x % signBit t

def ruleMinMax (isMax : Bool) : Rule := fun r k _ b c =>
  match fminTakesB isMax (r.at b 0).1 (r.at c 0).1 with
  | none => perCoef k fun _ => (qnanOf r.t, 0)
  | some t => perCoef k fun n => ((if t then b else c).getD n 0, 0)
def ruleNeg : Rule := fun r k _ b _ => perCoef k fun n => (negCode r.t (b.getD n 0), 0)
def ruleAbs : Rule := fun r k _ b _ =>
  match (r.at b 0).1 with
  | .nan => perCoef k fun _ => (qnanOf r.t, 0)
  | .zero _ => perCoef k fun n => if n = 0 then (0, 0) else (b.getD n 0, if n = 1 then flNV else 0)
  | .inf s | .fin s _ _ => perCoef k fun n => (if s then negCode r.t (b.getD n 0) else b.getD n 0, 0)

/-! ### A series instruction -/

/-- The registers of a v operand's group (R65). -/
def groupRegs (k : Nat) (o : Opd) : List (Fin 32) :=
  (List.range (jetG k)).map fun p => Fin.ofNat 32 ((vIx o).val * jetG k + p)

/-- Coefficients 0 to k of lane e of a source: a jet group, or the constant jet of a scalar (R151). -/
def Ctx.coefs (x : Ctx) (k : Nat) (ty : BitVec 4) (o : Opd) (e : Nat) : List Nat :=
  match o with
  | .v _ => ((groupRegs k o).take (k + 1)).map fun r => elemAt x.v[r] (tyWidth ty) e
  | o => x.hart.elem ty o :: List.replicate k 0

/-- The rounding of lane e. -/
def State.rnd (s : State) (f : Fields) (e : Nat) : Rnd :=
  let x := s.me
  ⟨f.ty.toNat, effRnd f.rnd x.fround, srBits s.myCore.jobseed s.myCore.rank x.srctr e⟩

/-- fround is above 5 where RND is 7 (R44). -/
def badRound (f : Fields) (s : State) : Bool := decide (5 < effRnd f.rnd s.me.fround)

/-- srctr after an instruction that rounds (R93). -/
def State.drew (s : State) (f : Fields) : State :=
  if effRnd f.rnd s.me.fround = 5 then
    (s.modMe fun x => { x with srctr := x.srctr + 1 }).perfEv s.kc.1 0x13 (some s.kc.2)
  else s

/-- The lanes of the type enabled by MK. -/
def Ctx.lanes (x : Ctx) (f : Fields) : List Nat :=
  (List.range (1024 / tyWidth f.ty)).filter (enabled (x.mask f.mkn) (tyWidth f.ty))

/-- What delivered lanes write into a group: coefficients 0 to k, zero above (R151, R153), and the flags. -/
def groupWrites (k w : Nat) (zr : Bool) (regs : List (Fin 32)) (outs : List (Nat × List (Nat × Fl))) :
    List RegWrite × BitVec 40 :=
  (regs.zipIdx.map fun r =>
      if r.2 ≤ k then elemWrite r.1 w zr (outs.map fun o => (o.1, ((o.2).getD r.2 (0, 0)).1))
      else .v r.1 (BitVec.allOnes 1024) 0,
    outs.foldl (fun fl o => o.2.zipIdx.foldl (fun fl c => fl ||| orFlags c.2 c.1.2) fl) 0)

/-- A masked series instruction (R128, R151-R155); `rounds` says that its form rounds. -/
def series (i : Instr) (f : Fields) (rounds : Bool) (rule : Rule) (s : State) : Res :=
  let x := s.me
  let k := x.jord.toNat
  if rounds && badRound f s then .trap 0x01 (wordHigh i)
  else
    let outs := (x.lanes f).map fun e =>
      (e, rule (s.rnd f e) k (x.coefs k f.ty f.a e) (x.coefs k f.ty f.b e) (x.coefs k f.ty f.c e))
    let (ws, fl) := groupWrites k (tyWidth f.ty) f.zr (groupRegs k f.a) outs
    deliver i f (tyWidth f.ty) ws fl true (if rounds then s.drew f else s)

end Sys2Proof.Machine
end

