-- ==== Sys2Proof/Machine/Anvil.lean ====
section
/-! DEFINITION. Machine/Anvil.lean: the anvil, its queue, its tiles and drains (R169-R186). -/

namespace Sys2Proof.Machine

/-! ### Operand rows (R172-R174) -/

/-- An operand: a register set or a descriptor pair, with its tile count. -/
inductive AnvSrc where
  | reg (n : Fin 32) (tiles : Nat)
  | loc (w0 w1 : W64) (tiles : Nat)
deriving DecidableEq, Repr

/-- RowAddr(c, r) (R173). -/
def rowAddr (w0 w1 : W64) (c r : Nat) : Nat :=
  ((w0.extractLsb' 0 17).toNat + c * (w1.extractLsb' 0 17).toNat + r * (w0.extractLsb' 32 16).toNat) ^^^
    ((w1.extractLsb' 32 2).toNat * r % 4 * 64)

/-- The rows of an operand in ascending (c, r) order (R173, R174); a four-tile set that auto mode will refuse (R177) has the
rows of the registers that exist. -/
def AnvSrc.places : AnvSrc → List (Nat ⊕ (Fin 32 × Nat))
  | .reg n 1 => (List.range 16).map fun r => .inr (Fin.ofNat 32 (n.val + r / 4), 32 * (r % 4))
  | .reg n t => (List.range t).flatMap fun c => (List.range (min 16 (32 - n.val))).map fun r => .inr (Fin.ofNat 32 (n.val + r), 32 * c)
  | .loc w0 w1 t => (List.range t).flatMap fun c => (List.range 16).map fun r => .inl (rowAddr w0 w1 c r)

/-- The operand that an operand field names. -/
def anvSrc (h : Hart) (o : Opd) (tiles : Nat) : AnvSrc :=
  match o with
  | .v n => .reg n tiles
  | o => .loc (h.opd o) (h.opd (nextG o 1)) tiles

/-- The description that holds a row (R174). -/
def State.rowDesc (s : State) (p : Nat ⊕ (Fin 32 × Nat)) : Desc :=
  match p with
  | .inl o => s.myCore.locDesc o
  | .inr (r, b) => vsDesc s.me.vs[r] (b / 64)

/-- eaddr of a failing row (R175). -/
def rowEaddr (p : Nat ⊕ (Fin 32 × Nat)) : W64 :=
  match p with
  | .inl o => BitVec.ofNat 64 o
  | .inr (r, b) => BitVec.ofNat 64 (2 ^ 62 + 128 * r.val + b)

def State.rows (s : State) (a : AnvSrc) : List ARow := a.places.map fun p => ⟨p, s.rowDesc p⟩

/-! ### Issue-time checks (R175) -/

/-- Step 1: the lines the rows touch; a row beyond local memory names none. -/
def AnvSrc.lines (a : AnvSrc) : List Nat :=
  (a.places.flatMap fun p => match p with
    | .inl o => if o + 31 < 0x20000 then [o / 128, (o + 31) / 128] else []
    | _ => []).eraseDups

/-- Step 2: alignment of a descriptor. -/
def AnvSrc.misaligned : AnvSrc → Option (Cause × W64)
  | .reg _ _ => none
  | .loc w0 w1 t =>
    if w0.extractLsb' 0 5 != 0 || w0.extractLsb' 32 5 != 0 then some (0x05, w0)
    else if 1 < t && w1.extractLsb' 0 5 != 0 then some (0x05, w1) else none

/-- Step 3: reserved bits and range. -/
def AnvSrc.outside (a : AnvSrc) : Option (Cause × W64) :=
  match a with
  | .reg _ _ => none
  | .loc w0 w1 _ =>
    if w0.extractLsb' 17 15 != 0 || w0.extractLsb' 48 16 != 0 then some (0x08, w0)
    else if w1.extractLsb' 17 15 != 0 || w1.extractLsb' 34 30 != 0 then some (0x08, w1)
    else a.places.findSome? fun p => match p with
      | .inl o => if 0x1FFFF < o + 31 then some (0x08, BitVec.ofNat 64 o) else none
      | _ => none

/-- Step 5: poison. -/
def State.anvPoison (s : State) (a : AnvSrc) : Option (Cause × W64) :=
  a.places.findSome? fun p => if (s.rowDesc p).fmt = 0xFF then some (0x09, rowEaddr p) else none

/-- Step 6 for one operand: the first row whose FMT fails. -/
def State.anvFormat (s : State) (a : AnvSrc) (ok : Byte → Bool) : Option (Cause × W64) :=
  a.places.findSome? fun p => if ok (s.rowDesc p).fmt then none else some (0x11, rowEaddr p)

/-- The mode of a block FMT (R177): BF16/FP16, FP8, FP4, ternary. -/
def ammaMode (fmt : Byte) : Nat :=
  if fmt = 7 ∨ fmt = 8 then 1 else if fmt = 4 ∨ fmt = 5 then 2 else if fmt = 6 then 3 else if fmt = 3 then 4 else 0

/-! ### Entries -/

/-- The tile an entry writes. -/
def AnvOp.target : AnvOp → Option (Fin 4)
  | .amma z .. | .azero z | .ald z _ => some z
  | .ascale za _ _ _ _ => some za
  | _ => none

/-- The rows an entry reads, with the descriptions it latched. -/
def AnvOp.reads : AnvOp → List ARow
  | .amma _ _ _ _ _ ra rb => ra ++ rb
  | .ald _ rows => rows.map fun o => ⟨.inl o, {}⟩
  | .ascale _ _ v _ _ => (List.range 4).map fun r => ⟨.inr (v, 32 * r), {}⟩
  | _ => []

/-- The bits of one element of each row it reads (R96, R178, R180, R182). -/
def AnvOp.widths : AnvOp → List Nat
  | .amma _ true _ _ _ ra rb => ra.map (fun _ => 2) ++ rb.map fun _ => 8
  | .amma _ false fa fb _ ra rb =>
    let w := fun (f : Option Byte) (r : ARow) => tyWidth (BitVec.ofNat 4 (f.getD r.desc.fmt).toNat)
    ra.map (w fa) ++ rb.map (w fb)
  | op => op.reads.map fun _ => 32

/-- The bytes of a row as they stand, in the low 256 bits. -/
def State.readRow (s : State) (k : CoreId) (c : Fin 8) (r : ARow) : B512 :=
  match r.src with
  | .inl o => blockOf (memRead (s.core k).loc o 32)
  | .inr (v, b) => ((s.ctx k c).v[v].extractLsb' (8 * b) 256).setWidth 512

/-- The anvil starts an entry: the first of the queue that no fence point and no earlier release holds (R169, R171, R212, R284). -/
def State.anvStart (s : State) (k : CoreId) : State :=
  let co := s.core k
  match co.anvRun with
  | some _ => s
  | none =>
    match co.anvil.find? fun e => !co.fenced e.ctx (·.anvil) e.id && !co.storesOpen k e.id && !co.pendingRels e.rels false with
    | none => s
    | some e =>
      let rows := e.op.reads.map (s.readRow k e.ctx)
      (s.modCore k fun co => { co with anvil := co.anvil.erase e, anvRun := some (e, rows) })

/-! ### The arithmetic (R96, R178, R182) -/

/-- An exact sum of products: NaN with NV where infinities of both signs meet. -/
def groupSum (ps : List FV) : FV :=
  let both := ps.any (fun p => p.1 == .inf true) && ps.any (fun p => p.1 == .inf false)
  match ps with
  | [] => (.zero false, 0)
  | p :: t =>
    let r := t.foldl (fvAdd false) p
    (r.1, r.2 ||| (if both then flNV else 0))

/-- A value rounded to FP32 by RNE. -/
def toFP32 (x : FV) : Nat × Fl := let r := roundTo fFP32 0 0 x.1; (r.1, x.2 ||| r.2)
def ofFP32 (x : Nat) : FV := (decodeFloat fFP32 x, 0)

/-- One cell in a float mode (R96). -/
def cellFloat (z : Nat) (as bs : List FV) : Nat × Fl :=
  (List.range (as.length / 8)).foldl (fun acc g =>
    let ps := (List.range 8).map fun j => fvMul (as.getD (8 * g + j) (.nan, 0)) (bs.getD (8 * g + j) (.nan, 0))
    let s := toFP32 (groupSum ps)
    let r := toFP32 (fvAdd false (ofFP32 acc.1) (decodeFloat fFP32 s.1, s.2))
    (r.1, acc.2 ||| r.2)) (z, 0)

/-- The elements of a row in a float mode. -/
def rowVals (fmt : Option Byte) (noscale : Bool) (r : ARow) (bits : B512) : List FV :=
  let t := (fmt.getD r.desc.fmt).toNat
  let w := tyWidth (BitVec.ofNat 4 t)
  (List.range (256 / w)).map fun e =>
    elemValue false t (bits.toNat / 2 ^ (w * e) % 2 ^ w) (if noscale then 0x7F else r.desc.scale.toNat)

/-- One cell in ternary mode (R178): the exact sum, one clamp. -/
def cellTern (z : BitVec 32) (as : List (Int × Fl)) (bs : List Int) : Nat × Fl :=
  let sum : Int := (as.zip bs).foldl (fun (x : Int) p => x + p.1.1 * p.2) 0
  let r := satInt 0xA (z.toInt + sum)
  (wrap 32 r.1, r.2)

/-- `amma` on the bytes of its rows (R178). -/
def ammaCells (tern : Bool) (fa fb : Option Byte) (noscale : Bool) (ra rb : List ARow) (da db : List B512)
    (z : Vector (BitVec 32) 256) : List (Nat × Fl) :=
  if tern then
    let as := da.map fun d => (List.range 128).map fun k => decodeTern (d.toNat / 4 ^ k % 4)
    let bs := (List.range 16).map fun j => (List.range 128).map fun k =>
      signExt 8 ((db.getD (16 * (k / 32) + j) 0).toNat / 256 ^ (k % 32) % 256)
    let nv := as.map fun r => r.foldl (fun (fl : Fl) e => fl ||| e.2) 0
    (List.range 256).map fun n =>
      let c := cellTern (z[n]?.getD 0) (as.getD (n / 16) []) (bs.getD (n % 16) [])
      (c.1, c.2 ||| nv.getD (n / 16) 0)
  else
    let as := (ra.zip da).map fun p => rowVals fa noscale p.1 p.2
    let bs := (rb.zip db).map fun p => rowVals fb noscale p.1 p.2
    (List.range 256).map fun n => cellFloat (z[n]?.getD 0).toNat (as.getD (n / 16) []) (bs.getD (n % 16) [])

/-- One cell of `ascale` (R182). -/
def scaleCell (int relu : Bool) (x : BitVec 32) (row col : Nat) : Nat × Fl :=
  let v : FV := if int then fvInt x.toInt else ofFP32 x.toNat
  let y := toFP32 (fvMul (fvMul v (ofFP32 row)) (ofFP32 col))
  match decodeFloat fFP32 y.1 with
  | .nan => y
  | .zero _ | .inf true | .fin true _ _ => if relu then (0, y.2) else y
  | _ => y

/-- The 128-byte images a drain sends, and its flags (R184). -/
def drainLines (ty : Byte) (z : Vector (BitVec 32) 256) : List V1024 × Fl :=
  let w := if ty = 7 then 16 else 32
  let cells := z.toList.map fun x => if ty = 7 then roundTo fBF16 0 0 (decodeFloat fFP32 x.toNat) else (x.toNat, 0)
  let per := 1024 / w
  ((List.range (256 / per)).map fun l =>
    BitVec.ofNat 1024 (((cells.drop (l * per)).take per).zipIdx.map fun e => e.1.1 * 2 ^ (w * e.2)).sum,
   cells.foldl (fun fl c => fl ||| c.2) 0)

/-! ### Drains (R184, R185) -/

/-- The absolute local-window address of a core's offset (R188). -/
def absAddr (k : CoreId) (off : Nat) : W64 :=
  BitVec.ofNat 64 (2 ^ 63 + pkgOf k * 2 ^ 56 + yOf k * 2 ^ 48 + xOf k * 2 ^ 40 + off)

def State.modDrain (s : State) (k : CoreId) (id : Nat) (f : Drain → Drain) : State :=
  s.modCore k fun co => { co with drains := co.drains.map fun d => if d.id = id then f d else d }
def State.dropDrain (s : State) (k : CoreId) (id : Nat) : State :=
  s.modCore k fun co => { co with drains := co.drains.filter fun d => d.id != id }

/-- An earlier write, drain or message of the context to the drain's target is still open (R185, R219). -/
def State.drainHeld (s : State) (k : CoreId) (d : Drain) : Bool :=
  let co := s.core k
  co.msgAhead d.ctx d.dst d.seq || co.drainAhead d.ctx d.dst d.seq ||
  co.accs.any fun a => a.ctx == d.ctx && decide (a.id < d.seq) && a.parts.any fun p =>
    !p.stage.settled && (match p.tgt with | .bank j _ => j == d.dst | _ => false)

/-- One line of a drain is performed at its target, or refused by a frozen one (R184, R185). -/
def State.drainLine (s : State) (k : CoreId) (d : Drain) (idx : Nat) : State :=
  if idx ≠ d.performed ∨ s.inFab (d.seq + idx) ∨ s.drainHeld k d ∨ !(s.core d.dst).takes (.drain k d.id idx) then s
  else
    let off := d.off + 128 * idx
    if d.dst ≠ k ∧ (s.core d.dst).frozen then
      let f : RFault := ⟨d.ctx, d.id, d.user, 0x08, d.addr + BitVec.ofNat 64 (128 * idx), some d.id, false, none, d.early⟩
      let s := s.dropDrain k d.id
      if pkgOf d.dst = pkgOf k then s.fault k f else s.ship (pkgOf d.dst) (pkgOf k) d.id d.dst true (.refuse k f)
    else
      let s := s.bankWrite d.dst off ((leBytes 128 (d.lines.getD idx 0).toNat).map some) true
      let s := s.modCore d.dst fun co => (co.setLocDesc off d.desc).setLocDesc (off + 64) d.desc
      if idx + 1 = d.lines.length ∧ d.wake.isNone then
        (s.dropDrain k d.id).ackTo d.dst k d.ctx d.id
      else
        let s := s.modDrain k d.id fun d => { d with performed := d.performed + 1 }
        if idx + 1 = d.lines.length then s.ship (pkgOf d.dst) (pkgOf k) d.id d.dst true .plain else s

/-- The wake-up of a drain whose writes are acknowledged takes a retry-buffer slot and leaves (R184). -/
def State.drainWake (s : State) (k : CoreId) (id : Nat) : State :=
  match (s.core k).drains.find? fun d => d.id == id with
  | none => s
  | some d =>
    match d.wake with
    | none => s
    | some ty =>
      if d.performed < d.lines.length ∨ s.inFab d.id then s
      else
        match s.postMsg k
            { uid := d.id, target := d.dst, ty := ty, payload := [absAddr d.dst d.off, d.x], kind := 1, ctx := some d.ctx,
              addr := d.addr, user := d.user, early := d.early } with
        | some (s, _) => s.dropDrain k id
        | none => s

/-! ### Completion -/

/-- Each element of each row, of its row's own width, is taken as it stands now where the choice says so, else as it was read
before (R171): element e of row r by bit 256r + e. -/
def lateRows (late : Nat) (widths : List Nat) (before now : List B512) : List B512 :=
  ((before.zip now).zip widths).zipIdx.map fun e =>
    let w := max 1 e.1.2
    let mask : B512 := BitVec.ofNat 512 ((List.range (256 / w)).map fun j =>
      if late.testBit (256 * e.2 + j) then (2 ^ w - 1) * 2 ^ (w * j) else 0).sum
    mergeBits mask e.1.1.1 e.1.1.2

def Ctx.setTile (x : Ctx) (z : Fin 4) (cells : List (Nat × Fl)) : Ctx :=
  ({ x with z := x.z.set z.val (Vector.ofFn fun (n : Fin 256) => BitVec.ofNat 32 (cells.getD n.val (0, 0)).1) }).raiseFlags
    (orFlags 0 (cells.foldl (fun (fl : Fl) (c : Nat × Fl) => fl ||| c.2) 0))

/-- The effect of an entry on the bytes of its rows (R178-R184). Where rows of an `ast` overlap, the spec does not say whose bytes
stay: the model writes the rows in ascending (c, r) order, and the last remains (log 68). -/
def State.anvEffect (s : State) (k : CoreId) (e : AnvEntry) (d : List B512) : State :=
  let x := s.ctx k e.ctx
  match e.op with
  | .amma z tern fa fb nosc ra rb =>
    s.modCtx k e.ctx fun x => x.setTile z (ammaCells tern fa fb nosc ra rb (d.take 16) (d.drop 16) x.z[z])
  | .azero z => s.modCtx k e.ctx fun x => x.setTile z []
  | .ald z _ =>
    s.modCtx k e.ctx fun x => x.setTile z ((List.range 256).map fun n =>
      let i := n / 16; let j := n % 16
      ((d.getD (16 * (j / 8) + i) 0).toNat / 2 ^ (32 * (j % 8)) % 2 ^ 32, 0))
  | .ast z rows ty =>
    (rows.zipIdx).foldl (fun s r =>
      let c := r.2 / 16; let i := r.2 % 16
      let bs := (List.range 8).flatMap fun j => leBytes 4 ((x.z[z])[16 * i + 8 * c + j]?.getD 0).toNat
      (s.bankWrite k r.1 (bs.map some) false).modCore k fun co => co.setLocDesc r.1 ⟨ty, 0x7F⟩) s
  | .ascale za zb _ int relu =>
    let f := fun (n : Nat) => (d.getD (n / 8) 0).toNat / 2 ^ (32 * (n % 8)) % 2 ^ 32
    s.modCtx k e.ctx fun x => x.setTile za ((List.range 256).map fun n =>
      scaleCell int relu ((x.z[zb])[n]?.getD 0) (f (n / 16)) (f (16 + n % 16)))
  | .adrain z ty dst off addr wake w =>
    let (lines, fl) := drainLines ty x.z[z]
    let seq := s.ids + 1
    let s := { s with ids := s.ids + lines.length }
    let s := (List.range lines.length).foldl (fun s i => s.ship (pkgOf k) (pkgOf dst) (seq + i) k false .plain) s
    (s.modCtx k e.ctx fun x => x.raiseFlags (orFlags 0 fl)).modCore k fun co =>
      { co with drains := co.drains ++ [{
          id := e.id, seq := seq, ctx := e.ctx, user := e.user, dst := dst, off := off, addr := addr, desc := ⟨ty, 0x7F⟩,
          lines := lines, wake := wake, x := w, early := e.early }] }

/-- The entry being performed completes, and with it its instruction (R170, R48). -/
def State.anvFinish (s : State) (k : CoreId) (late : Nat) : State :=
  match (s.core k).anvRun with
  | none => s
  | some (e, start) =>
    let now := e.op.reads.map (s.readRow k e.ctx)
    let s := s.anvEffect k e (lateRows late e.op.widths start now)
    let s := s.modCore k fun co => { co with anvRun := none }
    s.modCtx k e.ctx fun x =>
      { x with
        flight := x.flight.filterMap fun f =>
          if f.anv = some e.id then (if f.left = 0 then none else some { f with done := true }) else some f }

/-- The anvil goes on until an entry is performed, at most `n` entries. -/
def State.anvPump (s : State) (k : CoreId) (n : Nat) : State :=
  (List.range n).foldl (fun s _ => (s.anvFinish k 0).anvStart k) (s.anvStart k)

/-- Every line of a drain, then its wake-up. -/
def State.drainPump (s : State) (k : CoreId) (id : Nat) : State :=
  ((List.range 8).foldl (fun s i =>
    match (s.core k).drains.find? fun d => d.id == id with
    | some d => s.drainLine k d i
    | none => s) s).drainWake k id

/-! ### Issue -/

/-- Both entries of the queue are occupied (R169). -/
def anvilFull (s : State) : Bool := decide (2 ≤ s.myCore.anvil.length)
/-- A command that reaches memory waits for an acquire atomic too (R217). -/
def anvilWait (s : State) : Bool := anvilFull s || s.acqWait

/-- An entry enters the queue; prompt it is performed at once, after those before it. -/
def anvIssue (i : Instr) (f : Fields) (op : AnvOp) (counted : Bool) (s : State) : Res :=
  let (k, c) := s.kc
  let x := s.ctx k c
  let (id, s) := s.newId
  let s := s.modCore k fun co => { co with anvil := co.anvil ++ [⟨id, c, !x.sup, op, co.relIds, s.early⟩] }
  let s := if counted then s.modCtx k c fun x => { x with pend := x.pend ++ [id] } else s
  let (l, s) := s.popLag
  let s := if l = 0 then (s.anvPump k 4).drainPump k id else s
  let co := s.core k
  let busy := co.anvil.any (fun e => e.id == id) || (match co.anvRun with | some e => e.1.id == id | none => false)
  let win : Flight :=
    { id := id, pc := x.hart.pc, left := f.hd.look.toNat, dests := writesOf x.jord.toNat i f, anv := some id,
      raises := op.raises,
      srcs := op.reads.filterMap fun r => match r.src with | .inr (v, _) => some (.v v) | _ => none,
      rows := op.reads.filterMap fun r => match r.src with | .inl o => some o | _ => none, done := !busy }
  .ok s (if busy || f.hd.look != 0 then [win] else [])

/-- The first failure of a list of checks. -/
def firstOf (cs : List (Option (Cause × W64))) : Option (Cause × W64) := cs.findSome? id

/-- The FMT that an `amma` in its second fill wait has fixed (R175). -/
def State.ammaFixed (s : State) : Option Byte := match s.me.wait with | .fill _ _ o => o | _ => none
/-- The FMT that holds row 0 of the first operand of `amma`: fixed after its first wait, or as it stands; 0 where the row lies beyond
local memory (R175, R177). -/
def State.ammaFmt (s : State) (f : Fields) : Byte :=
  let row0 := (anvSrc s.hart f.b 1).places.headD (.inl 0)
  s.ammaFixed.getD
    (if (match row0 with | .inl o => decide (0x1FFFF < o + 31) | _ => false) then 0 else (s.rowDesc row0).fmt)
/-- The mode of `amma` is ternary: by TY, or chosen by the operand (R176, R177). -/
def State.ammaTern (s : State) (f : Fields) : Bool := if f.ty == 0 then s.ammaFmt f == 3 else f.ty == 3
/-- The fields of `amma` with TY 3 where the operand chooses ternary mode: they name the registers it reads and its issue
cycles (R48, R170, R177). -/
def State.ammaFields (s : State) (f : Fields) : Fields :=
  if f.ty == 0 && s.ammaTern f then { f with mi := f.mi ||| 3 } else f

/-- AMMA (R176-R178). -/
def execAmma (f : Fields) (s : State) : Host.Outcome State Fault Refusal :=
  issue (.amma f) (s.ammaFields f) anvilWait (fun s =>
    let auto := f.ty == 0
    let a := anvSrc s.hart f.b 1
    let fmt0 := s.ammaFmt f
    let tern := s.ammaTern f
    let b := anvSrc s.hart f.c (if tern then 4 else 1)
    -- step 1: in auto mode the first operand's lines, then the second's; otherwise all together
    let first := if auto then a.lines else (a.lines ++ b.lines).eraseDups
    if f.fw && s.ammaFixed.isNone && s.fillOpen first then .hold (s.awaitFill first none)
    else
      let crooked := match b with | .reg n 4 => n.val % 16 != 0 | _ => false
      if f.fw && auto && s.fillOpen b.lines then .hold (s.awaitFill b.lines (some fmt0))
      else
        let known := fun (x : Byte) => decide (x.toNat ≤ 0xA)
        let same := fun (x : Byte) => ammaMode x != 0 && ammaMode x == ammaMode fmt0
        let formats := if auto then
            [s.anvFormat a same,
             (if crooked then some (0x11, rowEaddr (.inr (vIx f.c, 0)))
              else s.anvFormat b (fun x => if tern then x == 1 else same x))]
          else [s.anvFormat a known, s.anvFormat b known]
        match firstOf ([a.misaligned, b.misaligned, a.outside, b.outside, s.anvPoison a,
            s.anvPoison b] ++ formats) with
        | some (c, ea) => .trap c ea
        | none =>
          anvIssue (.amma f) (s.ammaFields f) (.amma (zIx f.a) tern (if auto then none else some (f.ty.setWidth 8))
            (if auto then none else some (f.from_.setWidth 8)) (f.bit 17) (s.rows a) (s.rows b)) false s) s

/-- AZERO (R179). -/
def execAzero (f : Fields) (s : State) : Host.Outcome State Fault Refusal :=
  issue (.azero f) f anvilFull (anvIssue (.azero f) f (.azero (zIx f.a)) false) s

/-- The own-local offsets of a descriptor's rows. -/
def AnvSrc.offs (a : AnvSrc) : List Nat := a.places.filterMap fun p => match p with | .inl o => some o | _ => none

/-- ALD (R180). -/
def execAld (f : Fields) (s : State) : Host.Outcome State Fault Refusal :=
  issue (.ald f) f anvilWait (fun s =>
    let a := anvSrc s.hart f.b 2
    if f.fw && s.fillOpen a.lines then .hold (s.awaitFill a.lines none)
    else match firstOf [a.misaligned, a.outside, s.anvPoison a] with
    | some (c, ea) => .trap c ea
    | none => anvIssue (.ald f) f (.ald (zIx f.a) a.offs) false s) s

/-- AST (R180). -/
def execAst (f : Fields) (s : State) : Host.Outcome State Fault Refusal :=
  issue (.ast f) f anvilWait (fun s =>
    let a := anvSrc s.hart f.a 2
    match firstOf [a.misaligned, a.outside] with
    | some (c, ea) => .trap c ea
    | none =>
      match lkRows s.me (a.offs.flatMap fun o => (List.range 32).map (o + ·)) with
      | some p => .trap 0x04 (p.setWidth 64)
      | none => anvIssue (.ast f) f (.ast (zIx f.b) a.offs (f.ty.setWidth 8)) false s) s

/-- A tile is still the target of an anvil entry of the context (R31, R170). -/
def tileWait (z : Fin 4) (s : State) : Bool :=
  let hits := fun (e : AnvEntry) => e.ctx == s.kc.2 && e.op.target == some z
  s.myCore.anvil.any hits || (match s.myCore.anvRun with | some e => hits e.1 | none => false)

/-- AROW (R181). -/
def execArow (f : Fields) (s : State) : Host.Outcome State Fault Refusal :=
  issue (.arow f) f (tileWait (zIx f.b)) (fun s =>
    let x := s.me
    let p := (s.hart.opd f.c).toNat % 8
    let es := (List.range 32).filter (enabled (x.mask f.mkn) 32)
    deliver (.arow f) f 32
      [elemWrite (vIx f.a) 32 f.zr (es.map fun e => (e, ((x.z[zIx f.b])[16 * (2 * p + e / 16) + e % 16]?.getD 0).toNat))] 0 false s) s

/-- ASCALE (R182). -/
def execAscale (f : Fields) (s : State) : Host.Outcome State Fault Refusal :=
  issue (.ascale f) f anvilFull
    (anvIssue (.ascale f) f (.ascale (zIx f.a) (zIx f.b) (vIx f.c) (f.from_ == 0xA) (f.bit 17)) false) s

/-- ADRAIN (R183). -/
def execAdrain (f : Fields) (s : State) : Host.Outcome State Fault Refusal :=
  issue (.adrain f) f (fun s => anvilWait s || decide (0xFFFF ≤ s.me.pend.length)) (fun s =>
    let k := s.kc.1
    let ea := s.hart.opd f.a
    let off := (ea.extractLsb' 0 17).toNat
    if !ea.getLsbD 63 then .trap 0x08 ea
    else match s.windowCore k ea with
    | none => .trap 0x08 ea
    | some j =>
      let n := if f.ty == 7 then 512 else 1024
      if off % 128 ≠ 0 then .trap 0x05 ea
      else if 0x20000 < off + n then .trap 0x08 ea
      else if !s.jobMate k j || !s.mayReach k j (!s.me.sup) || !s.reaches (pkgOf k) (pkgOf j) then .trap 0x07 ea
      else match (if j = k then lkRows s.me ((List.range n).map (off + ·)) else none) with
      | some p => .trap 0x04 (p.setWidth 64)
      | none =>
        anvIssue (.adrain f) f (.adrain (zIx f.b) (f.ty.setWidth 8) j off ea
          (if f.bit 17 then none else some (f.mi.extractLsb' 18 12)) (s.hart.opd f.c)) true s) s

/-! ### Events -/

/-- ANVIL_ENTRY_START (R169-R171): while an entry is being performed, it reads once more the elements the choice names. -/
def execAnvilEntryStart (k : CoreId) (s : State) : Host.Outcome State Fault Refusal :=
  .next (match (s.core k).anvRun with
    | none => s.anvStart k
    | some (e, rows) =>
      let (l, s) := s.popLag
      let now := e.op.reads.map (s.readRow k e.ctx)
      if l = 0 then s
      else s.modCore k fun co => { co with anvRun := some (e, lateRows (l - 1) e.op.widths rows now) })
/-- ANVIL_ENTRY_COMPLETE (R170, R171). -/
def execAnvilEntryComplete (k : CoreId) (late : Nat) (s : State) : Host.Outcome State Fault Refusal := .next (s.anvFinish k late)
/-- DRAIN_WAKEUP (R184). -/
def execDrainWakeup (k : CoreId) (id : Nat) (s : State) : Host.Outcome State Fault Refusal := .next (s.drainWake k id)

end Sys2Proof.Machine
end

