-- ==== Sys2Proof/Machine/Control.lean ====
section
/-! DEFINITION. Machine/Control.lean: branches, hardware loops, ending, waiting and halting, control registers, system
calls and returns (R113-R125). -/

namespace Sys2Proof.Machine

/-- A code address: the number itself where the 57-bit address space holds it; the program counter always holds a multiple of 12
(R37), so one outside is a free multiple of 12 (log 86). -/
def codeAt (n : Int) : PcW :=
  if 0 ≤ n ∧ n < 2 ^ 57 then BitVec.ofInt 57 n else BitVec.ofNat 57 (12 * (Config.outside n % (2 ^ 57 / 12)))
/-- Target(n): the offset in MI counts instructions from the branch itself (R38). -/
def target (pc : PcW) (f : Fields) : PcW := codeAt (pc.toNat + 12 * f.mi.toInt)
/-- The instruction after a loop's end address (R115, R117). -/
def pastEnd (le : PcW) : PcW := codeAt (le.toNat + 12)

/-- The address is one of code where the issuing instruction jumps: a multiple of 12, on a farrier counted from the start of its handler
set (R37, R317, log 100). -/
def State.codeAligned (s : State) (v : W64) : Bool :=
  match s.cur with
  | .ctx _ _ => Machine.codeAligned v
  | .thread f t =>
    Machine.codeAligned (v + 12 * 5461 - BitVec.ofNat 64 ((fmGet {} (s.far f).sets (s.thread f t).hset.toNat).start))

/-- A jump to a register's address, with the link it leaves; the target checked and reported is the 57-bit address (R113, R114,
log 15). -/
def jumpReg (link : Bool) (f : Fields) (s : State) : Res :=
  let t := s.hart.opd f.b
  if !s.codeAligned t then .trap 0x05 ((t.setWidth 57).setWidth 64)
  else .jump (t.setWidth 57) (if link then s.modHart fun h => h.dest f.a ((h.pc + 12).setWidth 64) else s)

/-- BR (R113). -/
def execBr (f : Fields) (s : State) : Host.Outcome State Fault Refusal :=
  issue (.br f) f never (fun s => .jump (target s.hart.pc f) s) s
/-- JR (R113, R114). -/
def execJr (f : Fields) (s : State) : Host.Outcome State Fault Refusal := issue (.jr f) f never (jumpReg false f) s
/-- CALL (R113). -/
def execCall (f : Fields) (s : State) : Host.Outcome State Fault Refusal :=
  issue (.call f) f never (fun s =>
    .jump (target s.hart.pc f) (s.modHart fun h => h.dest f.a ((h.pc + 12).setWidth 64))) s
/-- CALLR (R113, R114). -/
def execCallr (f : Fields) (s : State) : Host.Outcome State Fault Refusal := issue (.callr f) f never (jumpReg true f) s
/-- RET (R113, R114). -/
def execRet (f : Fields) (s : State) : Host.Outcome State Fault Refusal := issue (.ret f) f never (jumpReg false f) s

/-! ### Loops (R115-R118) -/

/-- The loop level an operand names. -/
def loopIx (o : Opd) : Fin 2 := match o with | .cr .lc1 => 1 | _ => 0

/-- LOOP (R115). -/
def execLoopI (f : Fields) (s : State) : Host.Outcome State Fault Refusal :=
  issue (.loopI f) f never (fun s =>
    let l := loopIx f.a
    let cnt : BitVec 32 := (s.hart.opd f.b).setWidth 32
    let ls := s.hart.pc + 12
    let le := target s.hart.pc f
    let s := s.modMe fun x =>
      { x with
        lc := x.lc.set l.val cnt, ls := x.ls.set l.val ls, le := x.le.set l.val le,
        force := x.force.set l.val (if cnt = 0 then none else some (ls, le)) }
    if cnt = 0 then .jump (pastEnd le) s else .ok s) s

/-- LBRK (R117). -/
def execLbrk (f : Fields) (s : State) : Host.Outcome State Fault Refusal :=
  issue (.lbrk f) f never (fun s =>
    let l := loopIx f.a
    let x := s.me
    let le := if x.lc[l] = 0 then x.le[l] else (x.pair l).2
    .jump (pastEnd le) (s.modMe fun x => { x with lc := x.lc.set l.val 0, force := x.force.set l.val none })) s

/-! ### Ending, waiting, halting (R120-R122) -/

/-- The ending of `done` and `halt`: the release enters, the context waits and ends when nothing of it is open. -/
def ending (i : Instr) (f : Fields) (scope : Nat) (x : Bool) (w : Nat → CWait) (s : State) : Res :=
  let (k, c) := s.kc
  match s.me.wait with
  | .finish _ | .halting _ => .hold (s.endCtx k c)
  | _ =>
    match s.release k c scope (x || s.me.mmrev == 1) with
    | none => .hold s
    | some (id, s) =>
      let s := (s.retire k c i f true []).modCtx k c fun x => { x with wait := w id, swEnd := f.hd.sw }
      .hold (s.endCtx k c)

/-- DONE (R120). -/
def execDoneI (f : Fields) (s : State) : Host.Outcome State Fault Refusal :=
  issue (.doneI f) f never (ending (.doneI f) f f.sc.toNat f.xq CWait.finish) s

/-- `wait.unack`'s condition is not met (R121). -/
def unackWait (s : State) : Bool := !s.me.pend.isEmpty
/-- `wait.eng`'s condition is not met. -/
def engWait (s : State) : Bool := s.myCore.engineBusy s.kc.2 || s.myCore.drayFailed s.kc.2

/-- WAIT.UNACK (R121). -/
def execWaitUnack (f : Fields) (s : State) : Host.Outcome State Fault Refusal :=
  issue (.waitUnack f) f unackWait (fun s => .ok s) s
/-- WAIT.ENG (R121). -/
def execWaitEng (f : Fields) (s : State) : Host.Outcome State Fault Refusal :=
  issue (.waitEng f) f engWait (fun s => .ok s) s
/-- WAIT.ALL (R121). -/
def execWaitAll (f : Fields) (s : State) : Host.Outcome State Fault Refusal :=
  issue (.waitAll f) f (fun s => unackWait s || engWait s) (fun s => .ok s) s
/-- The deadline of `wait.time` has not come (R121). -/
def timeWait (f : Fields) (s : State) : Bool := s.myCore.cyc.ult (s.hart.opd f.b)
/-- WAIT.TIME (R121). -/
def execWaitTime (f : Fields) (s : State) : Host.Outcome State Fault Refusal :=
  issue (.waitTime f) f (timeWait f) (fun s => .ok s) s

/-- HALT (R122). -/
def execHalt (f : Fields) (s : State) : Host.Outcome State Fault Refusal :=
  issue (.halt f) f never (ending (.halt f) f 0 false CWait.halting) s

/-! ### Control registers (R123) -/

/-- An access to fflags waits for every earlier instruction that can raise a flag (R71). -/
def csrWait (r : Opd) (s : State) : Bool :=
  match r with
  | .cr .fflags =>
    let co := s.myCore
    let c := s.kc.2
    let mine := fun (e : DrayEntry) => e.ctx == c && (match e.op with | .dcopy .. => false | _ => true)
    let anv := fun (e : AnvEntry) => e.ctx == c && e.op.raises
    !s.onFarrier && (s.me.flagsDue || co.anvil.any anv || co.anvRun.any (fun e => anv e.1) || co.dray.any mine ||
      co.drayRun.any mine)
  | _ => false

/-- A write of a control register: the new value from the old one and v. -/
def csrUpdate (i : Instr) (f : Fields) (new : W64 → W64 → W64) (s : State) : Res :=
  match f.a with
  | .cr r =>
    let old := s.csr r
    let v := new old (s.hart.opd f.b)
    match csrValueTrap i s r v with
    | some (cause, ea) => .trap cause ea
    | none => .ok ((s.setCsr r v).modHart fun h => h.dest f.c old)
  | _ => .ok s

/-- CSRR (R123). -/
def execCsrr (f : Fields) (s : State) : Host.Outcome State Fault Refusal :=
  issue (.csrr f) f (csrWait f.b) (fun s =>
    .ok (s.modHart fun h => h.dest f.a (match f.b with | .cr r => s.csr r | _ => 0))) s
/-- CSRW (R123). -/
def execCsrw (f : Fields) (s : State) : Host.Outcome State Fault Refusal :=
  issue (.csrw f) f (csrWait f.a) (csrUpdate (.csrw f) f fun _ v => v) s
/-- CSRS (R123). -/
def execCsrs (f : Fields) (s : State) : Host.Outcome State Fault Refusal :=
  issue (.csrs f) f (csrWait f.a) (csrUpdate (.csrs f) f fun old v => old ||| v) s
/-- CSRC (R123). -/
def execCsrc (f : Fields) (s : State) : Host.Outcome State Fault Refusal :=
  issue (.csrc f) f (csrWait f.a) (csrUpdate (.csrc f) f fun old v => old &&& ~~~v) s

/-! ### System calls, breakpoints, return (R124, R125) -/

/-- SYS (R124). -/
def execSysI (f : Fields) (s : State) : Host.Outcome State Fault Refusal :=
  issue (.sysI f) f never (fun _ => .trap 0x17 (f.mi.setWidth 64) true) s
/-- BRK (R124). -/
def execBrk (f : Fields) (s : State) : Host.Outcome State Fault Refusal :=
  issue (.brk f) f never (fun _ => .trap 0x16 (f.mi.setWidth 64)) s
/-- ERET (R125); to a releasing instruction that took a count mismatch, its write-backs go again (R227). -/
def execEret (f : Fields) (s : State) : Host.Outcome State Fault Refusal :=
  issue (.eret f) f never (fun s =>
    let x := s.me
    if x.epc.toNat % 12 ≠ 0 then .trap 0x05 (x.epc.setWidth 64) else .jump x.epc ((s.modMe Ctx.eret).sendAgain s.kc.1 s.kc.2 x.epc)) s

end Sys2Proof.Machine
end

