-- ==== Sys2Proof/Machine/Memory.lean ====
section
/-! DEFINITION. Machine/Memory.lean: the memory group (R237-R252), and `ld` and `st` of a farrier (R318). -/

namespace Sys2Proof.Machine

/-- A global place leads, as the tables stand at issue, to a home the core may not or cannot reach (R190, R300): looked at in pieces
of 64 bytes. What a later walk finds is checked again when it ends. -/
def State.farHome (s : State) (wr : Bool) (va : W64) (size : Nat) : Bool :=
  let k := s.kc.1
  (List.range ((size + 63) / 64)).any fun j =>
    match (s.translate k wr false (!s.me.sup) [] (va.toNat + 64 * j)).1 with
    | .ok pa => badHome (pkgOf k) pa || !s.reaches (pkgOf k) (homePkg pa)
    | _ => false

/-- The checks at issue, in order: alignment, range and target, protection (R239). -/
def State.check (s : State) (wr af : Bool) (ea : W64) (align size : Nat) : Except Cause Tgt :=
  if ea.toNat % align ≠ 0 then .error 0x05
  else match s.place s.kc.1 (!s.me.sup) af ea size with
    | .ok (.glob va) => if s.farHome wr va size then .error 0x07 else .ok (.glob va)
    | r => r

/-- A memory instruction waits for an acquire atomic of its context (R217). -/
def memWait (s : State) : Bool := !s.onFarrier && s.acqWait
/-- One that enters the store stream waits for a queue fence too (R284). -/
def storeWait (s : State) : Bool := memWait s || storeFence s

/-- An instruction held has no effect (R261). -/
def Res.heldAt (r : Res) (s : State) : Res := match r with | .hold _ => .hold s | r => r

/-- An access of layout M1: checks, the post-increment at issue (R238), the access. -/
def memM1 (i : Instr) (f : Fields) (align size : Nat) (kind : State → AKind) (parts : State → W64 → Tgt → List Part)
    (counted : Bool) (s : State) : Res :=
  let ea := s.hart.ea f
  match s.check counted f.af1 ea align size with
  | .error c => .trap c ea
  | .ok tgt =>
    let ps := parts s ea tgt
    let kd := kind s
    (launch i f kd ps counted (!counted) none s.myCore.relIds (s.modHart (·.postInc f))).heldAt s

/-- Bytes all wanted. -/
def want (n : Nat) : List (Option Byte) := List.replicate n (some 0)
/-- Bytes all given. -/
def giveBytes (bs : List Byte) : List (Option Byte) := bs.map some

/-- A place further on. -/
def Tgt.plus (t : Tgt) (n : Nat) : Tgt := match t with | .bank k o => .bank k (o + n) | .glob a => .glob (a + BitVec.ofNat 64 n)
def Tgt.isBank : Tgt → Bool | .bank _ _ => true | _ => false

/-! ### Scalar (R241), on a core and on a farrier (R318) -/

/-- Bytes of an access of SZ. -/
def szBytes (sz : BitVec 3) : Nat := 2 ^ (sz.extractLsb' 1 2).toNat

/-- What a farrier's address names. -/
inductive FarMem where
  | buf (off : Nat)
  | scratch (off : Nat)
  | phys (pa : Nat)
deriving DecidableEq, Repr

/-- The checks of a farrier's `ld` and `st` (R318). -/
def farPlace (af : Bool) (ea : W64) (n : Nat) : Except Cause FarMem :=
  if ea.toNat % n ≠ 0 then .error 0x05
  else if af then (if ea.toNat < 2 ^ 58 then .ok (.phys ea.toNat) else .error 0x08)
  else if ea.toNat < 0x100 then .ok (.buf ea.toNat)
  else if 0x1000 ≤ ea.toNat ∧ ea.toNat < 0x5000 then .ok (.scratch (ea.toNat - 0x1000))
  else .error 0x08

/-- A transfer buffer of a thread. -/
def Thread.bufData (t : Thread) (b : Nat) : Buf := t.buf[b]?.getD {}
def Thread.setBuf (t : Thread) (b : Nat) (x : Buf) : Thread := { t with buf := t.buf.setIfInBounds b x }

def State.farLoad (s : State) (m : FarMem) (n : Nat) : List Byte :=
  let (f, t) := s.ft
  match m with
  | .buf o => ((bytesB ((s.thread f t).bufData (o / 64)).data).drop (o % 64)).take n
  | .scratch o => memRead (s.far f).scratch o n
  | .phys pa => memRead s.mem (s.memAt pa) n

def State.farStore (s : State) (m : FarMem) (bs : List Byte) : State :=
  let (f, t) := s.ft
  match m with
  | .buf o =>
    s.modThread f t fun th =>
      let b := th.bufData (o / 64)
      let mask : B512 := BitVec.ofNat 512 (widenMask 64 (byteMask o (giveBytes bs)).toNat)
      th.setBuf (o / 64) { b with data := mergeBits mask b.data (byteData o (giveBytes bs)) }
  | .scratch o => s.modFar f fun fr => { fr with scratch := memWrite fr.scratch o (giveBytes bs) }
  | .phys pa => s.homeWrite (pa / 64) (byteMask pa (giveBytes bs)) (byteData pa (giveBytes bs)) none

/-- LD (R241, R318). -/
def execLd (f : Fields) (s : State) : Host.Outcome State Fault Refusal :=
  issue (.ld f) f memWait (fun s =>
    let n := szBytes f.sz
    if s.onFarrier then
      match farPlace f.af1 (s.hart.ea f) n with
      | .error c => .trap c (s.hart.ea f)
      | .ok m => .ok (farDeliver f [.g (gIx f.a) (extLoad f.sz (s.farLoad m n))] (s.modHart (·.postInc f)))
    else
      memM1 (.ld f) f n n (fun _ => .ld f.sz (gIx f.a)) (fun _ ea tgt => [newPart ea tgt 0 (want n)]) false s) s

/-- ST (R241, R318). -/
def execSt (f : Fields) (s : State) : Host.Outcome State Fault Refusal :=
  issue (.st f) f storeWait (fun s =>
    let n := szBytes f.sz
    let bs := leBytes n (s.hart.opd f.a).toNat
    if s.onFarrier then
      match farPlace f.af1 (s.hart.ea f) n with
      | .error c => .trap c (s.hart.ea f)
      | .ok m => .ok ((s.farStore m bs).modHart (·.postInc f))
    else
      memM1 (.st f) f n n (fun _ => .st) (fun _ ea tgt => [newPart ea tgt 0 (giveBytes bs)]) true s) s

/-! ### Vector (R242, R243, R165) -/

/-- The bytes a vector access moves: `mask` byte i governs byte i of each plane. -/
def maskBytes (mask : BitVec 128) (bs : List Byte) : List (Option Byte) :=
  bs.zipIdx.map fun e => if mask.getLsbD e.2 then some e.1 else none

/-- Elements of one plane in pieces of `n` bytes, those with an enabled byte; each fails with its own address (R240, log 80). -/
def planeParts (ea : W64) (tgt : Tgt) (p n : Nat) (bs : List (Option Byte)) : List Part :=
  ((List.range (128 / n)).map fun h =>
    newPart (ea + BitVec.ofNat 64 (128 * p + n * h)) (tgt.plus (128 * p + n * h)) (128 * p + n * h) ((bs.drop (n * h)).take n)).filter fun q => q.bytes.any Option.isSome

/-- VLD (R242, R165). -/
def execVld (f : Fields) (s : State) : Host.Outcome State Fault Refusal :=
  issue (.vld f) f memWait (fun s =>
    let k := s.me.jord.toNat
    let regs := groupRegs k f.a
    let mask := s.me.mask f.mk1
    let ea := s.hart.ea f
    match s.check false f.af1 ea 128 (128 * (k + 1)) with
    | .error c => .trap c ea
    | .ok _ =>
      let lines := if f.bit 27 && mask != 0 then (List.range (k + 1)).map fun p => ea.toNat / 128 + p else []
      if s.fillOpen lines then .hold (s.awaitFill lines none)
      else
        memM1 (.vld f) f 128 (128 * (k + 1)) (fun _ => .vld (regs.take (k + 1)) (f.bit 29) (regs.drop (k + 1)))
          (fun _ ea tgt => (List.range (k + 1)).flatMap fun p =>
            planeParts ea tgt p 64 (maskBytes mask (List.replicate 128 0))) false s) s

/-- VST (R242, R165). -/
def execVst (f : Fields) (s : State) : Host.Outcome State Fault Refusal :=
  issue (.vst f) f storeWait (fun s =>
    let k := s.me.jord.toNat
    let regs := (groupRegs k f.a).take (k + 1)
    let mask := s.me.mask f.mk1
    memM1 (.vst f) f 128 (128 * (k + 1))
      (fun s => .vst (regs.flatMap fun r => [vsDesc s.me.vs[r] 0, vsDesc s.me.vs[r] 1]))
      (fun s ea tgt => regs.zipIdx.flatMap fun e =>
        planeParts ea tgt e.2 (if tgt.isBank then 128 else 64) (maskBytes mask (leBytes 128 s.me.v[e.1].toNat))) true s) s

/-- The address of element e of a gather or scatter (R243). -/
def gatherEa (s : State) (f : Fields) (e : Nat) : W64 :=
  let idx := (s.me.v[vIx f.c].extractLsb' (32 * e) 32)
  s.hart.opd f.b + (idx.signExtend 64 <<< f.bits 18 2)

/-- The enabled elements of w bytes. -/
def enabledElems (mask : BitVec 128) (w : Nat) : List Nat := (List.range (128 / w)).filter fun e => mask.getLsbD (e * w)

/-- Checks element by element, and the parts; the first failing element decides (R239). -/
def gatherParts (s : State) (wr : Bool) (f : Fields) (w : Nat) (data : Nat → List (Option Byte)) :
    Except (Cause × W64) (List Part) :=
  (enabledElems (s.me.mask f.mkn) w).foldl (fun r e =>
    match r with
    | .error x => .error x
    | .ok ps =>
      let ea := gatherEa s f e
      match s.check wr f.af3 ea w w with
      | .error c => .error (c, ea)
      | .ok tgt => .ok (ps ++ [newPart ea tgt (e * w) (data e)])) (.ok [])

/-- VLDX (R243). -/
def execVldx (f : Fields) (s : State) : Host.Outcome State Fault Refusal :=
  issue (.vldx f) f memWait (fun s =>
    let w := if f.ty == 0xC then 8 else 4
    match gatherParts s false f w fun _ => want w with
    | .error (c, ea) => .trap c ea
    | .ok ps =>
      let lines := if f.fw then (ps.map fun p => p.ea.toNat / 128).eraseDups else []
      if s.fillOpen lines then .hold (s.awaitFill lines none)
      else launch (.vldx f) f (.vldx (vIx f.a) w (f.bit 20)) ps false true none s.myCore.relIds s) s

/-- VSTX (R243). -/
def execVstx (f : Fields) (s : State) : Host.Outcome State Fault Refusal :=
  issue (.vstx f) f storeWait (fun s =>
    let w := if f.ty == 0xC then 8 else 4
    let x := leBytes 128 s.me.v[vIx f.a].toNat
    match gatherParts s true f w fun e => giveBytes ((x.drop (e * w)).take w) with
    | .error (c, ea) => .trap c ea
    | .ok ps =>
      launch (.vstx f) f (.vstx ⟨if f.ty == 0xC then 0 else f.ty.setWidth 8, 0x7F⟩) ps true false none s.myCore.relIds s) s

/-! ### Blocks and metadata (R244, R245) -/

/-- H of a block access. -/
def hHalf (f : Fields) : Nat := if f.bit 24 then 1 else 0

/-- LDBLK (R244). -/
def execLdblk (f : Fields) (s : State) : Host.Outcome State Fault Refusal :=
  issue (.ldblk f) f memWait (memM1 (.ldblk f) f 64 64 (fun _ => .ldblk (vIx f.a) (f.bit 24))
    (fun _ ea tgt => [newPart ea tgt (64 * hHalf f) (want 64)]) false) s

/-- STBLK (R244). -/
def execStblk (f : Fields) (s : State) : Host.Outcome State Fault Refusal :=
  issue (.stblk f) f storeWait (memM1 (.stblk f) f 64 64 (fun s => .stblk (vsDesc s.me.vs[vIx f.a] (hHalf f)))
    (fun s ea tgt =>
      [newPart ea tgt 0 (giveBytes (((leBytes 128 s.me.v[vIx f.a].toNat).drop (64 * hHalf f)).take 64))]) true) s

/-- LDMETA (R245). -/
def execLdmeta (f : Fields) (s : State) : Host.Outcome State Fault Refusal :=
  issue (.ldmeta f) f memWait (memM1 (.ldmeta f) f 1 1 (fun _ => .ldmeta (gIx f.a))
    (fun _ ea tgt => [newPart ea tgt 0 []]) false) s

/-- STMETA (R245). -/
def execStmeta (f : Fields) (s : State) : Host.Outcome State Fault Refusal :=
  issue (.stmeta f) f storeWait (memM1 (.stmeta f) f 1 1
    (fun s => let x := s.hart.opd f.a; .stmeta ⟨x.extractLsb' 0 8, x.extractLsb' 8 8⟩)
    (fun _ ea tgt => [newPart ea tgt 0 []]) true) s

/-! ### Phase and fence (R246) -/

/-- PHASE (R246, R224). -/
def execPhase (f : Fields) (s : State) : Host.Outcome State Fault Refusal :=
  issue (.phase f) f
    (fun s => s.myCore.accs.any fun a => a.ctx == s.kc.2 && (a.kind.isAtomic || (a.kind.isLoad &&
      match a.kind with | .pref _ => false | _ => true)))
    (fun s =>
      let (k, c) := s.kc
      match s.release k c f.sc.toNat (f.xq || s.me.mmrev == 1) with
      | none => .hold s
      | some (_, s) => .ok (s.acquire k c f.sc.toNat)) s

/-- A counted access is performed at core scope: a plain store, every byte of which stands in its core's L1 (R210). -/
def State.inOwnL1 (s : State) (k : CoreId) (id : Nat) : Bool :=
  match s.acc? k id with
  | some a => !a.through && a.parts.all fun p => p.stage.settled || s.inL1 k a p
  | none => false

/-- An access counted in unack is not yet performed at a scope (R210, R246): at scopes beyond the core whatever is counted is awaited,
since a store leaves unack only under a writable tag or as its farrier has settled it (log 17). -/
def State.fenceOpen (s : State) (scope : Nat) : Bool :=
  s.me.pend.any fun id => !(scope == 0 && s.inOwnL1 s.kc.1 id)

/-- FENCE (R246): ready once every access counted in unack is performed at its scope; at once on a farrier. -/
def execFence (f : Fields) (s : State) : Host.Outcome State Fault Refusal :=
  issue (.fence f) f (fun s => !s.onFarrier && s.fenceOpen f.sc.toNat) (fun s => .ok s) s

/-! ### Atomics (R247-R250) -/

/-- An atomic leaves: its release, if ordered, enters first (R217). -/
def atomRun (i : Instr) (f : Fields) (kind : AKind) (align : Nat) (s : State) : Res :=
  let (k, c) := s.kc
  let ea := s.hart.opd f.b
  match s.check true f.af3 ea align align with
  | .error e => .trap e ea
  | .ok tgt =>
    let go := fun (s : State) =>
      launch i f kind [newPart ea tgt 0 (want align)] true true (if f.ordAcq then some f.sc else none) s.myCore.relIds s
    if f.ordRel then
      match s.release k c f.sc.toNat f.xq with
      | none => .hold s
      | some (_, s') => (go s').heldAt s
    else go s

/-- The atomics of R247 on a word of TY. -/
def atomic (i : Instr) (f : Fields) (op : AtOp) (s : State) : Host.Outcome State Fault Refusal :=
  issue i f storeWait (fun s =>
    let w := tyWidth f.ty
    let dst := match f.a with | .g r => some r | _ => none
    atomRun i f (.atomic op w dst (BitVec.ofNat 64 (s.hart.elem f.ty f.c)) (s.hart.opd f.a)) (w / 8) s) s

/-- AADD (R247). -/
def execAadd (f : Fields) (s : State) : Host.Outcome State Fault Refusal := atomic (.aadd f) f .add s
/-- AAND (R247). -/
def execAand (f : Fields) (s : State) : Host.Outcome State Fault Refusal := atomic (.aand f) f .and s
/-- AOR (R247). -/
def execAor (f : Fields) (s : State) : Host.Outcome State Fault Refusal := atomic (.aor f) f .or s
/-- AXOR (R247). -/
def execAxor (f : Fields) (s : State) : Host.Outcome State Fault Refusal := atomic (.axor f) f .xor s
/-- AMIN (R247). -/
def execAmin (f : Fields) (s : State) : Host.Outcome State Fault Refusal := atomic (.amin f) f .min s
/-- AMAX (R247). -/
def execAmax (f : Fields) (s : State) : Host.Outcome State Fault Refusal := atomic (.amax f) f .max s
/-- AXCHG (R247). -/
def execAxchg (f : Fields) (s : State) : Host.Outcome State Fault Refusal := atomic (.axchg f) f .xchg s
/-- ACAS (R247). -/
def execAcas (f : Fields) (s : State) : Host.Outcome State Fault Refusal := atomic (.acas f) f .cas s
/-- AFADD (R247). -/
def execAfadd (f : Fields) (s : State) : Host.Outcome State Fault Refusal := atomic (.afadd f) f .fadd s

/-- OPB of `ablk`. -/
def opbOf (n : Nat) : AtOp :=
  match n with | 0 => .add | 1 => .and | 2 => .or | 3 => .xor | 4 => .min | 5 => .max | _ => .xchg

/-- ABLK (R249). -/
def execAblk (f : Fields) (s : State) : Host.Outcome State Fault Refusal :=
  issue (.ablk f) f storeWait (fun s =>
    let dst := match f.a with | .v r => some r | _ => none
    atomRun (.ablk f) f (.ablk (opbOf (f.bits 18 3)) f.ty dst (s.me.v[vIx f.c].setWidth 512)) 64 s) s

/-! ### Prefetch and fill bits (R251, R252) -/

/-- PREF (R251). -/
def execPref (f : Fields) (s : State) : Host.Outcome State Fault Refusal :=
  issue (.pref f) f memWait (fun s =>
    let ea := s.hart.ea f
    let s := s.modHart (·.postInc f)
    if ea.extractLsb' 57 7 ≠ 0 then .ok s
    else
      let ea := ea &&& ~~~0x3F#64
      launch (.pref f) f (.pref (f.bits 24 2 == 1)) [newPart ea (.glob ea) 0 (want 64)] false false none s.myCore.relIds s) s

/-- The lines `fset` and `fclr` name. -/
def fillRun (i : Instr) (f : Fields) (b : Bool) (s : State) : Res :=
  let ea := s.hart.opd f.b + f.imm24
  let n := (s.hart.opd f.c).toNat
  if ea.toNat % 128 ≠ 0 then .trap 0x05 ea
  else if 0x20000 < ea.toNat + 128 * n then .trap 0x08 ea
  else if n = 0 then .ok s
  else launch i f (.fillBits b n) [newPart ea (.bank s.kc.1 ea.toNat) 0 []] false false none s.myCore.relIds s

/-- FSET (R252). -/
def execFset (f : Fields) (s : State) : Host.Outcome State Fault Refusal := issue (.fset f) f memWait (fillRun (.fset f) f true) s
/-- FCLR (R252). -/
def execFclr (f : Fields) (s : State) : Host.Outcome State Fault Refusal := issue (.fclr f) f memWait (fillRun (.fclr f) f false) s

end Sys2Proof.Machine
end

