-- ==== Sys2Proof/Machine/Dray.lean ====
section
/-! DEFINITION. Machine/Dray.lean: the dray, its queue and its commands (R220, R221, R254, R272-R276). -/

namespace Sys2Proof.Machine

/-! ### Slot records (R277-R279) -/

/-- The consumer core and buffer a slot handle names (R277). A handle with bit 63 clear, a global address, has the cause of one whose
OFF[16:3] is nonzero, 0x08: R277 names none (DESIGN CHOICE, log 93). -/
def State.slotHandle (s : State) (k : CoreId) (h : W64) : Except Cause (CoreId × Fin 8) :=
  if !h.getLsbD 63 || h.extractLsb' 3 14 != 0 then .error 0x08
  else match s.windowCore k h with
    | none => .error 0x08
    | some j => .ok (j, (h.extractLsb' 0 3).toFin)

/-- The producer record of a handle. -/
def Core.prodRec (co : Core) (j : CoreId) (b : Fin 8) : Option ProdRec := co.prods.find? fun r => r.cons == j && r.buf == b

/-- A free slot is taken (R279): the absolute address of slot `fill`; none where no slot is free. -/
def State.takeSlot (s : State) (k : CoreId) (r : ProdRec) : Option (W64 × State) :=
  if r.free = 0 then none
  else
    let r' := { r with free := r.free - 1, fill := (r.fill + 1) % r.cnt }
    some (absAddr r.cons (r.base + r.fill * r.size),
      s.modCore k fun co => { co with prods := co.prods.map fun x => if x = r then r' else x })

/-! ### The running entry -/

def State.modDray (s : State) (k : CoreId) (f : DrayEntry → DrayEntry) : State :=
  s.modCore k fun co => { co with drayRun := co.drayRun.map f }

/-- The command stops: its cause is reported, and the context's later entries are discarded; blocks that have left for another core
stay on their way (R273). -/
def State.drayStop (s : State) (k : CoreId) (e : DrayEntry) (cause : Cause) (ea : W64) : State :=
  s.modCore k fun co =>
    { co with
      drayRun := none, dray := co.dray.filter fun d => d.ctx != e.ctx,
      drayBad := co.drayBad ++ [⟨e.id, e.ctx, e.user, cause, ea, e.early⟩] }

/-- What an access of the dray comes to. -/
inductive DGet where
  | got (b : Buf) (s : State)
  | hold (s : State)
  | stop (cause : Cause) (ea : W64)

/-- The dray's block parks; it takes no place that an instruction on its way may need (R261, R273). -/
def State.parkDray (s : State) (k : CoreId) (va : W64) (owned wr : Bool) (page : Nat) : State :=
  match (if 4096 ≤ s.poolLoad (dieOf k) then none else s.park (dieOf k) (.dray k) owned wr page) with
  | some s => (s.modDray k fun e => { e with stage := some (.parked owned), va := va }).perfEv k 0x11 ((s.core k).drayRun.map (·.ctx))
  | none => s

/-- The translation of the running entry's address; `wr` for a write (R273). -/
def State.drayWalk (s : State) (k : CoreId) (e : DrayEntry) (va : W64) (wr : Bool) : Except DGet (Nat × State) :=
  match s.tlbSeek k wr false e.user va.toNat with
  | none =>
    if s.walkerFull (dieOf k) then .error (.hold s)
    else land (s.walkAgain k wr false e.user (e.sats.map fun x => (x.1, bytesB x.2.data)) va.toNat)
  | some r => land r
where
  land : Walk × State → Except DGet (Nat × State)
  | (.ok pa, s) => if badHome (pkgOf k) pa || !s.reaches (pkgOf k) (homePkg pa) then .error (.stop 0x07 va) else .ok (pa, s)
  | (.denied, _) => .error (.stop 0x06 va)
  | (.miss, s) =>
    if !e.user then .error (.stop 0x06 va) else .error (.hold (s.parkDray k va false wr (va.toNat / 2 ^ 16 % 2 ^ 41)))
  | (.owned n, s) => .error (.hold (s.parkDray k va true wr n))
  | (.susp pa, s) =>
    .error (.hold ((s.modDray k fun e => { e with stage := some (.walkSusp pa []), va := va }).post (pkgOf k) (dieOf k) 0x00 (pa / 64)
      true (.dray k) 0 0 none))
  | (.wait, s) => .error (.hold s)

/-- A block access at the L2 of a die or at the home: its region and ownership, then `go` (R288, R296). -/
def State.drayCheck (s : State) (k : CoreId) (at' : DieId) (va : W64) (pa : Nat) (wr : Bool) (go : State → DGet) : DGet :=
  match s.regionOf (at' / 8) pa with
  | none => .stop 0x07 va
  | some (n, r) =>
    if r.hostOwned then .hold (s.parkDray k va true wr n)
    else if s.rebinding (at' / 8) n then .hold s
    else go s

/-- What the running entry does in another package: its request travels there, `act` is done, and the reply travels back (R399). -/
def State.drayTrip (s : State) (k : CoreId) (e : DrayEntry) (ea : W64) (q : PkgId) (key : Nat) (act : State → DGet) : DGet :=
  let put := fun (t : W64 × Nat × Option Buf) (s : State) =>
    s.modDray k fun e => { e with trips := e.trips.filter (fun x => x.1 != ea) ++ [t] }
  if q = pkgOf k then act s
  else match e.trips.find? fun t => t.1 == ea with
  | some (_, n, r) =>
    if s.inFab n then .hold s
    else match r with
      | some b => .got b s
      | none => match act s with
        | .got b s =>
          let (m, s) := s.newId
          .hold (put (ea, m, some b) (s.ship q (pkgOf k) m key true .plain))
        | r => r
  | none =>
    let (n, s) := s.newId
    .hold (put (ea, n, none) (s.ship (pkgOf k) q n k false .plain))

/-- A block read by the running entry (R221, R272, R273). -/
def State.drayRead (s : State) (k : CoreId) (e : DrayEntry) (ea : W64) (af : Bool) : DGet :=
  match s.place k e.user af ea 64 with
  | .error c => .stop c ea
  | .ok (.bank j off) =>
    s.drayTrip k e ea (pkgOf j) j fun s =>
      if j ≠ k ∧ ((s.core j).closed ∨ (s.core k).drayOut.any fun w => w.dst == j) then .hold s
      else .got ⟨blockOf ((s.core j).locRead off 64), (s.core j).locDesc off⟩ s
  | .ok (.glob va) =>
    match s.drayWalk k e va false with
    | .error r => r
    | .ok (pa, s) =>
      match e.sats.lookup (pa / 64) with
      | some b => .got b s
      | none =>
        let d := dieOf k
        s.drayCheck k d va pa false fun s =>
          if tagReads (s.dieTag d (pa / 64)) then .got (s.dieBuf d (pa / 64)) s
          else
            .hold ((s.modDray k fun e => { e with stage := some (.susp pa), va := va }).post (d / 8) d 0x00 (pa / 64) (!e.user)
              (.dray k) 0 0 none)

/-- The MI of the `ablk.add` that `dscad` sends (R276, R249). -/
def dscadMi (ty : BitVec 4) : W64 := ty.setWidth 64 ||| 0x20000

/-- The `ablk.add` of `dscad` at a bank (R249, R276): its flags, or the cause it ends in. -/
def State.bankAdd (s : State) (j : CoreId) (off : Nat) (ty : BitVec 4) (x : B512) : Except Cause (Fl × State) :=
  match atomOn (.ablk .add ty none x) false off ⟨blockOf ((s.core j).locRead off 64), (s.core j).locDesc off⟩ with
  | .error c => .error c
  | .ok (mask, data, desc, _, fl) =>
    .ok (fl, (s.bankWrite j off (maskedBytes mask data) false).modCore j fun co => co.setLocDesc off (desc.getD {}))

/-- A formed block written by the running entry; got where it is done (R272, R273, R276). An add of `dscad` makes its block check on a
CXL-homed block too, against the description that R272 gives it, where R249 exempts `ablk` (DESIGN CHOICE, log 91). -/
def State.drayWrite (s : State) (k : CoreId) (e : DrayEntry) (o : DrayOut) : DGet :=
  let done := fun (s : State) => DGet.got {} s
  match s.place k e.user o.af o.ea 64 with
  | .error c => .stop c o.ea
  | .ok (.bank j off) =>
    if j ≠ k then
      let (n, s) := s.newId
      let s := s.ship (pkgOf k) (pkgOf j) n k false .plain
      done (s.modCore k fun co => { co with drayOut := co.drayOut ++ [⟨n, e.id, e.ctx, o.ea, j, off, o.data, o.desc, o.full, o.add, none⟩] })
    else match o.add with
      | some ty => match s.bankAdd k off ty o.data with
        | .error c => .stop c o.ea
        | .ok (fl, s) => done (s.modDray k fun e => { e with flags := e.flags ||| fl })
      | none =>
        let s := s.bankWrite k off ((bytesB o.data).map some) false
        done (match o.desc with | some d => s.modCore k fun co => co.setLocDesc off d | none => s)
  | .ok (.glob va) =>
    match s.drayWalk k e va true with
    | .error r => r
    | .ok (pa, s) =>
      let blk := pa / 64
      let at' := if !isHbm pa || s.armed pa || o.add.isSome then homeDie pa else dieOf k
      -- a home in another package is reached over the fabric
      s.drayTrip k e va (at' / 8) (sliceKey at' pa) fun s => s.drayCheck k at' va pa true fun s =>
        if !tagWrites (s.dieTag at' blk) then
          let s := s.modDray k fun e => { e with stage := some (.susp pa), va := va }
          match o.add with
          | some ty => .hold (s.post (at' / 8) (dieOf k) 0x03 blk (!e.user) (.dray k) (dscadMi ty) 0 (some ⟨o.data, {}⟩))
          | none =>
            .hold (s.post (at' / 8) at' 0x02 blk (!e.user) (.dray k) (BitVec.allOnes 64) 0
              (some ⟨o.data, o.desc.getD (s.dieBuf at' blk).desc⟩))
        else match o.add with
          | none => done (s.dieWrite at' blk (BitVec.allOnes 64) o.data o.desc)
          | some ty =>
            match atomOn (.ablk .add ty none o.data) false pa (s.homeBuf blk) with
            | .error c => .stop c va
            | .ok (mask, data, desc, _, fl) =>
              done ((s.homeWrite blk mask data desc).modDray k fun e => { e with flags := e.flags ||| fl })

/-! ### What a command forms (R274-R276) -/

/-- Outputs a command forms. -/
def DrayOp.count : DrayOp → Nat
  | .dcopy _ _ n .. => n / 64
  | .dgath _ _ cnt _ _ _ _ pool .. => cnt / pool
  | .dscad _ cnt .. => cnt

/-- Blocks of one output. -/
def DrayOp.width : DrayOp → Nat
  | .dcopy .. => 1
  | .dgath _ _ _ _ _ _ row .. => row
  | .dscad _ _ _ _ _ _ row .. => row

/-- The lines of a range of bytes. -/
def rangeLines (off n : Nat) : List Nat :=
  (List.range (n / 128 + 2)).filterMap fun j => if 128 * (off / 128 + j) < off + n then some (off / 128 + j) else none

/-- The slot a command takes first. -/
def DrayOp.wantsSlot : DrayOp → Option W64
  | .dcopy dst _ _ _ _ _ _ slot => if slot then some dst else none
  | .dgath dst _ _ _ _ _ _ _ _ _ slot _ => if slot then some dst else none
  | _ => none

/-- The i-th index of a list, signed. -/
def Core.indexAt (co : Core) (list i : Nat) (x64 : Bool) : Int :=
  let w := if x64 then 8 else 4
  signExt (8 * w) (leNat (co.locRead (list + w * i) w))

/-- The address of a row. -/
def rowAt (base : W64) (stride : Nat) (ix : Int) : W64 := base + BitVec.ofInt 64 (ix * stride)

/-- The own-local lines that `n` bytes at an address of the command lie in: by offset, or by a local-window address of the core itself
(R188). -/
def State.ownLines (s : State) (k : CoreId) (af : Bool) (ea : W64) (n : Nat) : List Nat :=
  if !af then rangeLines ea.toNat n
  else if ea.getLsbD 63 && s.windowCore k ea == some k then rangeLines (ea.extractLsb' 0 17).toNat n
  else []

/-- Every own-local line a command with FW reads (R272): sources, index list and rows; nothing without. -/
def State.fillLines (s : State) (k : CoreId) (op : DrayOp) : List Nat :=
  match op with
  | .dcopy _ src n fw _ as_ .. => if fw then s.ownLines k as_ src n else []
  | .dgath _ list cnt base stride _ row _ fw _ _ x64 =>
    if fw then rangeLines list (cnt * if x64 then 8 else 4) ++
      (List.range cnt).flatMap fun i => s.ownLines k true (rowAt base stride ((s.core k).indexAt list i x64)) (64 * row)
    else []
  | .dscad list cnt _ src _ _ row fw x64 =>
    if fw then rangeLines list (cnt * if x64 then 8 else 4) ++ rangeLines src (cnt * row * 64) else []

/-- The block check of R272. -/
def blockCheck (ty : BitVec 4) (d : Desc) : Option Cause :=
  if d.fmt = 0xFF then some 0x09 else if d.fmt = 0 ∨ d.fmt = ty.setWidth 8 then none else some 0x11

/-- The elements of an interpreted block; FMT 0x00 applies no scale. -/
def blockElems (ty : BitVec 4) (b : Buf) : List FV :=
  let w := tyWidth ty
  (List.range (512 / w)).map fun e =>
    elemValue (ty == 0xA) ty.toNat (b.data.toNat / 2 ^ (w * e) % 2 ^ w) (if b.desc.fmt = 0 then 0x7F else b.desc.scale.toNat)

/-- Pooling of the same block of several rows, in order (R275). -/
def poolBlocks (ty : BitVec 4) (bs : List Buf) : B512 × Fl :=
  let w := tyWidth ty
  let rows := bs.map (blockElems ty)
  let outs := (List.range (512 / w)).map fun e =>
    match rows.map fun r => r.getD e (.nan, 0) with
    | [] => (0, (0 : Fl))
    | x :: t =>
      if ty == 0xA then
        let toInt := fun (v : Val) => match v with | .fin s n _ => sgn s n | _ => 0
        let r := t.foldl (fun (acc : Int × Fl) (y : FV) => let z := satInt 0xA (acc.1 + toInt y.1); (z.1, acc.2 ||| z.2)) (toInt x.1, 0)
        (wrap 32 r.1, r.2)
      else
        let acc := t.foldl (fun (acc : FV) (y : FV) => let z := toFP32 (fvAdd false acc y); (decodeFloat fFP32 z.1, z.2)) x
        let z := roundTo (if ty == 7 then fBF16 else fFP32) 0 0 acc.1
        (z.1, acc.2 ||| z.2)
  (BitVec.ofNat 512 (outs.zipIdx.map fun e => e.1.1 * 2 ^ (w * e.2)).sum, outs.foldl (fun fl o => fl ||| o.2) 0)

/-- Blocks read one after another; the first that waits or fails decides. -/
def State.drayReads (k : CoreId) (e : DrayEntry) (ck : Desc → Option Cause) :
    List (W64 × Bool) → List Buf → State → Except DGet (List Buf × State)
  | [], bs, s => .ok (bs, s)
  | (ea, af) :: t, bs, s =>
    match s.drayRead k e ea af with
    | .got b s => match ck b.desc with
      | some c => .error (.stop c ea)
      | none => State.drayReads k e ck t (bs ++ [b]) s
    | r => .error r

/-- The next output of the running entry: the blocks it writes and the flags it raises. -/
def State.drayForm (s : State) (k : CoreId) (e : DrayEntry) : Except DGet (List DrayOut × Fl × State) :=
  let co := s.core k
  let at' := fun (a : W64) (n : Nat) => a + BitVec.ofNat 64 n
  match e.op with
  | .dcopy dst src _ _ ad as_ nodesc _ =>
    let d := at' (e.slot.getD dst) (64 * e.prog)
    match State.drayReads k e (fun _ => none) [(at' src (64 * e.prog), as_)] [] s with
    | .error r => .error r
    | .ok (bs, s) =>
      let b := bs.headD {}
      .ok ([{ ea := d, af := ad || e.slot.isSome, data := b.data, desc := if nodesc then none else some b.desc,
              full := d.getLsbD 6 && decide (0 < e.prog) }], 0, s)
  | .dgath dst list _ base stride ty row pool _ ad _ x64 =>
    let rows := (List.range pool).map fun j => rowAt base stride (co.indexAt list (e.prog * pool + j) x64)
    let all := (List.range row).flatMap fun b => rows.map fun r => (at' r (64 * b), true)
    match State.drayReads k e (blockCheck ty) all [] s with
    | .error r => .error r
    | .ok (bs, s) =>
      let outs := (List.range row).map fun b => poolBlocks ty ((bs.drop (b * pool)).take pool)
      .ok (outs.zipIdx.map fun o =>
        let d := at' (e.slot.getD dst) (64 * (e.prog * row + o.2))
        { ea := d, af := ad || e.slot.isSome, data := o.1.1, desc := some ⟨ty.setWidth 8, 0x7F⟩,
          full := d.getLsbD 6 && decide (0 < e.prog * row + o.2) }, outs.foldl (fun fl o => fl ||| o.2) 0, s)
  | .dscad list _ base src stride ty row _ x64 =>
    let r := rowAt base stride (co.indexAt list e.prog x64)
    let all := (List.range row).map fun b => (BitVec.ofNat 64 (src + 64 * (e.prog * row + b)), false)
    match State.drayReads k e (blockCheck ty) all [] s with
    | .error r => .error r
    | .ok (bs, s) =>
      .ok (bs.zipIdx.map fun b => { ea := at' r (64 * b.2), af := true, data := b.1.data, desc := none, add := some ty }, 0, s)

/-! ### Progress -/

/-- The dray takes the first entry of its queue that no fence point and no earlier release holds (R212, R284). -/
def State.drayStart (s : State) (k : CoreId) : State :=
  let co := s.core k
  match co.drayRun with
  | some _ => s
  | none =>
    match co.dray.find? fun e => !co.fenced e.ctx (·.dray) e.id && !co.storesOpen k e.id && !co.pendingRels e.rels false with
    | none => s
    | some e => s.modCore k fun co => { co with dray := co.dray.erase e, drayRun := some e }

/-- Room in the slot a command takes; none where it fits. -/
def DrayOp.tooBig (op : DrayOp) (size : Nat) : Bool := decide (size < op.count * op.width * 64)

/-- The running entry goes one step: its fill wait, its slot, one block written, one output formed, or its end. -/
def State.drayStep (s : State) (k : CoreId) : State :=
  let co := s.core k
  match co.drayRun with
  | none => s
  | some e =>
    let settle := fun (r : DGet) (go : Buf → State → State) => match r with
      | .got b s => go b s
      | .hold s => s
      | .stop c ea => s.drayStop k e c ea
    match e.stage with
    | some (.parked _) | some (.susp _) | some (.walkSusp _ _) => s
    | _ =>
      if !e.began && (s.fillLines k e.op).any (fun l => !co.fillBit l) then s
      else match (if e.slot.isNone then e.op.wantsSlot else none) with
      | some h =>
        match s.slotHandle k h with
        | .error c => s.drayStop k e c h
        | .ok (j, b) => match co.prodRec j b with
          | none => s.drayStop k e 0x07 h
          | some r =>
            if e.op.tooBig r.size then s.drayStop k e 0x08 h
            else match s.takeSlot k r with
              | none => s
              | some (a, s) => s.modDray k fun e => { e with slot := some a, began := true }
      | none =>
        match e.outq with
        | o :: t =>
          settle (s.drayWrite k e o) fun _ s =>
            s.modDray k fun e => { e with outq := t, stage := none, began := true, sats := [], trips := [] }
        | [] =>
          if e.prog < e.op.count then
            match s.drayForm k e with
            | .error r => settle r fun _ s => s
            | .ok (outs, fl, s) =>
              s.modDray k fun e =>
                { e with outq := outs, prog := e.prog + 1, flags := e.flags ||| fl, sats := [], trips := [], stage := none, began := true }
          else if co.drayOut.any (·.cmd == e.id) then s
          else (s.modCore k fun co => { co with drayRun := none }).modCtx k e.ctx fun x => x.raiseFlags (orFlags 0 e.flags)

/-- The addresses the running entry reaches for next: the block it writes, or the blocks of the output it forms. -/
def State.drayNext (s : State) (k : CoreId) (e : DrayEntry) : List (W64 × Bool) :=
  let at' := fun (a : W64) (n : Nat) => a + BitVec.ofNat 64 n
  match e.outq, e.op with
  | o :: _, _ => [(o.ea, o.af)]
  | [], .dcopy _ src _ _ _ as_ .. => [(at' src (64 * e.prog), as_)]
  | [], .dgath _ list _ base stride _ row pool _ _ _ x64 =>
    (List.range pool).flatMap fun j => (List.range row).map fun b =>
      (at' (rowAt base stride ((s.core k).indexAt list (e.prog * pool + j) x64)) (64 * b), true)
  | [], .dscad _ _ _ src _ _ row .. => (List.range row).map fun b => (BitVec.ofNat 64 (src + 64 * (e.prog * row + b)), false)

/-- The address at which the running entry meets an uncorrectable error of a block, at its home or at a bank (R273). -/
def State.drayHit (s : State) (k : CoreId) (e : DrayEntry) (hit : Nat ⊕ (CoreId × Nat)) : Option W64 :=
  if e.op.count ≤ e.prog && e.outq.isEmpty then none
  else ((s.drayNext k e).find? fun a => match s.place k e.user a.2 a.1 64, hit with
    | .ok (.bank j off), .inr (j', off') => j == j' && off / 64 == off' / 64
    | .ok (.glob va), .inl pa => match (s.translate k false false e.user [] va.toNat).1 with
      | .ok x => x / 64 == pa / 64
      | _ => false
    | _, _ => false).map (·.1)

/-- It stops there: with 0x0A for an atomic of `dscad` (R250), otherwise with 0x09. -/
def State.drayError (s : State) (k : CoreId) (hit : Nat ⊕ (CoreId × Nat)) : State :=
  match (s.core k).drayRun with
  | none => s
  | some e => match s.drayHit k e hit with
    | none => s
    | some ea => s.drayStop k e (if e.outq.any (·.add.isSome) then 0x0A else 0x09) ea

/-- What a dray write comes to at the banks of another core: performed, or refused by a frozen one (R255, R273, R276). -/
def State.drayPut (s : State) (w : DrayWrite) : Option Cause × BitVec 5 × State :=
  if (s.core w.dst).frozen then (some 0x08, 0, s)
  else match w.add with
    | some ty => match s.bankAdd w.dst w.off ty w.data with
      | .ok (fl, s) => (none, fl, s)
      | .error c => (some c, 0, s)
    | none =>
      (none, 0, (s.bankWrite w.dst w.off ((bytesB w.data).map some) true).modCore w.dst fun co =>
        let co := match w.desc with | some d => co.setLocDesc w.off d | none => co
        if w.full then co.setFill (w.off / 128) 1 true else co)

/-- A dray write reaches its core, and then its answer the sender. A command that has stopped by then has its cause, and hears of no
other (R273). -/
def State.drayLand (s : State) (k : CoreId) (n : Nat) : State :=
  match (s.core k).drayOut.find? fun w => w.n == n with
  | none => s
  | some w =>
    let heard := fun (r : Option Cause × BitVec 5) (s : State) =>
      let s := s.modCore k fun co => { co with drayOut := co.drayOut.filter fun x => x.n != n }
      match (s.core k).drayRun with
      | some e => if e.id ≠ w.cmd then s else match r.1 with
        | some c => s.drayStop k e c w.ea
        | none => s.modDray k fun e => { e with flags := e.flags ||| r.2 }
      | none => s
    if s.inFab n then s
    else match w.back with
    | some r => heard r s
    | none =>
      if !(s.core w.dst).takes (.dray k n) ∨
          ((s.core k).drayOut.takeWhile fun x => x.n != n).any (fun x => x.dst == w.dst && x.back.isNone) then s
      else
        let (c, fl, s) := s.drayPut w
        if pkgOf w.dst = pkgOf k then heard (c, fl) s
        else
          (s.modCore k fun co => { co with drayOut := co.drayOut.map fun x => if x.n = n then { x with back := some (c, fl) } else x }).ship
            (pkgOf w.dst) (pkgOf k) n w.dst true .plain

/-- The stopped commands reach their contexts (R273). -/
def State.drayReport (s : State) (k : CoreId) : State :=
  match (s.core k).drayBad with
  | [] => s
  | b :: t =>
    (s.modCore k fun co => { co with drayBad := t }).fault k ⟨b.ctx, b.id, b.user, b.cause, b.ea, none, false, none, b.early⟩

/-- The answers that have come from other packages are heard (R399). -/
def State.drayHear (s : State) (k : CoreId) : State :=
  ((s.core k).drayOut.filter (·.back.isSome)).foldl (fun s w => s.drayLand k w.n) s

/-- The dray goes `n` steps, with what it sends to other cores performed as it is sent. -/
def State.drayPump (s : State) (k : CoreId) (n : Nat) : State :=
  (List.range n).foldl (fun s _ =>
    let s := (s.drayStart k).drayStep k
    let s := (s.core k).drayOut.foldl (fun s w => s.drayLand k w.n) s
    if (s.core k).drayBad.isEmpty then s else s.drayReport k) s

/-- Steps that perform a command and those before it. -/
def Core.draySteps (co : Core) : Nat :=
  let one := fun (e : DrayEntry) => e.op.count * (e.op.width + 2) + 4
  (co.dray.map one).sum + (match co.drayRun with | some e => one e | none => 0)

/-- What a farrier's settlement does to the dray's block (R273, R330). -/
def State.settleDray (s : State) (k : CoreId) (v : Verdict) : State :=
  match (s.core k).drayRun with
  | none => s
  | some e =>
    match e.stage, v with
    | some (.walkSusp _ _), .deny => s.drayStop k e 0x06 e.va
    | some (.susp _), .deny => s.drayStop k e 0x14 e.va
    | some _, .res => s.modDray k fun e => { e with stage := none }
    | some (.walkSusp pa _), .sat b _ => s.modDray k fun e => { e with stage := none, sats := e.sats ++ [(pa / 64, b)] }
    | some (.susp pa), .sat b _ =>
      if e.outq.isEmpty then s.modDray k fun e => { e with stage := none, sats := e.sats ++ [(pa / 64, b)] }
      else s.modDray k fun e => { e with stage := none, outq := e.outq.tail }
    | _, _ => s

/-! ### Issue (R272) -/

/-- Both entries of the dray queue are occupied (R253, R254). -/
def drayFull (s : State) : Bool := decide (2 ≤ s.myCore.dray.length)
/-- A command waits for its entry and for an acquire atomic (R217). -/
def drayWait (s : State) : Bool := drayFull s || s.acqWait

/-- A command enters the queue; prompt it is performed as far as it goes. -/
def drayIssue (op : DrayOp) (s : State) : Res :=
  let (k, c) := s.kc
  let (id, s) := s.newId
  let s := s.modCore k fun co => { co with dray := co.dray ++ [{ id := id, ctx := c, user := !(co.ctxs[c].sup), op := op, rels := co.relIds, early := s.early }] }
  let (l, s) := s.popLag
  .ok (if l = 0 then s.drayPump k ((s.core k).draySteps + 1) else s)

/-- The check of one address field of n bytes at issue: own-local range, or the form of a data address (R272). -/
def State.drayAddr (s : State) (af : Bool) (ea : W64) (n : Nat) : Option (Cause × W64) :=
  match s.place s.kc.1 (!s.me.sup) af ea n with
  | .error c => some (c, ea)
  | .ok _ => none

/-- The checks of all address fields in R272's order: the range of own-local offsets, the form of local-window addresses and slot
handles (`slot`), the upper bits of global addresses. -/
def State.drayAddrs (s : State) (slot : Option (Cause × W64)) (as : List (Bool × W64 × Nat)) : Option (Cause × W64) :=
  let of := fun (p : Bool → W64 → Bool) => (as.filter fun a => p a.1 a.2.1).map fun a => s.drayAddr a.1 a.2.1 a.2.2
  firstOf (of (fun af _ => !af) ++ [slot] ++ of (fun af ea => af && ea.getLsbD 63) ++ of fun af ea => af && !ea.getLsbD 63)

/-- A slot handle whose slot has at least n bytes: its form and its record (R274, R277). -/
def State.slotCheck (s : State) (h : W64) (n : Nat) : Option (Cause × W64) :=
  match s.slotHandle s.kc.1 h with
  | .error c => some (c, h)
  | .ok (j, b) => match s.myCore.prodRec j b with
    | none => some (0x07, h)
    | some r => if r.size < n then some (0x08, h) else none

def unaligned (ea : W64) (n : Nat) : Option (Cause × W64) := if ea.toNat % n = 0 then none else some (0x05, ea)

/-- DCOPY (R274). -/
def execDcopy (f : Fields) (s : State) : Host.Outcome State Fault Refusal :=
  issue (.dcopy f) f drayWait (fun s =>
    let dst := s.hart.opd f.a
    let src := s.hart.opd f.b
    let n := (s.hart.opd f.c).toNat
    let slot := f.bit 30
    if n % 64 ≠ 0 ∨ 0x100000 < n then .trap 0x01 (wordHigh (.dcopy f))
    else match firstOf [if slot then none else unaligned dst 64, unaligned src 64,
        s.drayAddrs (if slot then s.slotCheck dst n else none)
          ((if slot then [] else [(f.bit 17, dst, n)]) ++ [(f.bit 18, src, n)])] with
      | some (c, ea) => .trap c ea
      | none => if n = 0 then .ok s else drayIssue (.dcopy dst src n f.fw (f.bit 17) (f.bit 18) (f.bit 19) slot) s) s

/-- The index list a pair of registers names: offset, count (R275). Neither R272 nor R275 gives the alignment of the list a figure; the
model asks for that of its elements, 4 bytes or 8 with IDX64, cause 0x05 (DESIGN CHOICE, log 92). -/
def listOf (w : W64) : Nat × Nat := ((w.extractLsb' 0 17).toNat, (w.extractLsb' 32 16).toNat)

/-- DGATH (R275). -/
def execDgath (f : Fields) (s : State) : Host.Outcome State Fault Refusal :=
  issue (.dgath f) f drayWait (fun s =>
    let dst := s.hart.opd f.a
    let (list, cnt) := listOf (s.hart.opd f.b)
    let base := s.hart.opd (nextG f.b 1)
    let row := f.bits 18 6 + 1
    let pool := f.bits 24 5
    let x64 := f.bit 29
    let slot := f.bit 30
    let stride := if f.c.isNone then 64 * row else (s.hart.opd f.c).toNat
    let iw := if x64 then 8 else 4
    if cnt = 0 ∨ cnt % pool ≠ 0 then .trap 0x01 (wordHigh (.dgath f))
    else match firstOf [if slot then none else unaligned dst 64, unaligned (BitVec.ofNat 64 list) iw, unaligned base 64,
        unaligned (BitVec.ofNat 64 stride) 64,
        s.drayAddrs (if slot then s.slotCheck dst 0 else none)
          ((if slot then [] else [(f.bit 17, dst, cnt / pool * row * 64)]) ++
            [(false, BitVec.ofNat 64 list, cnt * iw), (true, base, 1)])] with
      | some (c, ea) => .trap c ea
      | none => drayIssue (.dgath dst list cnt base stride f.ty row pool f.fw (f.bit 17) slot x64) s) s

/-- DSCAD (R276). -/
def execDscad (f : Fields) (s : State) : Host.Outcome State Fault Refusal :=
  issue (.dscad f) f drayWait (fun s =>
    let (list, cnt) := listOf (s.hart.opd f.a)
    let base := s.hart.opd (nextG f.a 1)
    let src := s.hart.opd f.b
    let row := f.bits 18 6 + 1
    let x64 := f.bit 29
    let stride := if f.c.isNone then 64 * row else (s.hart.opd f.c).toNat
    let iw := if x64 then 8 else 4
    match firstOf [unaligned (BitVec.ofNat 64 list) iw, unaligned src 64, unaligned base 64,
        unaligned (BitVec.ofNat 64 stride) 64,
        s.drayAddrs none [(false, BitVec.ofNat 64 list, cnt * iw), (false, src, cnt * row * 64), (true, base, 1)]] with
      | some (c, ea) => .trap c ea
      | none => drayIssue (.dscad list cnt base src.toNat stride f.ty row f.fw x64) s) s

/-! ### Events -/

/-- DRAY_ENTRY_START (R254): the dray takes an entry, or goes on with the one it holds; the choice says how far. -/
def execDrayEntryStart (k : CoreId) (s : State) : Host.Outcome State Fault Refusal :=
  let (l, s) := (s.drayHear k).popLag
  .next (if l = 0 then s.drayPump k ((s.core k).draySteps + 1)
    else (List.range (l - 1)).foldl (fun s _ => s.drayStep k) (s.drayStart k))

/-- DRAY_FAULT_REPORT (R273). -/
def execDrayFaultReport (k : CoreId) (s : State) : Host.Outcome State Fault Refusal := .next (s.drayReport k)

end Sys2Proof.Machine
end

