-- ==== Sys2Proof/Machine/Message.lean ====
section
/-! DEFINITION. Machine/Message.lean: sending and hopping (R23-R25, R225, R268-R271), slot buffers (R277-R280), the
combining tree and barriers (R28-R30, R258, R281-R283) and queue fences (R284). -/

namespace Sys2Proof.Machine

/-! ### The rank and handler tables (R297, R299) -/

/-- Entry n of a package's rank table; zero beyond its length. -/
def State.rankEntry (s : State) (p : PkgId) (n : Nat) : BitVec 32 :=
  if n < (s.pkg p).rankLen then BitVec.ofNat 32 (leNat (memRead s.mem ((s.pkg p).rankBase + 4 * n) 4)) else 0
/-- The core a valid entry names. -/
def rankCore (e : BitVec 32) : CoreId :=
  (e.extractLsb' 16 6).toNat * 2 ^ 16 + (e.extractLsb' 8 8).toNat * 256 + (e.extractLsb' 0 8).toNat
/-- The handler entry of a type. -/
def State.handlerOf (s : State) (p : PkgId) (ty : BitVec 12) : W64 :=
  BitVec.ofNat 64 (leNat (memRead s.mem ((s.pkg p).htabBase + 8 * ty.toNat) 8))

/-- Entry n as the rank cache of a die gives it: the cached entry, or the table's (R286, R298). -/
def State.rankSeen (s : State) (d : DieId) (n : Nat) : BitVec 32 :=
  if n < (s.pkg (d / 8)).rankLen then ((s.die d).rcache.lookup n).getD (s.rankEntry (d / 8) n) else 0
/-- That entry is in the cache after the read; the entry longest unread leaves a full cache (log 69). -/
def State.rankRead (s : State) (d : DieId) (n : Nat) : State :=
  if n < (s.pkg (d / 8)).rankLen then
    let e := s.rankSeen d n
    s.modDie d fun x => { x with rcache := ((n, e) :: x.rcache.filter fun c => c.1 != n).take 1024 }
  else s
/-- The handler entry of a type as a core's interface gives it: from its handler cache, or the table (R286). -/
def State.handlerSeen (s : State) (k : CoreId) (ty : BitVec 12) : W64 :=
  ((s.core k).hcache.lookup ty.toNat).getD (s.handlerOf (pkgOf k) ty)
def State.handlerRead (s : State) (k : CoreId) (ty : BitVec 12) : State :=
  let e := s.handlerSeen k ty
  s.modCore k fun co => { co with hcache := ((ty.toNat, e) :: co.hcache.filter fun c => c.1 != ty.toNat).take 64 }

/-! ### Sending (R268-R270) -/

/-- The retry buffer is full, or the store stream is held (R15, R253, R284). -/
def sendWait (s : State) : Bool := s.myCore.freeSlot.isNone || storeFence s || s.acqWait

/-- A message to a resolved core: the job check, then a slot of the retry buffer (R10, R15, R269). -/
def sendTo (f : Fields) (target : CoreId) (addr : W64) (s : State) : Res :=
  let (k, c) := s.kc
  let ty : BitVec 12 := f.mi.extractLsb' 0 12
  if (ty.toNat < 0xF00 && !s.jobMate k target) || !s.reaches (pkgOf k) (pkgOf target) then .trap 0x07 addr
  else
    let words := (gRun f.b (f.bits 16 4)).map s.hart.opd
    let (id, s) := s.newId
    match s.postMsg k
        { uid := id, target := target, ty := ty, payload := words, kind := 0, ctx := some c, addr := addr, user := !s.me.sup, early := s.early,
          rels := s.myCore.relIds } with
    | none => .hold s
    | some (s, _) => .ok (s.modMe fun x => { x with pend := x.pend ++ [id] })

/-- SEND (R268, R269). -/
def execSend (f : Fields) (s : State) : Host.Outcome State Fault Refusal :=
  issue (.send f) f sendWait (fun s =>
    let a := s.hart.opd f.a
    if !a.getLsbD 63 then .trap 0x08 a
    else match s.windowCore s.kc.1 a with
    | none => .trap 0x08 a
    | some j => sendTo f j a s) s

/-- SENDR (R268, R269, R298): a rank held in transit waits. -/
def execSendr (f : Fields) (s : State) : Host.Outcome State Fault Refusal :=
  issue (.sendr f) f sendWait (fun s =>
    let a := s.hart.opd f.a
    let d := dieOf s.kc.1
    let e := s.rankSeen d (a.toNat % 2 ^ 32)
    if !e.getLsbD 22 then .trap 0x07 a
    else if e.getLsbD 23 then .hold s
    else sendTo f (rankCore e) a (s.rankRead d (a.toNat % 2 ^ 32))) s

/-! ### Hop (R23-R25, R225, R271) -/

/-- A load whose reply `hop` forwards. -/
def AKind.forwarded : AKind → Option (Fin 16)
  | .ld _ r | .ldmeta r => some r
  | _ => none

/-- An earlier instruction is not complete, loads into g registers apart (R23, R48). -/
def hopWait (s : State) : Bool :=
  s.me.flight.any fun f => !f.done && !(s.myCore.accs.any fun a => f.acc == some a.id && a.kind.forwarded.isSome)

/-- The translation of an address for an instruction that waits for it: not yet, or its end (R271, R364). -/
def State.xlate (s : State) (ea : W64) : State × Option (Except Cause Nat) :=
  let (k, c) := s.kc
  let mine := fun (a : Access) => a.ctx == c && !a.hopped && a.kind == .xlate && a.parts.any fun p => p.ea == ea
  let (s, id) := match (s.core k).accs.find? mine with
    | some a => (s, a.id)
    | none =>
      let (id, s) := s.newId
      let a : Access :=
        { id := id, ctx := c, user := !s.me.sup, kind := .xlate, pc := s.hart.pc,
          parts := [{ ea := ea, tgt := .glob ea, off := 0, bytes := [], stage := .wait }] }
      let s := s.goOn.modCore k fun co => { co with accs := co.accs ++ [a] }
      let (l, s) := s.popLag
      (if l = 0 then s.drive 6 k id else s, id)
  let gone := fun (s : State) => s.modCore k fun co => { co with accs := co.accs.filter fun a => a.id != id }
  match (s.acc? k id).bind fun a => a.parts.head? with
  | some p => match p.stage with
    | .served => (gone s, some (.ok (leNat p.got)))
    | .failed c _ => (gone s, some (.error c))
    | _ => (s, none)
  | none => (s, none)

/-- The core beside the home slice of a physical address (R271). -/
def beside (pa : Nat) : CoreId :=
  let d := homeDie pa
  let sl := homeSlice pa
  dieServer d + (13 * (sl / 16) + 6) * 256 + 8 * (sl % 16) + 3

/-- The scalar state a hop carries (R23). -/
def Ctx.image (x : Ctx) (mask : BitVec 16) : HopImg :=
  { g := x.hart.g, c := x.hart.c, pc := x.hart.pc + 12, lc := x.lc, ls := x.ls, le := x.le, jord := x.jord,
    fround := x.fround, mmrev := x.mmrev, srctr := x.srctr, mask := mask }

/-- Once its release is complete and nothing else of the context is open, the hop message leaves (R23). -/
def hopSend (f : Fields) (rel : Nat) (target : CoreId) (s : State) : Res :=
  let (k, c) := s.kc
  let co := s.core k
  let x := s.me
  if s.relOpen k rel || !x.pend.isEmpty || co.engineBusy c || co.drayFailed c || x.fwd.isSome || co.rfaults.any (·.ctx == c) ||
    co.accs.any (fun a => a.ctx == c && a.kind.forwarded.isNone && a.kind != .pref true && a.kind != .pref false) then .wait s
  else
    let loads := co.accs.filterMap fun a => if a.ctx == c then a.kind.forwarded else none
    let mask : BitVec 16 := BitVec.ofNat 16 ((List.range 16).map fun r => if loads.any fun l => l.val == r then 2 ^ r else 0).sum
    let (id, s) := s.newId
    match s.postMsg k
        { uid := id, target := target, ty := 0, payload := [], kind := 3, ctx := some c, hop := some (x.image mask),
          addr := s.hart.opd f.b } with
    | none => .wait s
    | some (s, j) =>
      let s := s.modCore k fun co =>
        { co with accs := co.accs.map fun a => if a.ctx == c && a.kind.forwarded.isSome then { a with hopped := true } else a }
      -- the message counts in unack from here until it is accepted (R15)
      .wait (s.modMe fun x => { x with wait := .hop rel target (some j), pend := x.pend ++ [id] })

/-- The release at the smallest scope that holds both cores (R225), then the message. -/
def hopTo (f : Fields) (target : CoreId) (s : State) : Res :=
  let (k, c) := s.kc
  if !s.jobMate k target || !s.reaches (pkgOf k) (pkgOf target) then .trap 0x07 (s.hart.opd f.b)
  else match s.release k c (scopeOf k target) true with
  | none => .hold s
  | some (rel, s) => hopSend f rel target (s.modMe fun x => { x with wait := .hop rel target none })

/-- HOP (R271, R23). R271 gives no cause for a form that meets an address of the other kind: `hop.g` with bit 63 set is an address above
the global space, 0x07, and `hop` with bit 63 clear names no core, 0x08 (DESIGN CHOICE, log 93). -/
def execHop (f : Fields) (s : State) : Host.Outcome State Fault Refusal :=
  issue (.hop f) f hopWait (fun s =>
    let a := s.hart.opd f.b
    match s.me.wait with
    | .hop _ _ (some _) => .hold s
    | .hop rel target none => hopSend f rel target s
    | _ =>
      if s.me.sup then .trap 0x01 (wordHigh (.hop f))
      else if f.bit 17 then
        if a.extractLsb' 57 7 ≠ 0 then .trap 0x07 a
        else match s.xlate a with
        | (s, none) => .hold s
        | (_, some (.error c)) => .trap c a
        | (s, some (.ok pa)) => hopTo f (beside pa) s
      else if !a.getLsbD 63 then .trap 0x08 a
      else match s.windowCore s.kc.1 a with
      | none => .trap 0x08 a
      | some j => hopTo f j s) s

/-! ### Slot buffers (R277-R280, R359) -/

/-- The producer record of a record message is installed, and the message acknowledged (R278). -/
def State.takeRecord (s : State) (n : Nat) : State :=
  match s.recs.find? fun r => r.n == n with
  | none => s
  | some r =>
    if s.inFab n || (s.core r.dst).closed then s
    else
      let s := { s with recs := s.recs.filter fun x => x.n != n }
      let same := fun (p : ProdRec) => p.cons == r.rec_.cons && p.buf == r.rec_.buf
      -- record messages of one buffer keep their order: an older incarnation never replaces a newer one
      let s := if (s.core r.dst).prods.any fun p => same p && decide (r.rec_.inc < p.inc) then s
        else s.modCore r.dst fun co => { co with prods := co.prods.filter (fun p => !same p) ++ [r.rec_] }
      s.ackTo r.dst r.src r.ctx n

/-- SLINIT (R278). A producer address with bit 63 clear, which is no local-window address, has the cause of one that names no core,
0x08: R278 names none (DESIGN CHOICE, log 93). -/
def execSlinit (f : Fields) (s : State) : Host.Outcome State Fault Refusal :=
  issue (.slinit f) f (fun s => storeFence s || s.acqWait) (fun s =>
    let (k, c) := s.kc
    let a := s.hart.opd f.a
    let base := s.hart.opd f.b
    let cnt := (s.hart.opd f.c).toNat
    let size := 128 * (f.bits 20 7 + 1)
    let buf : Fin 8 := Fin.ofNat 8 (f.bits 17 3)
    if cnt = 0 ∨ 64 < cnt then .trap 0x01 (wordHigh (.slinit f))
    else if base.toNat % 128 ≠ 0 then .trap 0x05 base
    else if 0x20000 < base.toNat + size * cnt then .trap 0x08 base
    else if !a.getLsbD 63 then .trap 0x08 a
    else match s.windowCore k a with
    | none => .trap 0x08 a
    | some j =>
      if !s.jobMate k j || !s.reaches (pkgOf k) (pkgOf j) then .trap 0x07 a
      else
        let (n, s) := s.newId
        let sb : SlotBuf :=
          { base := base.toNat, size := size, cnt := cnt, counts := List.replicate cnt 0, marks := List.replicate cnt false,
            prod := j, inc := n }
        let r : ProdRec := { cons := k, buf := buf, free := cnt, fill := 0, base := base.toNat, size := size, cnt := cnt, inc := n }
        let s := s.modCore k fun co => { co with slots := co.slots.set buf.val (some sb) }
        let m : RecMsg := { n := n, dst := j, src := k, ctx := c, rec_ := r }
        let s := { s with recs := s.recs ++ [m] }
        let s := s.modCtx k c fun x => { x with pend := x.pend ++ [n] }
        let s := s.ship (pkgOf k) (pkgOf j) n k false .plain
        let (l, s) := s.popLag
        .ok (if l = 0 then s.takeRecord n else s)) s

/-- SLACQ.P (R279). -/
def execSlacqP (f : Fields) (s : State) : Host.Outcome State Fault Refusal :=
  issue (.slacqP f) f never (fun s =>
    let k := s.kc.1
    let h := s.hart.opd f.b
    match s.slotHandle k h with
    | .error c => .trap c h
    | .ok (j, b) => match s.myCore.prodRec j b with
      | none => .trap 0x07 h
      | some r => match s.takeSlot k r with
        | none => .hold s
        | some (a, s) => .ok (s.modHart fun x => x.dest f.a a)) s

/-- SLACQ.C (R279). -/
def execSlacqC (f : Fields) (s : State) : Host.Outcome State Fault Refusal :=
  issue (.slacqC f) f never (fun s =>
    let k := s.kc.1
    let n := (s.hart.opd f.b).toNat % 8
    match s.myCore.slots[n]?.getD none with
    | none => .trap 0x07 (BitVec.ofNat 64 n)
    | some b =>
      if b.filled = 0 then .hold s
      else
        let b' := { b with filled := b.filled - 1, drain := (b.drain + 1) % b.cnt, out := b.out + 1 }
        .ok ((s.modCore k fun co => { co with slots := co.slots.setIfInBounds n (some b') }).modHart fun x =>
          x.dest f.a (BitVec.ofNat 64 (b.base + b.drain * b.size)))) s

/-- An earlier instruction of the context that reads memory has not finished (R280). -/
def slrelWait (s : State) : Bool :=
  let c := s.kc.2
  s.myCore.engineBusy c || s.myCore.accs.any fun a =>
    a.ctx == c && (match a.kind with
      | .pref _ | .fetch => false
      | .atomic _ _ d _ _ => d.isSome
      | .ablk _ _ d _ => d.isSome
      | k => k.isLoad)

/-- A slot return reaches the producer; one of an old incarnation is discarded (R278, R280). -/
def State.takeReturn (s : State) (n : Nat) : State :=
  match s.rets.find? fun r => r.n == n with
  | none => s
  | some r =>
    let before := (s.core r.cons).accs.any fun a => a.ctx == r.ctx && decide (a.id < n) && a.parts.any fun p =>
      !p.stage.settled && (match p.tgt with | .bank j _ => j == r.cons | _ => false)
    if s.inFab n || before || (s.core r.dst).closed then s
    else
      let s := { s with rets := s.rets.filter fun x => x.n != n }
      s.modCore r.dst fun co =>
        { co with prods := co.prods.map fun p =>
            if p.cons == r.cons && p.buf == r.buf && p.inc == r.inc then { p with free := p.free + 1 } else p }

/-- SLREL (R280): the oldest slot taken and not returned. -/
def execSlrel (f : Fields) (s : State) : Host.Outcome State Fault Refusal :=
  issue (.slrel f) f slrelWait (fun s =>
    let (k, c) := s.kc
    let n := (s.hart.opd f.b).toNat % 8
    match s.myCore.slots[n]?.getD none with
    | none => .ok s
    | some b =>
      if b.out = 0 then .ok s
      else
        let i := (b.drain + b.cnt - b.out % b.cnt) % b.cnt
        let b' := { b with out := b.out - 1, counts := b.counts.set i 0, marks := b.marks.set i false }
        let (id, s) := s.newId
        let s := s.modCore k fun co => { co with slots := co.slots.setIfInBounds n (some b') }
        let m : SlotRet := { n := id, ctx := c, dst := b.prod, cons := k, buf := Fin.ofNat 8 n, inc := b.inc }
        let s := { s with rets := s.rets ++ [m] }
        let s := s.ship (pkgOf k) (pkgOf b.prod) id k false .plain
        let (l, s) := s.popLag
        .ok (if l = 0 then s.takeReturn id else s)) s

/-! ### The combining tree (R28-R30, R258, R281, R282) -/

def sigOpn (sig : BitVec 32) : Nat := (sig.extractLsb' 0 8).toNat
def sigTy (sig : BitVec 32) : Nat := (sig.extractLsb' 8 8).toNat
def sigCount (sig : BitVec 32) : Nat := (sig.extractLsb' 16 5).toNat
def sigScope (sig : BitVec 32) : Nat := (sig.extractLsb' 21 3).toNat

/-- One element joined at a node (R30). -/
def nodeJoin (opn ty : Nat) (a b : BitVec 32) : BitVec 32 × Fl :=
  let minMax := fun (isMax : Bool) =>
    if ty = 9 then
      match fminTakesB isMax (decodeFloat fFP32 a.toNat) (decodeFloat fFP32 b.toNat) with
      | some true => a | some false => b | none => 0x7FC00000
    else if (a.slt b) != isMax then a else b
  match opn with
  | 1 =>
    if ty = 9 then
      let r := toFP32 (fvAdd false (ofFP32 a.toNat) (ofFP32 b.toNat))
      (BitVec.ofNat 32 r.1, r.2)
    else let r := satInt 0xA (a.toInt + b.toInt); (BitVec.ofInt 32 r.1, r.2)
  | 2 => (minMax false, 0)
  | 3 => (minMax true, 0)
  | 4 => (a &&& b, 0)
  | 5 => (a ||| b, 0)
  | 6 => (a ^^^ b, 0)
  | _ => (a, 0)

/-- A partial result of a node. -/
abbrev Partial := List (BitVec 32) × Fl

/-- The nodes of the tree: each takes two partial results, in the order the wiring fixes, until one is left (R30). -/
def treeJoin (join : BitVec 32 → BitVec 32 → BitVec 32 × Fl) : Nat → List Nat → List Partial → Partial
  | 0, _, ps => ps.headD ([], 0)
  | n + 1, ord, ps =>
    let i := ord.headD 0 % max ps.length 1
    let a := ps.getD i ([], 0)
    let ps' := ps.eraseIdx i
    if ps'.isEmpty then a
    else
      let j := ord.tail.headD 0 % ps'.length
      let b := ps'.getD j ([], 0)
      let es := (a.1.zip b.1).map fun e => join e.1 e.2
      treeJoin join n ord.tail.tail (ps'.eraseIdx j ++ [(es.map (·.1), es.foldl (fun fl e => fl ||| e.2) (a.2 ||| b.2))])

/-- A contribution at the head of the inject queue enters the tree (R258, R281). -/
def State.treeInject (s : State) (k : CoreId) : State :=
  match (s.core k).inject with
  | [] => s
  | e :: t =>
    let busy := (s.pkg (pkgOf k)).tree.any fun x => x.core == k && sigScope x.sig == sigScope e.sig
    if s.relOpen k e.rel || busy then s
    else (s.modCore k fun co => { co with inject := t }).modPkg (pkgOf k) fun p => { p with tree := p.tree ++ [e] }

/-- A collective every member has contributed to is formed: the result, or the mismatch, for each member (R29, R30). -/
def State.treeForm (s : State) (k : CoreId) (scope : Nat) : State :=
  let p := pkgOf k
  let ms := s.members k scope
  let open' := fun (e : Contrib) => ms.contains e.core && sigScope e.sig == scope && e.res.isNone
  -- one contribution a member, in the order of the member set (R30)
  let es := ms.filterMap fun m => (s.pkg p).tree.find? fun e => open' e && e.core == m
  if !ms.contains k || es.length ≠ ms.length then s
  else
    let sig := (es.head?.map (·.sig)).getD 0
    let same := es.all fun e => e.sig == sig
    let r := treeJoin (nodeJoin (sigOpn sig) (sigTy sig)) es.length (Config.treeOrder scope ms) (es.map fun e => (e.elems, 0))
    s.modPkg p fun x =>
      { x with tree := x.tree.map fun e =>
          if open' e then { e with res := some ⟨e.ctx, e.sig, if same then r.1 else [], if same then r.2 else 0, !same⟩ } else e }

/-- The oldest formed result of a core enters its extract queue (R258). -/
def State.treeDeliver (s : State) (k : CoreId) : State :=
  match (s.pkg (pkgOf k)).tree.find? fun e => e.core == k with
  | none => s
  | some e => match e.res with
    | none => s
    | some r =>
      if 4 ≤ (s.core k).extract.length ∨ (s.core k).closed then s
      else
        (s.modPkg (pkgOf k) fun p => { p with tree := p.tree.erase e }).modCore k fun co => { co with extract := co.extract ++ [r] }

/-- Formation and delivery to every member. -/
def State.treeStep (s : State) (k : CoreId) (scope : Nat) : State :=
  let s := s.treeForm k scope
  (s.members k scope).foldl State.treeDeliver s

/-- The inject queue is full (R258). -/
def injectFull (s : State) : Bool := decide (4 ≤ s.myCore.inject.length)

/-- TJOIN (R281). -/
def execTjoin (f : Fields) (s : State) : Host.Outcome State Fault Refusal :=
  issue (.tjoin f) f injectFull (fun s =>
    let (k, c) := s.kc
    let scope := sigScope f.mi
    let elems : List (BitVec 32) := match f.b with
      | .v r => (List.range (sigCount f.mi)).map fun e => s.me.v[r].extractLsb' (32 * e) 32
      | .g r => [s.hart.g[r].setWidth 32]
      | _ => []
    match s.release k c scope false with
    | none => .hold s
    | some (rel, s) =>
      let s := s.modCore k fun co =>
        { co with inject := co.inject ++ [{ core := k, ctx := c, sig := f.mi, elems := elems, rel := rel }] }
      let s := s.modCtx k c fun x => { x with joined := x.joined + 1 }
      let (l, s) := s.popLag
      .ok (if l = 0 then ((List.range 4).foldl (fun s _ => s.treeInject k) s).treeStep k scope else s)) s

/-- TREAD (R282). Of a result with COUNT 0 a g destination takes 0: R282 gives it element 0, which such a result does not have (DESIGN
CHOICE, log 107). -/
def execTread (f : Fields) (s : State) : Host.Outcome State Fault Refusal :=
  issue (.tread f) f never (fun s =>
    let (k, c) := s.kc
    if s.me.joined = 0 then .trap 0x01 (wordHigh (.tread f))
    else match s.myCore.extract.find? fun r => r.ctx == c with
    | none => .hold s
    | some r =>
      let s := s.modCore k fun co => { co with extract := co.extract.erase r }
      let s := s.modCtx k c fun x => { x with joined := x.joined - 1 }
      if r.bad then .trap 0x0C (r.sig.setWidth 64) false (some s)
      else
        let s := s.modCtx k c fun x =>
          let x := match f.a with
            | .v d => applyWrites [elemWrite d 32 false ((r.elems.zipIdx).map fun (e : BitVec 32 × Nat) => (e.2, e.1.toNat))] x
            | .g d => { x with hart := x.hart.setG d ((r.elems.headD 0).setWidth 64) }
            | _ => x
          x.raiseFlags (orFlags 0 r.flags)
        .ok (s.acquire k c (sigScope r.sig))) s

/-! ### Barriers (R283, R402) -/

/-- An UP carrier leads from one package to another (R402). -/
def State.linked (s : State) (p q : PkgId) : Bool :=
  p == q || (s.pkg p).carriers.any fun e => e.2.st == .up && e.2.plan.toNat % 64 == q

/-- An episode completes once every member core has arrived: the first arrival of each is consumed (R283). -/
def State.barComplete (s : State) (k : CoreId) (scope : Nat) : State :=
  let ms := s.members k scope
  let arr := fun (m : CoreId) => ((s.core m).barArr[scope]?).getD []
  -- a pod episode takes an arrival that every other member package has heard of (R402)
  let heard := fun (m : CoreId) => scope != 4 || ms.all fun j => decide
    ((s.fab.filter fun x => x.body == .bar && x.flow == m && x.dst == pkgOf j).length < (arr m).length)
  let ready := ms.contains k && ms.all (fun m => !(arr m).isEmpty && heard m) &&
    (scope != 4 || ms.all fun m => ms.all fun n => s.linked (pkgOf m) (pkgOf n))
  if !ready then s
  else ms.foldl (fun s m =>
    match ((s.core m).barArr[scope]?).getD [] with
    | [] => s
    | c :: t => s.modCore m fun co =>
      { co with
        barArr := co.barArr.setIfInBounds scope t,
        barDone := co.barDone.setIfInBounds scope (((co.barDone[scope]?).getD []) ++ c.toList) }) s

/-- An arrival at a pod barrier goes to every other member package, on the reply lane (R402). -/
def State.barTell (s : State) (k : CoreId) (scope : Nat) : State :=
  if scope ≠ 4 then s
  else (((s.members k 4).map pkgOf).eraseDups).foldl (fun (s : State) q =>
    let (n, s) := s.newId; s.ship (pkgOf k) q n k true .bar) s

/-- BAR (R283): release, arrival, wait, acquire. -/
def execBar (f : Fields) (s : State) : Host.Outcome State Fault Refusal :=
  issue (.bar f) f never (fun s =>
    let (k, c) := s.kc
    let sc := f.sc.toNat
    let pass := fun (s : State) =>
      let done := ((s.core k).barDone[sc]?).getD []
      let s := s.modCore k fun co => { co with barDone := co.barDone.setIfInBounds sc (done.erase c) }
      Res.ok ((s.modCtx k c fun x => { x with wait := .none }).acquire k c sc)
    let arrive := fun (rel : Nat) (s : State) =>
      if s.relOpen k rel then Res.wait s
      else
        let s := s.modCore k fun co => { co with barArr := co.barArr.setIfInBounds sc (((co.barArr[sc]?).getD []) ++ [some c]) }
        let (l, s) := (s.barTell k sc).popLag
        let s := if l = 0 then s.barComplete k sc else s
        if (((s.core k).barDone[sc]?).getD []).contains c then pass s else .wait s
    if ((s.myCore.barDone[sc]?).getD []).contains c then pass s
    else if ((s.myCore.barArr[sc]?).getD []).contains (some c) then .hold s
    else
      let anew := match s.release k c sc false with
        | none => Res.hold s
        | some (rel, s) => arrive rel (s.modCtx k c fun x => { x with wait := .bar rel f.sc })
      match s.me.wait with
      | .bar rel sc' => if sc' = f.sc then arrive rel s else anew
      | _ => anew) s

/-! ### Queue fences (R284) -/

/-- QFENCE (R284): a fence point over what stands in the named queues. -/
def execQfence (f : Fields) (s : State) : Host.Outcome State Fault Refusal :=
  issue (.qfence f) f never (fun s =>
    let c := s.kc.2
    let co := s.myCore
    let anv := (co.anvil.filter fun e => e.ctx == c).map (·.id) ++
      (match co.anvRun with | some e => if e.1.ctx = c then [e.1.id] else [] | none => [])
    let dr := (co.dray.filter fun e => e.ctx == c).map (·.id) ++
      (match co.drayRun with | some e => if e.ctx = c then [e.id] else [] | none => [])
    let p : FencePt :=
      { anvil := f.bit 17, dray := f.bit 18, st := f.bit 19,
        before := (if f.bit 17 then anv else []) ++ (if f.bit 18 then dr else []) ++ (if f.bit 19 then s.me.pend else []) }
    .ok (s.modMe fun x => { x with fences := x.fences.filter (co.fenceOpen x) ++ [p] })) s

/-! ### Events -/

/-- SLOT_FILLED (R359). -/
def execSlotFilled (k : CoreId) (b : Fin 8) (s : State) : Host.Outcome State Fault Refusal :=
  .next (s.modCore k fun co =>
    { co with slots := co.slots.set b.val (co.slots[b].map fun x => x.advance 64) })
/-- SLOT_RETURN (R280, R359): a return reaches the producer core k. -/
def execSlotReturn (k : CoreId) (n : Nat) (s : State) : Host.Outcome State Fault Refusal :=
  .next (if s.rets.any fun r => r.n == n && r.dst == k then s.takeReturn n else s)
/-- SLINIT_RECORD (R278): a record message reaches the producer core k. -/
def execSlinitRecord (k : CoreId) (n : Nat) (s : State) : Host.Outcome State Fault Refusal :=
  .next (if s.recs.any fun r => r.n == n && r.dst == k then s.takeRecord n else s)
/-- TREE_INJECT (R258). -/
def execTreeInject (k : CoreId) (s : State) : Host.Outcome State Fault Refusal := .next (s.treeInject k)
/-- TREE_RESULT (R29, R30, R258). -/
def execTreeResult (k : CoreId) (scope : BitVec 3) (s : State) : Host.Outcome State Fault Refusal :=
  .next ((s.treeForm k scope.toNat).treeDeliver k)
/-- BARRIER_COMPLETE (R283). -/
def execBarrierComplete (k : CoreId) (scope : BitVec 3) (s : State) : Host.Outcome State Fault Refusal :=
  .next (if 1 ≤ scope.toNat ∧ scope.toNat ≤ 4 then s.barComplete k scope.toNat else s)

end Sys2Proof.Machine
end

