-- ==== Sys2Proof/Machine/Counter.lean ====
section
/-! DEFINITION. Machine/Counter.lean: arrival counters, their launches, and the counter group (R353-R367). -/

namespace Sys2Proof.Machine

/-! ### Handles (R354) -/

/-- The handle of a counter. -/
def ctrHandle : CtrId → W64
  | .loc k n => absAddr k n.val
  | .glob d sl n => BitVec.ofNat 64 (n.val + sl.val * 2 ^ 6 + d % 8 * 2 ^ 13 + d / 8 * 2 ^ 16)

/-- The counter a handle names; none where it is malformed. -/
def ctrOf (h : W64) : Option CtrId :=
  if h.getLsbD 63 then
    if h.getLsbD 62 || h.extractLsb' 4 36 ≠ 0 then none
    else some (.loc ((h.extractLsb' 40 8).toNat + (h.extractLsb' 48 8).toNat * 256 + (h.extractLsb' 56 6).toNat * 2 ^ 16)
      (h.extractLsb' 0 4).toFin)
  else
    let sl := (h.extractLsb' 6 7).toNat
    if h.extractLsb' 22 41 ≠ 0 then none
    else if hs : sl < 80 then
      some (.glob ((h.extractLsb' 16 6).toNat * 8 + (h.extractLsb' 13 3).toNat) ⟨sl, hs⟩ (h.extractLsb' 0 6).toFin)
    else none

/-- The package a counter lies in. -/
def ctrPkg : CtrId → PkgId
  | .loc k _ => pkgOf k
  | .glob d _ _ => d / 8

/-- The check of `cdis` and `cadd` (R365): a counter of the issuing package, a local one on a user core of the job. -/
def State.ctrCheck (s : State) (k : CoreId) (h : W64) : Option CtrId :=
  (ctrOf h).filter fun c => ctrPkg c == pkgOf k && match c with | .loc j _ => s.jobMate k j | .glob .. => true

/-! ### Firing and launching (R356) -/

/-- The first of the next `n` positions that is no server core. -/
def State.firstUser (s : State) (d : DieId) : Nat → Nat → CoreId
  | 0, _ => dieServer d
  | n + 1, i =>
    let k := dieServer d + i / 128 * 256 + i % 128
    if s.isServer k then s.firstUser d n (i + 1) else k

/-- The core whose interface sends a counter's launches: its own, or the lowest-numbered user core of the die (R13). -/
def State.ctrSender (s : State) : CtrId → CoreId
  | .loc k _ => k
  | .glob d _ _ => s.firstUser d 8192 0

/-- A pending launch has left; a counter that `cdis` ended frees with the last of them (R358, R365). -/
def Arr.left (a : Arr) : Arr := if a.dis && decide (a.pendn ≤ 1) then {} else { a with pendn := a.pendn - 1 }

/-- A formed launch enters the retry buffer of the sending interface, or is lost with an unbound rank (R356). -/
def State.launchCtr (s : State) (h : CtrId) : State :=
  let a := s.ctr h
  let j := s.ctrSender h
  if a.pendn = 0 || (s.core j).freeSlot.isNone then s
  else
    let go := fun (target : CoreId) (s : State) =>
      let (glob, sidx) := match h with | .loc _ n => (false, n.val) | .glob _ sl n => (true, sl.val * 64 + n.val)
      let (id, s) := s.newId
      match s.postMsg j
          { uid := id, target := target, ty := a.ty, payload := [a.arg0, a.arg1], kind := 2, glob := glob,
            sidx := BitVec.ofNat 16 sidx, owner := some a.owner } with
      | some (s, _) => s.modCtr h Arr.left
      | none => s
    if a.act = 0 then go a.tgt s
    else
      let d := match h with | .loc k _ => dieOf k | .glob d _ _ => d
      let e := s.rankSeen d a.rank.toNat
      let s := s.rankRead d a.rank.toNat
      if !e.getLsbD 22 then
        (s.modCtr h fun a => { a with lost := true }.left).mon d 9
      else if e.getLsbD 23 then s
      else go (rankCore e) s

/-- A firing that is due, and a formed launch if prompt. -/
def State.fireLaunch (s : State) (h : CtrId) : State :=
  let s := s.fire h
  if (s.ctr h).pendn = 0 then s
  else
    let (l, s) := s.popLag
    if l = 0 then s.launchCtr h else s

/-! ### CARM (R364) -/

/-- The operands of `carm`. -/
structure CarmArgs where
  act   : Nat
  rearm : Bool
  glob  : Bool
  base  : W64
  total : Nat
  nlm1  : Nat
  tgt   : W64
  tyw   : W64
  arg0  : W64
  arg1  : W64
deriving DecidableEq, Repr

def carmArgs (f : Fields) (h : Hart) : CarmArgs :=
  let b := (gRun f.b 4).map h.opd
  let c := (gRun f.c 2).map h.opd
  let w1 := b.getD 1 0
  { act := f.bits 17 2, rearm := f.bit 19, glob := f.bit 20, base := b.getD 0 0, total := (w1.extractLsb' 0 40).toNat,
    nlm1 := (w1.extractLsb' 40 24).toNat, tgt := b.getD 2 0, tyw := b.getD 3 0, arg0 := c.getD 0 0, arg1 := c.getD 1 0 }

/-- Window length in bytes. -/
def CarmArgs.size (a : CarmArgs) : Nat := (a.nlm1 + 1) * 128

/-- Two ranges of bytes meet. -/
def rangesMeet (a n b m : Nat) : Bool := decide (a < b + m) && decide (b < a + n)

/-- An armed window, or one being registered, meets a range. -/
def Arr.meets (a : Arr) (base size : Nat) : Bool := (a.armed || a.reg.isSome) && rangesMeet a.base ((a.nlm1.toNat + 1) * 128) base size

/-- The checks of `carm` that come before translation, in the order of R364, or the target core. -/
def carmCheck (i : Instr) (a : CarmArgs) (s : State) : Except (Cause × W64) CoreId :=
  let k := s.kc.1
  let launches := a.act ≠ 2
  if a.total = 0 || (launches && a.tyw.extractLsb' 12 52 ≠ 0) || (if a.glob then 0x7FFFF else 1023) < a.nlm1 then
    .error (0x01, wordHigh i)
  else if launches && !s.me.sup && 0xF00 ≤ a.tyw.toNat then .error (0x02, wordHigh i)
  else if a.base.toNat % 128 ≠ 0 then .error (0x05, a.base)
  else if !a.glob && 0x20000 < a.base.toNat + a.size then .error (0x08, a.base)
  else if (!a.glob && (s.core k).ctrs.any fun c => c.meets a.base.toNat a.size) ||
    (a.glob && a.base.extractLsb' 57 7 ≠ 0) then .error (0x07, a.base)
  else if a.act ≠ 0 then .ok 0
  else if !a.tgt.getLsbD 63 then .error (0x08, a.tgt)
  else match s.windowCore k a.tgt with
  | none => .error (0x08, a.tgt)
  | some j => if s.jobMate k j && s.reaches (pkgOf k) (pkgOf j) then .ok j else .error (0x07, a.tgt)

/-- The leaf through which core k translates an address. -/
def State.leafOf (s : State) (k : CoreId) (va : Nat) : Option Tlb :=
  match (s.core k).tlb.find? (·.has va) with
  | some e => some e
  | none => match (s.die (dieOf k)).tlb.find? (·.has va) with
    | some e => some e
    | none => match s.walkRoot (dieOf k) [] va with | .ok e => some e | .error _ => none

/-- The counter of R364's allocation: the lowest that is free (log 30). -/
def State.freeCtr (s : State) (k : CoreId) (pa : Option Nat) : Option CtrId :=
  match pa with
  | none => ((List.range 16).map (Fin.ofNat 16)).findSome? fun n => if (s.core k).ctrs[n].alloc then none else some (.loc k n)
  | some pa =>
    let sl : Fin 80 := Fin.ofNat 80 (homeSlice pa)
    ((List.range 64).map (Fin.ofNat 64)).findSome? fun n =>
      if (s.ctr (.glob (homeDie pa) sl n)).alloc then none else some (.glob (homeDie pa) sl n)

/-- The counter as core `owner` arms it. -/
def CarmArgs.arr (a : CarmArgs) (owner : CoreId) (base : Nat) (tgt : CoreId) : Arr :=
  { owner := .core owner, armed := true, rearm := a.rearm, act := BitVec.ofNat 2 a.act, alloc := true, nlm1 := BitVec.ofNat 24 a.nlm1, base := base,
    total := a.total, tgt := tgt, rank := a.tgt.setWidth 32, ty := a.tyw.setWidth 12, arg0 := a.arg0, arg1 := a.arg1 }

/-- A counter starts to count: bytes performed before do not (R364). -/
def State.arm (s : State) (h : CtrId) (a : Arr) : State :=
  let s := match h with
    | .glob d _ _ => s.modPkg (d / 8) fun p => { p with counts := p.counts.filter fun c => c.2.1 != h }
    | .loc .. => s
  s.modCtr h fun _ => a

/-- CARM (R364). -/
def execCarm (f : Fields) (s : State) : Host.Outcome State Fault Refusal :=
  issue (.carm f) f never (fun s =>
    let (k, _) := s.kc
    let a := carmArgs f s.hart
    let none' := Res.ok (s.modHart fun h => h.dest f.a (BitVec.allOnes 64))
    match s.me.wait with
    | .carmReg h true =>
      let s := s.modCtr h fun a => if a.regBy k s.kc.2 then { a with reg := none } else a
      .ok ((s.modMe fun x => { x with wait := .none }).modHart fun x => x.dest f.a (ctrHandle h))
    | .carmReg _ false => .hold s
    | _ => match carmCheck (.carm f) a s with
      | .error (c, ea) => .trap c ea
      | .ok tgt =>
        if !a.glob then
          match s.freeCtr k none with
          | none => none'
          | some h => .ok ((s.arm h (a.arr k a.base.toNat tgt)).modHart fun x => x.dest f.a (ctrHandle h))
        else match s.xlate a.base with
        | (s, none) => .hold s
        | (_, some (.error c)) => .trap c a.base
        | (s, some (.ok pa)) =>
          let page := match s.leafOf k a.base.toNat with | some e => if e.big then 2 ^ 26 else 2 ^ 16 | none => 2 ^ 16
          let overlaps := s.dies.any fun e => e.1 / 8 == homePkg pa && e.2.gctrs.any fun g => g.2.meets pa a.size
          if page < a.base.toNat % page + a.size || overlaps then .trap 0x07 a.base
          else match s.freeCtr k (some pa) with
          | none => .ok (s.modHart fun h => h.dest f.a (BitVec.allOnes 64))
          | some h =>
            let arr := a.arr k pa tgt
            let (l, s) := s.popLag
            if l = 0 then .ok ((s.arm h arr).modHart fun x => x.dest f.a (ctrHandle h))
            else
              .wait ((s.modCtr h fun _ => { arr with armed := false, reg := some s.kc.2 }).modMe fun x => { x with wait := .carmReg h false })) s

/-! ### The other instructions of the group (R365-R367) -/

/-- CDIS (R365). -/
def execCdis (f : Fields) (s : State) : Host.Outcome State Fault Refusal :=
  issue (.cdis f) f never (fun s =>
    let k := s.kc.1
    let w := s.hart.opd f.b
    match s.ctrCheck k w with
    | none => .trap 0x07 w
    | some h =>
      if (match h with | .loc j _ => j != k | .glob .. => false) then .trap 0x07 w
      else
        let s := s.fire h
        let a := s.ctr h
        let s := s.modCtr h fun a => if a.pendn = 0 then {} else { a with armed := false, dis := true }
        .ok (s.modHart fun x => x.dest f.a (BitVec.ofNat 64 a.count))) s

/-- CADD (R365). -/
def execCadd (f : Fields) (s : State) : Host.Outcome State Fault Refusal :=
  issue (.cadd f) f storeWait (fun s =>
    let w := s.hart.opd f.b
    match s.ctrCheck s.kc.1 w with
    | none => .trap 0x07 w
    | some h =>
      let part := match h with
        | .loc j _ => newPart w (.bank j 0) 0 []
        | .glob .. => { newPart w (.glob w) 0 [] with stage := .sent 0 }
      launch (.cadd f) f (.cadd h (s.hart.opd f.c)) [part] true false none s.myCore.relIds s) s

/-- `crd` of COUNT, the status word or TOTAL (R366). -/
def crdCtr (i : Instr) (f : Fields) (sel : Nat) (s : State) : Res :=
  let k := s.kc.1
  let w := s.hart.opd f.b
  match ctrOf w with
  | none => .trap 0x07 w
  | some (.loc j n) =>
    if j ≠ k then .trap 0x07 w
    else
      let s := s.fire (.loc j n)
      deliver i f 64 [.g (gIx f.a) ((s.ctr (.loc j n)).read sel)] 0 false s
  | some h =>
    -- a counter of another package is read at its slice, over the fabric
    if !s.reaches (pkgOf k) (ctrPkg h) then .trap 0x07 w
    else launch i f (.crd h sel (gIx f.a)) [{ newPart w (.glob w) 0 [] with stage := .sent 0 }] false true none []
      (s.ship (pkgOf k) (ctrPkg h) (s.ids + 1) k false .plain)

/-- A `crd` that reads at once and delivers under its window. -/
def crdNow (i : Instr) (f : Fields) (read : State → Except Cause W64) (s : State) : Res :=
  match read s with
  | .error c => .trap c (s.hart.opd f.b)
  | .ok x => deliver i f 64 [.g (gIx f.a) x] 0 false s

/-- CRD_CNT (R366). -/
def execCrdCnt (f : Fields) (s : State) : Host.Outcome State Fault Refusal := issue (.crdCnt f) f never (crdCtr (.crdCnt f) f 0) s
/-- CRD_STAT (R366). -/
def execCrdStat (f : Fields) (s : State) : Host.Outcome State Fault Refusal := issue (.crdStat f) f never (crdCtr (.crdStat f) f 1) s
/-- CRD_TOT (R366). -/
def execCrdTot (f : Fields) (s : State) : Host.Outcome State Fault Refusal := issue (.crdTot f) f never (crdCtr (.crdTot f) f 2) s

/-- CRD_STAT_W (R357, R366): a gate. -/
def execCrdStatW (f : Fields) (s : State) : Host.Outcome State Fault Refusal :=
  issue (.crdStatW f) f never (fun s =>
    let (k, c) := s.kc
    let w := s.hart.opd f.b
    match ctrOf w with
    | none => .trap 0x07 w
    | some h =>
      if (match h with | .loc j _ => j != k | .glob .. => !s.reaches (pkgOf k) (ctrPkg h)) then .trap 0x07 w
      else
        let s' := s.fire h
        let a := s'.ctr h
        if a.fires = (s.hart.opd f.c).setWidth 16 then .hold s
        else .ok ((s'.modHart fun x => x.dest f.a a.status).acquire k c f.sc.toNat)) s

/-- The word `crd.cons` reads of a slot buffer (R366). -/
def SlotBuf.word (b : SlotBuf) : W64 :=
  BitVec.ofNat 64 (b.drain % 64 + b.filled % 128 * 2 ^ 6 + b.next % 64 * 2 ^ 13 + b.out % 128 * 2 ^ 19 + b.cnt % 128 * 2 ^ 26)
/-- The word `crd.prod` reads of a producer record (R366). -/
def ProdRec.word (r : ProdRec) : W64 := BitVec.ofNat 64 (r.free % 128 + r.fill % 64 * 2 ^ 7 + r.cnt % 128 * 2 ^ 13)

/-- CRD_CONS (R366). -/
def execCrdCons (f : Fields) (s : State) : Host.Outcome State Fault Refusal :=
  issue (.crdCons f) f never (crdNow (.crdCons f) f fun s =>
    match s.myCore.slots[(s.hart.opd f.b).toNat % 8]?.getD none with
    | none => .error 0x07
    | some b => .ok b.word) s
/-- CRD_PROD (R366). -/
def execCrdProd (f : Fields) (s : State) : Host.Outcome State Fault Refusal :=
  issue (.crdProd f) f never (crdNow (.crdProd f) f fun s =>
    match s.slotHandle s.kc.1 (s.hart.opd f.b) with
    | .error c => .error c
    | .ok (j, b) => match s.myCore.prodRec j b with
      | none => .error 0x07
      | some r => .ok r.word) s
/-- CRD_FAB (R366). -/
def execCrdFab (f : Fields) (s : State) : Host.Outcome State Fault Refusal :=
  issue (.crdFab f) f never (crdNow (.crdFab f) f fun s =>
    let e := fmGet {} (s.pkg (pkgOf s.kc.1)).ivs ((s.hart.opd f.b).toNat % 64)
    .ok (e.sent ++ e.intv)) s
/-- CRD_MON (R366). -/
def execCrdMon (f : Fields) (s : State) : Host.Outcome State Fault Refusal :=
  issue (.crdMon f) f never (crdNow (.crdMon f) f fun s =>
    .ok ((s.die (dieOf s.kc.1)).mon[(s.hart.opd f.b).toNat]?.getD 0)) s

/-- PCRD (R367). -/
def execPcrd (f : Fields) (s : State) : Host.Outcome State Fault Refusal :=
  issue (.pcrd f) f never (fun s =>
    match s.myCore.perf[(s.hart.opd f.b).toNat]? with
    | none => .trap 0x01 (wordHigh (.pcrd f))
    | some p => .ok (s.modHart fun h => h.dest f.a (p.count.setWidth 64 ||| (if p.ovf then 1#64 <<< 63 else 0)))) s

/-- The configuration word of a performance counter (R361). -/
def Perf.config (p : Perf) : W64 := BitVec.ofNat 64 (p.event.toNat + p.ctxs.toNat * 2 ^ 8 + p.en.toNat * 2 ^ 16)
/-- A configuration written (R361). -/
def Perf.configure (p : Perf) (w : W64) : Perf :=
  { count := if w.getLsbD 17 then 0 else p.count, ovf := !w.getLsbD 17 && p.ovf, event := w.extractLsb' 0 8,
    ctxs := w.extractLsb' 8 8, en := w.getLsbD 16 }

/-- PCCFG (R367). -/
def execPccfg (f : Fields) (s : State) : Host.Outcome State Fault Refusal :=
  issue (.pccfg f) f never (fun s =>
    let w := s.hart.opd f.c
    let n := (s.hart.opd f.b).toNat
    match s.myCore.perf[n]? with
    | none => .trap 0x01 (wordHigh (.pccfg f))
    | some p =>
      if 0x13 < (w.extractLsb' 0 8).toNat || w.extractLsb' 18 46 ≠ 0 then .trap 0x01 (wordHigh (.pccfg f))
      else
        let s := s.modCore s.kc.1 fun co => { co with perf := co.perf.setIfInBounds n (p.configure w) }
        .ok (s.modHart fun h => h.dest f.a p.config)) s

/-! ### Events -/

/-- COUNT_MESSAGE (R355): a count reaches the counter's slice. -/
def execCountMessage (p : PkgId) (n : Nat) (s : State) : Host.Outcome State Fault Refusal :=
  .next (match (s.pkg p).counts.find? fun c => c.1 == n with
    | none => s
    | some (_, h, m) =>
      (s.modPkg p fun x => { x with counts := x.counts.filter fun c => c.1 != n }).modCtr h fun a =>
        if a.armed then (a.count' m).fireIf else a)
/-- COUNTER_FIRE (R356). -/
def execCounterFire (h : CtrId) (s : State) : Host.Outcome State Fault Refusal := .next (s.fireLaunch h)
/-- LAUNCH_ENQUEUE (R356). -/
def execLaunchEnqueue (h : CtrId) (s : State) : Host.Outcome State Fault Refusal := .next (s.launchCtr h)
/-- WINDOW_REGISTRATION_COMPLETE (R364): every home slice has registered the window of a waiting `carm`. -/
def execWindowRegistrationComplete (k : CoreId) (c : Fin 8) (s : State) : Host.Outcome State Fault Refusal :=
  .next (match (s.ctx k c).wait with
    | .carmReg h false =>
      -- a counter that `cdis` has freed meanwhile stays free (R365)
      (if (s.ctr h).regBy k c then s.arm h { s.ctr h with armed := true } else s).modCtx k c fun x => { x with wait := .carmReg h true }
    | _ => s)

end Sys2Proof.Machine
end

