-- ==== Sys2Proof/Machine/Network.lean ====
section
/-! DEFINITION. Machine/Network.lean: a core's network interface: arrival on the five ports, acceptance and refusal, retry
and notices (R9-R19, R24-R26, R253-R257, R448), forwarded loads (R25), and the write input queue (R255). -/

namespace Sys2Proof.Machine

/-! ### Ports (R448) -/

/-- The input port on which a packet of a source reaches core k: north 0, east 1, south 2, west 3, local 4. -/
def portFrom (k src : CoreId) : Fin 5 :=
  if isDevSrc src || pkgOf src ≠ pkgOf k then (Config.entryPort src k).castLE (by decide)
  else if yOf src < yOf k then 2 else if yOf k < yOf src then 0
  else if xOf src < xOf k then 3 else if xOf k < xOf src then 1 else 4

/-- The write is in a write input queue. -/
def State.inQueue (s : State) (k : CoreId) (ref : WRef) : Bool := (s.core k).wiq.any fun w => w.ref == ref

/-- Earlier accesses and sent drains of a context to core k, numbered below `n`, have been performed or wait in its write
input queue (R219, R255). -/
def State.earlierIn (s : State) (src : CoreId) (c : Fin 8) (k : CoreId) (n : Nat) : Bool :=
  ((s.core src).accs.all fun a => a.ctx != c || decide (n ≤ a.id) || a.parts.zipIdx.all fun e =>
    e.1.stage.settled || !(match e.1.tgt with | .bank j _ => j == k | _ => false) || s.inQueue k (.acc src a.id e.2)) &&
  (s.core src).drains.all fun d => d.ctx != c || d.dst != k || d.seq == 0 || decide (n ≤ d.seq) ||
    (List.range d.lines.length).all fun i => decide (i < d.performed) || s.inQueue k (.drain src d.id i)

/-- No earlier notice of the message's class stands at core k: a listed message is accepted before those listed after it (R34). -/
def Core.noticeTurn (co : Core) (ref : MRef) : Bool :=
  match co.noticed.find? fun l => l.msg == ref with
  | none => true
  | some l => ((co.noticed.takeWhile fun n => n.msg != ref).all fun n => n.sup != l.sup)

/-- A message sent to core k can arrive there now (R212, R219, R398). -/
def State.mayArrive (s : State) (k : CoreId) (ref : MRef) : Bool :=
  match s.slot ref with
  | none => false
  | some r =>
    let m := r.msg
    let co := s.core ref.src
    r.st == .sent && m.target == k && !((s.core k).ports.any fun p => p.ref == ref) && !s.inFab m.uid &&
    (s.core k).noticeTurn ref &&
    (isDevSrc ref.src || (m.rels.all (fun x => !s.relOpen ref.src x) &&
      (match m.ctx with | some c => s.earlierIn ref.src c k m.uid | none => true) &&
      (match m.ctx with | some c => !co.msgAhead c k m.uid | none => true)))

/-! ### What returns to the sender (R14-R16, R269) -/

/-- A message that has left its slot no longer counts in unack (R15). -/
def State.msgGone (s : State) (ref : MRef) : State :=
  match s.slot ref with
  | none => s
  | some r =>
    let s := s.setSlot ref none
    match r.msg.ctx with
    | some c => s.modCtx ref.src c (·.unpend r.msg.uid)
    | none => s

/-- The answer of a refusing or frozen target reaches the sender: it is listed, backs off, or takes 0x08 (R14, R16, R269). -/
def State.msgReturn (s : State) (ref : MRef) : State :=
  match s.slot ref with
  | none => s
  | some r =>
    if s.inFab r.msg.uid then s
    else match r.st with
    | .refused true => s.setSlot ref (some { r with st := .listed })
    | .refused false => s.setSlot ref (some { r with st := .backoff })
    | .frozen =>
      let s := s.setSlot ref none
      match r.msg.ctx with
      | none => s
      | some c =>
        let s := if r.msg.hop.isSome then
            (s.modCore ref.src fun co =>
              { co with accs := co.accs.map fun a => if a.ctx = c ∧ a.hopped then { a with hopped := false } else a }).modCtx ref.src c
              fun x => { x with wait := match x.wait with | .hop rel tgt _ => .hop rel tgt none | w => w }
          else s
        s.fault ref.src ⟨c, r.msg.uid, r.msg.user, 0x08, r.msg.addr, some r.msg.uid, false, none, r.msg.early⟩
    | _ => s

/-- A held message leaves its slot again (R16, R17). -/
def State.resend (s : State) (ref : MRef) : State :=
  match s.slot ref with
  | none => s
  | some r =>
    let src := if isDevSrc ref.src then ref.src - 2 ^ 22 else pkgOf ref.src
    (s.setSlot ref (some { r with st := .sent })).ship src (pkgOf r.msg.target) r.msg.uid ref.src false .plain

/-- A forwarded load's reply reaches the resumed activation: its register, or its fault (R25). -/
def State.forward (s : State) (k : CoreId) (id : Nat) : State :=
  match s.acc? k id with
  | none => s
  | some a =>
    match (s.ctx k a.ctx).fwd, a.kind.forwarded with
    | some ⟨dst, some c, mask⟩, some r =>
      if !a.hopped || !(a.parts.all (·.stage.settled)) || !mask.getLsbD r.val then s
      else match s.brought k a with
      | (false, s) => s
      | (true, s) => match s.broughtBy k a (if (a.from k).isSome then 1 else 0) (pkgOf k) (pkgOf dst) k with
      | (false, s) => s
      | (true, s) =>
        let bit : BitVec 16 := 1 <<< r.val
        let s := s.modCore k fun co => { co with accs := co.accs.filter fun e => e.id != id }
        let left := mask &&& ~~~bit
        let s := s.modCtx k a.ctx fun x => { x with fwd := if left = 0 then none else some ⟨dst, some c, left⟩ }
        match a.failure with
        | some (cause, ea) =>
          (s.modCtx dst c fun x => { x with fwdIn := x.fwdIn &&& ~~~bit }).fault dst ⟨c, a.id, a.user, cause, ea, none, false, none, false⟩
        | none => s.modCtx dst c fun x => { applyWrites a.writes x with fwdIn := x.fwdIn &&& ~~~bit }
    | _, _ => s

/-- An acceptance returns to the sender: the slot frees, and with a hop the old context, with any fault that came after the message
left (R15, R26, log 88). -/
def State.msgAccepted (s : State) (ref : MRef) : State :=
  match s.slot ref with
  | none => s
  | some r =>
    if r.st != .accepted || s.inFab r.msg.uid then s
    else
      let s := s.msgGone ref
      match r.msg.hop, r.msg.ctx with
      | some _, some c =>
        (s.modCore ref.src fun co => { co with rfaults := co.rfaults.filter fun r => r.ctx != c }).freeCtx ref.src c
      | _, _ => s

/-! ### Acceptance (R11, R24, R447) -/

/-- Core k's answer to a message: its slot has it, and to another package it travels on the reply lane (R399). -/
def State.msgAnswer (s : State) (k : CoreId) (ref : MRef) (r : RSlot) : State :=
  (s.setSlot ref (some r)).ship (pkgOf k) (refPkg ref) r.msg.uid k true .plain

/-- The message-information word (R13). A device notice names its package and a free position. -/
def Msg.info (m : Msg) (src : CoreId) (free : Nat) : W64 :=
  let (p, y, x) := if isDevSrc src then (src - 2 ^ 22, free / 256 % 256, free % 256) else (pkgOf src, yOf src, xOf src)
  BitVec.ofNat 64 (m.ty.toNat + m.payload.length % 16 * 2 ^ 12 + m.kind.toNat * 2 ^ 16 + m.glob.toNat * 2 ^ 18 + p * 2 ^ 24 +
    y * 2 ^ 30 + x * 2 ^ 38 + m.sidx.toNat * 2 ^ 48)

/-- The state in which a message's handler starts (R11). -/
def Ctx.activate (x : Ctx) (m : Msg) (info entry : W64) : Ctx :=
  { x with
    hart := { g := (Vector.ofFn fun (n : Fin 16) => if n.val < 14 then m.payload.getD n.val 0 else 0).set 14 info, c := 1,
              pc := entry.setWidth 57 },
    lc := Vector.replicate 2 0, ls := Vector.replicate 2 0, le := Vector.replicate 2 0, force := Vector.replicate 2 none,
    jord := 0, fround := 0, fflags := 0, srctr := 0, mmrev := entry.extractLsb' 58 4, sup := decide (0xF00 ≤ m.ty.toNat),
    pool := .busy, holdFor := none }

/-- The state in which a hopped activation resumes (R24), its loops under the register values (R118). -/
def Ctx.resumeHop (x : Ctx) (h : HopImg) : Ctx :=
  { x with
    hart := { g := h.g, c := h.c, pc := h.pc }, lc := h.lc, ls := h.ls, le := h.le,
    jord := h.jord, fround := h.fround, fflags := 0, mmrev := h.mmrev, srctr := h.srctr, sup := false, pool := .busy,
    holdFor := none, fwdIn := h.mask }.latched

/-- A message starts an activation in context c of core k (R11, R24, R447). -/
def State.accept (s : State) (k : CoreId) (c : Fin 8) (ref : MRef) (m : Msg) (entry : W64) : State :=
  let s := s.perfEv k 0x0A none
  let (fr, s) := s.freeNat
  let s := s.modCtx k c fun x =>
    match m.hop with
    | some h => x.resumeHop h
    | none => x.activate m (m.info ref.src fr) entry
  let s := s.modCore k fun co => { co with noticed := co.noticed.filter fun l => l.msg ≠ ref }
  let s := s.acquire k c (if refPkg ref = pkgOf k then 3 else 4)
  let s := match m.hop, m.ctx with
    | some h, some old => if h.mask = 0 then s else s.modCtx ref.src old fun x => { x with fwd := some ⟨k, some c, h.mask⟩ }
    | _, _ => s
  match s.slot ref with
  | none => s
  | some r =>
    let s := s.msgAnswer k ref { r with st := .accepted }
    let (l, s) := s.popLag
    if l ≠ 0 then s
    else
      let ids := ((s.core ref.src).accs.filter fun a => a.hopped && m.ctx == some a.ctx).map (·.id)
      ids.foldl (fun s id => s.forward ref.src id) (s.msgAccepted ref)

/-- A message is refused, and listed where an entry of its class is free (R14, R257). -/
def State.refuse (s : State) (k : CoreId) (ref : MRef) (r : RSlot) (mayList : Bool) : State :=
  let co := s.core k
  let sup := decide (0xF00 ≤ r.msg.ty.toNat) && r.msg.hop.isNone
  let listed := mayList && decide (co.refused.length < 16) &&
    (sup || decide ((co.refused.filter fun l => !l.sup).length < 14))
  let s := s.perfEv k 0x0B none
  let s := if listed then (s.perfEv k 0x0C none).modCore k fun co => { co with refused := co.refused ++ [⟨ref, sup⟩] } else s
  let s := s.msgAnswer k ref { r with st := .refused listed }
  let (l, s) := s.popLag
  if l = 0 then s.msgReturn ref else s

/-- The context a message takes: the one reserved for it, or a free one of its class, by choice (R11, R17). -/
def State.pickCtx (s : State) (k : CoreId) (ref : MRef) (sup : Bool) : Option (Fin 8) × State :=
  let cs := (List.range 8).map (Fin.ofNat 8)
  match cs.find? fun c => (s.ctx k c).pool == .reserved && (s.ctx k c).holdFor == some ref with
  | some c => (some c, s)
  | none =>
    match cs.filter fun c => (s.ctx k c).pool == .free && (s.supClass k c == sup) with
    | [] => (none, s)
    | c :: t => let (l, s) := s.popLag; (some ((c :: t).getD (l % (t.length + 1)) c), s)

/-- The interface decides the message at the head of a port; the answer says that it was accepted (R9, R11, R14). A core in pre-emption
refuses an unbound type too, which takes no list entry (R35, R257); R9 would have it discarded (DESIGN CHOICE, log 71). -/
def State.decideMsg (s : State) (k : CoreId) (ref : MRef) : Bool × State :=
  let s := s.modCore k fun co => { co with ports := co.ports.filter fun p => p.ref != ref }
  match s.slot ref with
  | none => (false, s)
  | some r =>
    let co := s.core k
    let m := r.msg
    let entry := s.handlerSeen k m.ty
    if co.frozen then
      let s := s.msgAnswer k ref { r with st := .frozen }
      let (l, s) := s.popLag
      (false, if l = 0 then s.msgReturn ref else s)
    else if co.halted || (s.pkg (pkgOf k)).bootst != 0 then (false, s.refuse k ref r false)
    else if co.pre.step ≠ 0 then (false, s.refuse k ref r (m.hop.isSome || entry.getLsbD 57))
    else if m.hop.isNone && !entry.getLsbD 57 then
      let s := ((s.handlerRead k m.ty).perfEv k 0x0A none).perfEv k 0x0D none
      let s := s.msgAnswer k ref { r with st := .accepted }
      let (l, s) := s.popLag
      (true, if l = 0 then s.msgAccepted ref else s)
    else
      let s := if m.hop.isNone then s.handlerRead k m.ty else s
      match s.pickCtx k ref (decide (0xF00 ≤ m.ty.toNat) && m.hop.isNone) with
      | (none, s) => (false, s.refuse k ref r true)
      | (some c, s) => (true, s.accept k c ref m entry)

/-- The head of a port, once every write that arrived on that port before it is performed (R255). -/
def Core.head (co : Core) (port : Fin 5) : Option MRef :=
  (co.ports.find? fun p => p.port == port).bind fun p =>
    if co.wiq.any fun w => w.port == port && decide (w.seq < p.seq) then none else some p.ref

/-- One L2 clock of the interface: the heads in rotation until one is accepted (R19). -/
def State.netClock (s : State) (k : CoreId) : State :=
  let (l, s) := s.popLag
  let rot : Fin 5 := Fin.ofNat 5 ((s.core k).rot.val + 1 + l)
  let s := s.modCore k fun co => { co with rot := rot }
  ((List.range 5).foldl (fun (r : Bool × State) i =>
    if r.1 then r
    else match (r.2.core k).head (Fin.ofNat 5 (rot.val + i)) with
      | none => r
      | some ref => r.2.decideMsg k ref) (false, s)).2

/-- Messages come to the ports, and the interface takes a clock. -/
def State.arrive (s : State) (k : CoreId) (arr : List MRef) : State :=
  (arr.foldl (fun s ref =>
    if s.mayArrive k ref then
      let (n, s) := s.newId
      s.modCore k fun co => { co with ports := co.ports ++ [⟨ref, portFrom k ref.src, n⟩] }
    else s) s).netClock k

/-! ### The write input queue (R255) -/

/-- A write on its way to core k. -/
def State.mayEnter (s : State) (k : CoreId) (ref : WRef) : Bool :=
  !s.inQueue k ref && decide ((s.core k).wiq.length < 32) &&
  match ref with
  | .acc src id i =>
    (match s.acc? src id with
    | none => false
    | some a => !a.kind.isLoad && !s.inFab id && s.earlierIn src a.ctx k id &&
        (match a.parts[i]? with
        | none => false
        | some p => (match p.stage with | .sent _ => true | _ => false) && (match p.tgt with | .bank j _ => j == k | _ => false) &&
            (a.parts.take i).zipIdx.all fun q => q.1.ea != p.ea || q.1.stage.settled || s.inQueue k (.acc src id q.2)))
  | .drain src id i =>
    (match (s.core src).drains.find? fun d => d.id == id with
    | none => false
    | some d => d.dst == k && decide (d.performed ≤ i) && decide (i < d.lines.length) && !s.inFab (d.seq + i) &&
        s.earlierIn src d.ctx k d.seq && (List.range i).all fun j => decide (j < d.performed) || s.inQueue k (.drain src id j))
  | .dray src n =>
    match (s.core src).drayOut.find? fun w => w.n == n with
    | none => false
    | some w => w.dst == k && w.back.isNone && !s.inFab n &&
        ((s.core src).drayOut.takeWhile fun x => x.n != n).all fun x => x.dst != k || x.back.isSome || s.inQueue k (.dray src x.n)

/-- The source of a write. -/
def writeSrc : WRef → CoreId
  | .acc k _ _ | .drain k _ _ | .dray k _ => k

/-- What names a write is still on its way. -/
def State.writeLive (s : State) (ref : WRef) : Bool :=
  match ref with
  | .acc src id i => match s.stageOf src id i with | some st => !st.settled | none => false
  | .drain src id i => (s.core src).drains.any fun d => d.id == id && decide (d.performed ≤ i)
  | .dray src n => (s.core src).drayOut.any fun w => w.n == n && w.back.isNone

/-- The head of the write input queue is performed at the banks. -/
def State.wiqHead (s : State) (k : CoreId) : State :=
  match (s.core k).wiq.head? with
  | none => s
  | some w =>
    if (s.core k).closed then s
    else
      let s := match w.ref with
        | .acc src id i =>
          let s := s.movePart src id i
          if (match s.stageOf src id i with | some st => st.settled | none => true) then
            let (l, s) := s.popLag
            if l = 0 then s.finish src id else s
          else s
        | .drain src id i =>
          match (s.core src).drains.find? fun d => d.id == id with
          | some d => s.drainLine src d i
          | none => s
        | .dray src n => s.drayLand src n
      if s.writeLive w.ref then s else s.modCore k fun co => { co with wiq := co.wiq.filter fun x => x.ref != w.ref }

/-- Writes come to the queue, and its head is performed. -/
def State.arriveWrites (s : State) (k : CoreId) (arr : List WRef) : State :=
  (arr.foldl (fun s ref =>
    if s.mayEnter k ref then
      let (n, s) := s.newId
      s.modCore k fun co => { co with wiq := co.wiq ++ [⟨ref, portFrom k (writeSrc ref), n⟩] }
    else s) s).wiqHead k

/-! ### Events -/

/-- MESSAGE_ARRIVAL (R9, R11, R14, R19). -/
def execMessageArrival (k : CoreId) (arr : List MRef) (s : State) : Host.Outcome State Fault Refusal := .next (s.arrive k arr)
/-- HOP_MESSAGE_ARRIVAL (R24, R25). -/
def execHopMessageArrival (k : CoreId) (arr : List MRef) (s : State) : Host.Outcome State Fault Refusal := .next (s.arrive k arr)
/-- REFUSAL (R14, R16): a refusal, or a frozen core's discard, reaches the sender. -/
def execRefusal (k : CoreId) (slot : Nat) (s : State) : Host.Outcome State Fault Refusal := .next (s.msgReturn ⟨k, slot⟩)
/-- BACKOFF_RETRY (R16): the delay of the next unlisted refusal of the message is twice this one's. -/
def execBackoffRetry (k : CoreId) (slot : Nat) (s : State) : Host.Outcome State Fault Refusal :=
  .next (match s.slot ⟨k, slot⟩ with
    | some r => if r.st = .backoff then (s.setSlot ⟨k, slot⟩ (some { r with delay := min 16384 (2 * r.delay) })).resend ⟨k, slot⟩ else s
    | none => s)
/-- CONTEXT_FREE_NOTICE (R17): the noticed sender retries. -/
def execContextFreeNotice (k : CoreId) (slot : Nat) (s : State) : Host.Outcome State Fault Refusal :=
  .next (match s.slot ⟨k, slot⟩ with
    | some r => if r.st = .noticed ∧ !s.inFab r.msg.uid then s.resend ⟨k, slot⟩ else s
    | none => s)
/-- RESERVATION_LAPSE (R18). -/
def execReservationLapse (k : CoreId) (c : Fin 8) (s : State) : Host.Outcome State Fault Refusal :=
  .next (
    let x := s.ctx k c
    let here := (s.core k).ports.any fun p => some p.ref == x.holdFor
    if x.pool = .reserved && !here then (s.perfEv k 0x0F none).offer k c else s)
/-- CONTEXT_FREE (R20, R372). -/
def execContextFree (k : CoreId) (c : Fin 8) (s : State) : Host.Outcome State Fault Refusal := .next (s.endCtx k c)
/-- MESSAGE_ACCEPTANCE (R15, R26). -/
def execMessageAcceptance (k : CoreId) (slot : Nat) (s : State) : Host.Outcome State Fault Refusal :=
  .next (s.msgAccepted ⟨k, slot⟩)
/-- FORWARDED_LOAD_REPLY (R25): the load is one of core k. -/
def execForwardedLoadReply (k : CoreId) (id : Nat) (s : State) : Host.Outcome State Fault Refusal := .next (s.forward k id)
/-- REMOTE_WRITE_PERFORMED (R194, R255). -/
def execRemoteWritePerformed (k : CoreId) (arr : List WRef) (s : State) : Host.Outcome State Fault Refusal :=
  .next (s.arriveWrites k arr)

end Sys2Proof.Machine
end

