-- ==== Sys2Proof/Machine/Blocks.lean ====
section
/-! DEFINITION. Machine/Blocks.lean: what a farrier does to blocks: locations, tags, transfers, combination, poison (R329,
R331, R333, R336, R338), directory entries (R324, R325), host-window accesses (R390, R394) and the settlement of accesses
(R330). -/

namespace Sys2Proof.Machine

/-! ### Locations (R329) -/

/-- Where a location code leads: the home line, the copy of a die, or a transfer buffer. -/
inductive Loc where
  | home
  | die (d : DieId)
  | buf (i : Nat)
deriving DecidableEq, Repr

/-- The location of a block that a code names on farrier f. -/
def locOf (f : FarId) (blk loc : Nat) : Except Cause Loc :=
  let p := f % 64
  let here := homePkg (blk * 64) = p
  if loc = 0 then (if here then .ok .home else .error 0x07)
  else if loc ≤ 8 then
    let d := p * 8 + (loc - 1)
    if here && homeDie (blk * 64) = d then .ok .home else .ok (.die d)
  else if loc = 9 then .ok (.buf (blk % 4))
  else .error 0x01

/-- A host snoop of a line that the port holds exclusive (R320, R349): its message. Its poster in g1 is the port of package p; R320 gives
a port no die number, and the model gives 0 (DESIGN CHOICE, log 101). -/
def State.snoopMsg (s : State) (p line kind : Nat) : State :=
  let (id, s) := s.newId
  let r := s.regionOf p (line * 64)
  s.enqueue (postFarrier p (line * 64)) p
    { uid := id, ty := 0x0C, blk := line, region := (r.map (·.1)).getD 0, prot := (r.map (·.2.prot)).getD 0, sup := false,
      acc := false, die := 0, pkg := p, party := .snoop p line, g5 := Config.snoopCode kind }

/-- The port can take a host line now: it has it, or has room for one more (R393). -/
def State.hostReady (s : State) (f : FarId) (blk : Nat) : Bool :=
  homeOf (blk * 64) != .host || (s.pkg (f % 64)).cxl.contains blk || decide ((s.pkg (f % 64)).cxl.length < 1048576)

/-- The line granted least recently is recalled, as SnpInv recalls it, unless it is already (R393, log 70). -/
def State.recallHost (s : State) (f : FarId) : State :=
  let p := f % 64
  match (s.pkg p).cxl with
  | [] => s
  | old :: _ =>
    let x := s.far (postFarrier p (old * 64))
    let snp := fun (m : FMsg) => m.ty == 0x0C && m.blk == old
    if x.reqs.any snp || x.threads.toList.any (fun th => th.busy && th.msg.any snp) then s else s.snoopMsg p old 1

/-- The line is taken exclusive by the host port (R349, R393), with the data that the host has by then (log 99). -/
def State.takeHost (s : State) (f : FarId) (blk : Nat) : State :=
  let p := f % 64
  if homeOf (blk * 64) ≠ .host || (s.pkg p).cxl.contains blk then s
  else
    let (l, s) := s.popLag
    let n := s.fresh
    let s := if l = 0 then s
      else { s with
        mem := memWrite s.mem (s.memAt (blk * 64)) ((List.range 64).map fun j => some (BitVec.ofNat 8 (Config.freeNat (n + j)))), fresh := n + 64 }
    s.modPkg p fun x => { x with cxl := x.cxl ++ [blk], cxlMod := x.cxlMod.filter fun b => b != blk }

/-- A host line is invalid at the port: its home tag too, so that the next access posts (R349). The answer says what the port has of it:
its data where it was written since it was taken. -/
def State.leaveHost (s : State) (p : PkgId) (blk : Nat) : Option (List Byte) × State :=
  (if (s.pkg p).cxlMod.contains blk then some (memRead s.mem (s.memAt (blk * 64)) 64) else none,
    (s.setHomeTag blk 0).modPkg p fun x =>
      { x with cxl := x.cxl.filter fun b => b != blk, cxlMod := x.cxlMod.filter fun b => b != blk })

/-- The port returns a line with DirtyEvict or CleanEvict (R393). -/
def State.evictHost (s : State) (p : PkgId) (blk : Nat) : State :=
  let (d, s) := s.leaveHost p blk
  s.modPkg p fun x => { x with hostReps := x.hostReps ++ [.evict blk d] }

/-- The block at a location; none where the copy is absent. -/
def State.locGet (s : State) (f : FarId) (t : Fin 16) (blk : Nat) : Loc → Option Buf
  | .home => some (s.homeBuf blk)
  | .die d => (s.l2 d blk).map (·.buf)
  | .buf i => some ((s.thread f t).buf[i]?.getD {})

/-- A whole block written at a location (R333): a copy is allocated with tag 0b00 if absent, and is not DIRTY. -/
def State.locPut (s : State) (f : FarId) (t : Fin 16) (blk : Nat) (l : Loc) (b : Buf) : State :=
  match l with
  | .home =>
    let s := s.homeWrite blk (BitVec.allOnes 64) b.data (some b.desc)
    if isHbm (blk * 64) then s else s.setHomeDesc blk { (s.sideOf blk).desc with fmt := if b.desc.fmt = 0xFF then 0xFF else 0 }
  | .die d => s.setL2 d blk { buf := b, tag := match s.l2 d blk with | some c => c.tag | none => 0, dirty := false }
  | .buf i => s.modThread f t fun th => { th with buf := th.buf.setIfInBounds i b }

/-- TAG, PRES and DIRTY of a block at a location (R331). -/
def State.locTag (s : State) (blk : Nat) : Loc → BitVec 2 × Bool × Bool
  | .home => (s.homeTag blk, true, false)
  | .die d => match s.l2 d blk with | some c => (c.tag, true, c.dirty) | none => (0, false, false)
  | .buf _ => (0, false, false)

/-- TAG written, and the copy removed with DROP (R331). -/
def State.locSetTag (s : State) (blk : Nat) (l : Loc) (tag : BitVec 2) (drop : Bool) : Except Cause State :=
  match l with
  | .home => if drop then .error 0x07 else .ok (s.setHomeTag blk tag)
  | .die d =>
    if (s.l2 d blk).isNone then (if tag = 0 then .ok s else .error 0x07)
    else if drop then .ok ((s.setDieTag d blk tag).dropCopy d blk) else .ok (s.setDieTag d blk tag)
  | .buf _ => .error 0x07

/-- Poison at a location (R336). -/
def State.locPoison (s : State) (f : FarId) (t : Fin 16) (blk : Nat) (l : Loc) : Except Cause State :=
  match l with
  | .home => .ok (s.setHomeDesc blk { (s.sideOf blk).desc with fmt := 0xFF })
  | .die d => match s.l2 d blk with
    | none => .error 0x07
    | some c => .ok (s.setL2 d blk { c with buf := { c.buf with desc := { c.buf.desc with fmt := 0xFF } } })
  | .buf i => .ok (s.modThread f t fun th =>
      let b := th.buf[i]?.getD {}
      { th with buf := th.buf.setIfInBounds i { b with desc := { b.desc with fmt := 0xFF } } })

/-! ### Combination (R338) -/

/-- The operations of `fsto`. -/
inductive StoOp where
  | copy | op (o : AtOp) (ty : Byte)
deriving DecidableEq, Repr

/-- OPF, or ROP of R28 under `.reg`. -/
def stoOpOf (n : Nat) (ty : Byte) : StoOp :=
  match n with
  | 1 => .op .add ty | 2 => .op .min ty | 3 => .op .max ty | 4 => .op .and ty | 5 => .op .or ty | 6 => .op .xor ty
  | _ => .copy

/-- The block `fsto` leaves at its destination, with the bytes written; or the cause of a farrier trap. -/
def stoOn (op : StoOp) (mask : BitVec 64) (dst src : Buf) : Except Cause (BitVec 64 × Buf) :=
  let bits : B512 := BitVec.ofNat 512 (widenMask 64 mask.toNat)
  if dst.desc.fmt = 0xFF || src.desc.fmt = 0xFF then .ok (0, { dst with desc := { dst.desc with fmt := 0xFF } })
  else match op with
  | .copy => .ok (mask, ⟨mergeBits bits dst.data src.data, if mask = BitVec.allOnes 64 then src.desc else dst.desc⟩)
  | .op o ty =>
    if dst.desc.fmt ≠ ty && dst.desc.fmt ≠ 0 then .error 0x11
    else if someWords mask != fullWords mask then .error 0x01
    else
      let r := ablkNew o (ty == 9) dst.data src.data
      .ok (mask, ⟨mergeBits bits dst.data r.1, { dst.desc with fmt := ty }⟩)

/-- `fsto` as one act at its destination (R338). -/
def State.sto (s : State) (f : FarId) (t : Fin 16) (op : StoOp) (mask : BitVec 64) (db : Nat) (dl : Loc) (sb : Nat) (sl : Loc) :
    Except Cause State :=
  match s.locGet f t db dl, s.locGet f t sb sl with
  | some d, some b =>
    match stoOn op mask d b with
    | .error c => .error c
    | .ok (w, r) =>
      .ok (match dl with
        | .home =>
          let s := s.homeWrite db w r.data (some r.desc)
          if r.desc.fmt = 0xFF then s.setHomeDesc db { (s.sideOf db).desc with fmt := 0xFF } else s
        | .die e => match s.l2 e db with
          | some c => s.setL2 e db { c with buf := r, dirty := true }
          | none => s
        | .buf i => s.modThread f t fun th => { th with buf := th.buf.setIfInBounds i r })
  | _, _ => .error 0x07

/-! ### Directory entries (R324, R325, R332) -/

/-- `dirwr`: HELD is kept; the answer says whether the entry was placed. Every other bit is stored as written, bit 3 of word 0, which
R324 reserves, among them, and counts in the test for an all-zero entry (DESIGN CHOICE, log 72). The cache's arrangement is open: an
entry new to the cache may have to evict one that a free number names, to the spill table (R325, log 73). -/
def State.dirWrite (s : State) (f : FarId) (blk : Nat) (w0 w1 : W64) : Bool × State :=
  let held : W64 := if (s.dirOf f blk).held then 0x80000000 else 0
  let d : Dir := ⟨w0 &&& ~~~0x80000000 ||| held, w1⟩
  let cache := (s.far f).dir
  let n := cache.length
  if d.w0 = 0 ∧ d.w1 = 0 then (true, s.setDir f blk d)
  else if (cache.lookup blk).isSome || decide (n < 8) then (true, s.setDir f blk d)
  else
    let (c, s) := s.freeNat
    match (if 4096 ≤ n then some (c % n) else if c % (n + 1) = 0 then none else some (c % (n + 1) - 1)).bind fun i => cache[i]? with
    | none => (true, s.setDir f blk d)
    | some e => match s.spill f e.1 e.2 with
      | some s => (true, s.setDir f blk d)
      | none => (false, s)

/-! ### Host-window accesses (R390, R394) -/

/-- A host access ends. -/
def State.hostEnd (s : State) (p : PkgId) (n : Nat) (r : Option HostRep) : State :=
  s.modPkg p fun x => { x with hostAccs := x.hostAccs.filter fun a => a.n != n, hostReps := x.hostReps ++ r.toList }

/-- A host access is performed at the home slice of its block, or posts to its farrier. -/
def State.hostTry (s : State) (p : PkgId) (n : Nat) : State :=
  match (s.pkg p).hostAccs.find? fun a => a.n == n with
  | none => s
  | some a =>
    let blk := a.pa / 64
    let before := (s.pkg p).hostAccs.any fun e => decide (e.n < n) && e.req == a.req && e.data.isSome && !e.relaxed
    if a.posted || (a.data.isSome && !a.relaxed && before) then s
    else match s.regionOf p a.pa with
    | none => s.hostEnd p n (some (if a.data.isSome then .aer n else .unsupported n))
    | some (rg, _) =>
      if s.rebinding p rg then s else
      let post := fun (ty : BitVec 6) (mask : W64) (data : Option Buf) =>
        (s.modPkg p fun x => { x with hostAccs := x.hostAccs.map fun e => if e.n = n then { e with posted := true } else e }).post
          p (homeDie a.pa) ty blk true (.host p n) mask 0 data
      match a.data with
      | some bs =>
        let mask := byteMask a.pa (bs.map some)
        let data := byteData a.pa (bs.map some)
        if tagWrites (s.homeTag blk) then (s.homeWrite blk mask data none).hostEnd p n none
        else post 0x02 mask (some ⟨data, s.homeDesc blk⟩)
      | none =>
        if tagReads (s.homeTag blk) then
          s.hostEnd p n (some (.data n (memRead s.mem a.pa a.len) ((s.homeDesc blk).fmt == 0xFF)))
        else post 0x00 0 none

/-- Every host access that can go on does, in order. -/
def State.hostPump (s : State) (p : PkgId) : State := (s.pkg p).hostAccs.foldl (fun (s : State) a => s.hostTry p a.n) s

/-- A suspended host access is settled. -/
def State.settleHost (s : State) (p : PkgId) (n : Nat) (v : Verdict) : State :=
  match (s.pkg p).hostAccs.find? fun a => a.n == n with
  | none => s
  | some a =>
    State.hostPump (match v with
    | .res => (s.modPkg p fun x => { x with hostAccs := x.hostAccs.map fun e => if e.n = n then { e with posted := false } else e }).hostTry p n
    | .deny => s.hostEnd p n (some (if a.data.isSome then .aer n else .unsupported n))
    | .sat buf _ =>
      if a.data.isSome then s.hostEnd p n none
      else s.hostEnd p n (some (.data n (((bytesB buf.data).drop (a.pa % 64)).take a.len) (buf.desc.fmt == 0xFF)))) p

/-! ### Settlement (R330) -/

/-- A settled access goes on, if prompt. -/
def State.goAcc (s : State) (k : CoreId) (id : Nat) : State :=
  let (l, s) := s.popLag
  if l = 0 then (s.drive 6 k id).finish k id else s

/-- The dispatching access of a message is settled (R330, R228). -/
def State.settle (s : State) (m : FMsg) (v : Verdict) : State :=
  match m.party with
  | .acc k id i => (s.settlePart k id i v).goAcc k id
  | .walk k id i => (s.settleWalk k id i v).goAcc k id
  | .rel k _ _ =>
    let s := s.settleWrite m v
    let (l, s) := s.popLag
    if l = 0 then s.pumpRels k else s
  | .wb _ _ _ _ _ => s.settleWrite m v
  | .dray k => s.settleDray k v
  | .host p n => s.settleHost p n v
  | _ => s

end Sys2Proof.Machine
end

