-- ==== Sys2Proof/Machine/Farrier.lean ====
section
/-! DEFINITION. Machine/Farrier.lean: dispatch (R259, R320, R322, R328), replies and `fdone` (R330, R334), and the farrier
group (R329-R338). -/

namespace Sys2Proof.Machine

/-! ### Replies (R259, R334) -/

/-- A reply reaches its thread: it answers a `freq.w`, or is counted for `fblk`; one to a thread that no longer awaits it is
discarded (R327). -/
def State.takeReply (s : State) (f : FarId) (uid : Nat) : State :=
  match (s.far f).reps.find? fun r => r.uid == uid with
  | none => s
  | some r =>
    if s.inFab uid then s
    else
      let s := s.modFar f fun x => { x with reps := x.reps.filter (fun e => e.uid != uid), owed := x.owed.erase r.req }
      s.modThread f r.thread fun th =>
        if th.awaits = some r.req then { th with answer := some r }
        else if th.blk.contains r.req then
          { th with blk := th.blk.erase r.req, blkN := th.blkN + 1, blkOr := th.blkOr ||| r.status }
        else th

/-- A reply leaves, prompt if the choice says so. -/
def State.sendReply (s : State) (src dst : FarId) (t : Fin 16) (req : Nat) (status : Byte) (data : Option Buf) : State :=
  let s := s.reply src dst t req status data
  let (l, s) := s.popLag
  if l = 0 then s.takeReply dst s.ids else s

/-- The first reply of a farrier that has arrived. -/
def State.nextReply (s : State) (f : FarId) : State :=
  match (s.far f).reps.find? fun r => !s.inFab r.uid with
  | some r => s.takeReply f r.uid
  | none => s

/-! ### The end of a handler (R330) -/

/-- The thread becomes free. -/
def State.endThread (s : State) (f : FarId) (t : Fin 16) : State :=
  s.modThread f t fun x =>
    { x with
      busy := false, msg := none, script := none, code := none, flight := [], blk := [], blkN := 0, blkOr := 0,
      awaits := none, answer := none, replied := false, dirty := false, inBlk := false, gap := 0, occ := 0 }

/-- HELD is cleared and the accesses whose handlers were killed are posted again first (R328). -/
def State.recover (s : State) (f : FarId) (blk : Nat) : State :=
  let s := s.setHeld f blk false
  s.modFar f fun x =>
    let mine := x.killed.filter fun m => m.blk == blk && m.acc
    { x with
      killed := x.killed.filter fun m => m.blk != blk,
      reqs := mine.map (fun m => { m with ty := if m.ty = 0x3F then m.was else m.ty, g6 := 0, g7 := 0 }) ++ x.reqs }

/-- The host port's answer at the end of an HSNP handler, with the home data where a die copy was dirty; and the return of a line of
which WBK has left no copy (R349, R393). -/
def State.portDone (s : State) (f : FarId) (t : Fin 16) (m : FMsg) : State :=
  let p := f % 64
  match m.party with
  | .snoop q line =>
    let data := if (s.thread f t).dirty then some (memRead s.mem (s.memAt (m.blk * 64)) 64) else none
    (s.leaveHost p m.blk).2.modPkg q fun x => { x with hostReps := x.hostReps ++ [.snoop line true data] }
  | _ =>
    if m.ty = 0x09 && (s.pkg p).cxl.contains m.blk && (List.range 8).all fun d => (s.l2 (p * 8 + d) m.blk).isNone then s.evictHost p m.blk
    else s

/-- `fdone` (R330): a farrier trap, or the handler's end and the settlement of its dispatcher. -/
def State.fdone (s : State) (f : FarId) (t : Fin 16) (act : BitVec 2) : Except Cause State :=
  let th := s.thread f t
  match th.msg with
  | none => .ok (s.endThread f t)
  | some m =>
    let buf := th.buf[0]
    let hold := fun (s : State) => s.modFar f fun x => { x with holds := x.holds ++ [{ m with ty := if m.ty = 0x3F then m.was else m.ty }] }
    let cleared := fun (s : State) => if m.ty = 0x3F && act = 0 then s.recover f m.blk else s
    if m.acc then
      let e := cleared ((s.portDone f t m).endThread f t)
      .ok (match act with
        | 0 => e.settle m .res
        | 1 => e.settle m (.sat buf th.hart.g[5])
        | 2 => e.settle m .deny
        | _ => hold e)
    else match m.party with
      | .far q u _ =>
        if th.replied then (if act = 3 then .error 0x01 else .ok (cleared (s.endThread f t)))
        else
          let e := cleared (s.endThread f t)
          .ok (match act with
            | 0 => e.sendReply f q u m.uid 0x00 none
            | 1 => e.sendReply f q u m.uid 0x00 (some buf)
            | 2 => e.sendReply f q u m.uid 0x01 none
            | _ => hold e)
      | _ => if act ≠ 0 then .error 0x01 else .ok (cleared ((s.portDone f t m).endThread f t))

/-- `fdone` with its trap made a kill. -/
def State.fdoneK (s : State) (f : FarId) (t : Fin 16) (act : BitVec 2) : State :=
  match s.fdone f t act with
  | .ok s => s
  | .error c => s.kill f t c

/-! ### Requests (R335) -/

/-- Reply entries held by a farrier's requests, each from its sending until its reply is delivered (R259). -/
def Farrier.reserved (x : Farrier) : Nat := x.owed.length

/-- A request of a thread to another farrier. -/
def State.request (s : State) (f : FarId) (t : Fin 16) (dst : FarId) (ty : BitVec 6) (blk : Nat) (data : Option Buf)
    (g12 : W64) (waits : Bool) : State :=
  let th := s.thread f t
  let m0 := th.msg
  let (id, s) := s.newId
  let m : FMsg :=
    { uid := id, ty := ty, blk := blk, region := (m0.map (·.region)).getD 0, prot := (m0.map (·.prot)).getD 0,
      sup := (4 ≤ ty.toNat && ty.toNat ≤ 6) && th.hart.g[1].getLsbD 22, acc := false, die := farDie f % 8, pkg := f % 64,
      party := .far f t waits, g4 := if (4 ≤ ty.toNat && ty.toNat ≤ 6) || ty = 0x0B then th.hart.g[4] else 0,
      g12 := g12, g13 := th.hart.g[13], data := data }
  ((s.enqueue dst (f % 64) m).modFar f fun x => { x with owed := x.owed ++ [id] }).modThread f t fun th =>
    if waits then { th with awaits := some id, answer := none } else { th with blk := th.blk ++ [id] }

/-! ### Dispatch (R320) -/

/-- A request that begins a transaction (R350). -/
def beginsTx (ty : BitVec 6) : Bool := ty.toNat ≤ 6

/-- The message belongs to a block. -/
def FMsg.hasBlk (m : FMsg) : Bool := m.ty != 0x38

/-- A request may be dispatched (R259, R320, R328, R350). -/
def State.dispatchable (s : State) (f : FarId) (m : FMsg) : Bool :=
  let held := m.hasBlk && (s.dirOf f m.blk).held
  !s.inFab m.uid &&
  (!m.hasBlk || !((s.far f).threads.toList.any fun th => th.busy &&
    (match th.msg with | some n => n.hasBlk && n.blk == m.blk | none => false))) &&
  (!held || (m.acc && m.sup)) &&
  (held || !(beginsTx m.ty && (s.pkg (f % 64)).rebind.contains m.region))

/-- g2 of a dispatched message: the requester's thread and the request, or an access. -/
def FMsg.token (m : FMsg) : W64 :=
  match m.party with
  | .far q u _ => BitVec.ofNat 64 (q % 2 ^ 13 + u.val * 2 ^ 13 + m.uid % 2 ^ 46 * 2 ^ 17)
  | _ => BitVec.ofNat 64 (2 ^ 63 + m.uid % 2 ^ 46 * 2 ^ 17)

/-- The state in which a handler starts (R320). -/
def Thread.start (th : Thread) (m : FMsg) (entry curb : Nat) (hset : Byte) (dirty : Bool) : Thread :=
  let gs : List W64 :=
    [BitVec.ofNat 64 (if m.hasBlk then m.blk * 64 else 0), m.info, m.token, BitVec.ofNat 64 curb,
     m.g4, m.g5, m.g6, m.g7, 0, 0, 0, 0, m.g12, m.g13]
  { th with
    hart := { g := Vector.ofFn fun (n : Fin 16) => gs.getD n.val 0, c := 1, pc := BitVec.ofNat 57 entry },
    buf := match m.data with | some b => th.buf.set 0 b | none => th.buf,
    busy := true, msg := some m, fcurb := curb, retired := 0, hset := hset, script := none, code := none, flight := [],
    blk := [], blkN := 0, blkOr := 0, awaits := none, answer := none, replied := false, dirty := dirty, inBlk := false, gap := 0, occ := 0 }

/-- Some die's copy of a block is DIRTY. -/
def State.anyDirty (s : State) (p : PkgId) (blk : Nat) : Bool :=
  (List.range 8).any fun d => match s.l2 (p * 8 + d) blk with | some c => c.dirty | none => false

/-- The custom entry a set binds for a type; standard sets bind none here (R322). -/
def Farrier.entryOf (x : Farrier) (hset : Nat) (ty : BitVec 6) : Option Nat := (fmGet {} x.sets hset).entries.lookup ty.toNat

/-- The oldest dispatchable request takes a free thread, the one of lowest number: R320 does not say which (DESIGN CHOICE, log 102).
The data of a host write comes with the description of the home line, which it must not change (R390). The answer is the thread whose
standard handler is to be chosen. -/
def State.dispatch (s : State) (f : FarId) : Option (Fin 16) × State :=
  let x := s.far f
  match (s.queue f).find? (s.dispatchable f), ((List.range 16).map (Fin.ofNat 16)).find? fun t => !x.threads[t].busy with
  | some m, some t =>
    let s := s.modFar f fun x => { x with reqs := x.reqs.filter fun e => e.uid != m.uid }
    let held := m.hasBlk && (s.dirOf f m.blk).held
    let m := if held && m.acc then
        match x.killed.reverse.find? fun e => e.blk == m.blk with
        | some e => { m with was := m.ty, ty := 0x3F, g6 := e.g6, g7 := e.g7 }
        | none => { m with was := m.ty, ty := 0x3F }
      else m
    let m := match m.party with | .host _ _ => { m with data := m.data.map fun b => ⟨b.data, s.homeDesc m.blk⟩ } | _ => m
    let r := s.region (f % 64) m.region
    let hset : Nat := if m.hasBlk then r.hset.toNat else m.region
    let curb := if m.hasBlk then r.curb else 4096
    let badProt := m.hasBlk && !m.acc && m.party != .none && m.prot != r.prot
    let badSet := m.hasBlk && r.prot.toNat < 6 && hset != r.prot.toNat
    let start := fun (entry : Nat) => s.modThread f t fun th => th.start m entry curb (BitVec.ofNat 8 hset) (s.anyDirty (f % 64) m.blk)
    if badProt || badSet then (none, (start 0).fdoneK f t 2)
    else if hset < 6 && m.hasBlk then (some t, start 0)
    else match x.entryOf hset m.ty with
      | some e => (none, start e)
      | none => (none, (start 0).fdoneK f t 2)
  | _, _ => (none, s)

/-! ### Descriptors (R333) -/

/-- A descriptor: block, location code; none with a reserved bit set. -/
def descOf (w : W64) : Option (Nat × Nat) :=
  if w.extractLsb' 58 2 ≠ 0 || w.extractLsb' 0 6 ≠ 0 then none
  else some ((w.extractLsb' 6 52).toNat, (w.extractLsb' 60 4).toNat)

/-- The block a block address names; bits [5:0] are ignored. -/
def blkOf (w : W64) : Nat := (w.extractLsb' 6 52).toNat

/-! ### The farrier group -/

/-- The instruction of a farrier, or a kill. -/
def farRes (r : Except Cause State) : Res := match r with | .ok s => .ok s | .error c => .trap c 0

/-- `fdone` ends the handler; nothing of it is retired after. -/
def fdoneRun (act : BitVec 2) (s : State) : Res :=
  match s.fdone s.ft.1 s.ft.2 act with
  | .ok s' => .wait (s'.modFar s.ft.1 fun x => { x with order := x.order.erase s.ft.2 ++ [s.ft.2] })
  | .error c => .trap c 0

/-- FDONE_RES (R330). -/
def execFdoneRes (f : Fields) (s : State) : Host.Outcome State Fault Refusal := issue (.fdoneRes f) f never (fdoneRun 0) s
/-- FDONE_SAT (R330). -/
def execFdoneSat (f : Fields) (s : State) : Host.Outcome State Fault Refusal := issue (.fdoneSat f) f never (fdoneRun 1) s
/-- FDONE_DENY (R330). -/
def execFdoneDeny (f : Fields) (s : State) : Host.Outcome State Fault Refusal := issue (.fdoneDeny f) f never (fdoneRun 2) s
/-- FDONE_HOLD (R330). -/
def execFdoneHold (f : Fields) (s : State) : Host.Outcome State Fault Refusal := issue (.fdoneHold f) f never (fdoneRun 3) s

/-- TAGRD (R331). -/
def execTagrd (f : Fields) (s : State) : Host.Outcome State Fault Refusal :=
  issue (.tagrd f) f never (fun s =>
    let blk := blkOf (s.hart.opd f.b)
    match locOf s.ft.1 blk (s.hart.opd f.c).toNat with
    | .error c => .trap c 0
    | .ok (.buf _) => .trap 0x07 0
    | .ok l =>
      let (tag, pres, dirty) := s.locTag blk l
      .ok (farDeliver f [.g (gIx f.a) (BitVec.ofNat 64 (tag.toNat + 4 * pres.toNat + 8 * dirty.toNat))] s)) s

/-- TAGWR (R331). -/
def execTagwr (f : Fields) (s : State) : Host.Outcome State Fault Refusal :=
  issue (.tagwr f) f never (fun s =>
    let blk := blkOf (s.hart.opd f.b)
    match locOf s.ft.1 blk (s.hart.opd f.c).toNat with
    | .error c => .trap c 0
    | .ok l => farRes (s.locSetTag blk l (f.mi.extractLsb' 17 2) (f.bit 19))) s

/-- DIRRD (R332). -/
def execDirrd (f : Fields) (s : State) : Host.Outcome State Fault Refusal :=
  issue (.dirrd f) f never (fun s =>
    let d := s.dirOf s.ft.1 (blkOf (s.hart.opd f.b))
    let a := gIx f.a
    .ok (farDeliver f [.g a d.w0, .g (a + 1) d.w1] s)) s

/-- DIRWR (R332). -/
def execDirwr (f : Fields) (s : State) : Host.Outcome State Fault Refusal :=
  issue (.dirwr f) f never (fun s =>
    let c := gIx f.c
    let (b, s') := s.dirWrite s.ft.1 (blkOf (s.hart.opd f.b)) s.hart.g[c] s.hart.g[c + 1]
    match f.a with
    | .c _ => .ok (s'.modHart fun h => h.destC f.a b)
    | _ => if b then .ok s' else .trap 0x07 0) s

/-- One block of `btx`. -/
def State.btxOne (s : State) (f : FarId) (t : Fin 16) (db dl sb sl : Nat) : Except Cause State :=
  match locOf f db dl, locOf f sb sl with
  | .error c, _ => .error c
  | _, .error c => .error c
  | .ok d, .ok e =>
    match s.locGet f t sb e with
    | none => .error 0x07
    | some b => .ok ((if e = .home then s.takeHost f sb else s).locPut f t db d b)

/-- BTX (R333): n blocks in order; a trap ends it with the blocks already moved. A run at location 9 that passes buffer 3 has the cause
of an operand out of its range, 0x01: R333 names none (DESIGN CHOICE, log 103). -/
def execBtx (f : Fields) (s : State) : Host.Outcome State Fault Refusal :=
  issue (.btx f) f never (fun s =>
    let (fr, t) := s.ft
    let n := (s.hart.opd f.c).toNat
    match descOf (s.hart.opd f.a), descOf (s.hart.opd f.b) with
    | some (db, dl), some (sb, sl) =>
      if n = 0 || 16 < n || (dl == 9 && 4 < db % 4 + n) || (sl == 9 && 4 < sb % 4 + n) || 9 < dl || 9 < sl then .trap 0x01 0
      -- a host line that the port has no room for waits until another has been recalled (R393)
      else if sl ≤ 8 && (List.range n).any (fun j => !s.hostReady fr (sb + j) && (match locOf fr (sb + j) sl with | .ok .home => true | _ => false)) then
        .hold (s.recallHost fr)
      else if dl ≤ 8 && dl ≠ 0 && (List.range n).any (fun j => s.l2Full (fr % 64 * 8 + (dl - 1)) (db + j)) then .hold s
      else
        let r := (List.range n).foldl (fun (r : Option Cause × State) j =>
          match r.1 with
          | some _ => r
          | none => match r.2.btxOne fr t (db + j) dl (sb + j) sl with
            | .ok s => (none, s)
            | .error c => (some c, r.2)) (none, s)
        match r.1 with
        | none => .ok r.2
        | some c => .trap c 0 false (some r.2)
    | _, _ => .trap 0x01 0) s

/-- FREP (R334). -/
def execFrep (f : Fields) (s : State) : Host.Outcome State Fault Refusal :=
  issue (.frep f) f never (fun s =>
    let (fr, t) := s.ft
    let k := s.hart.opd f.a
    if k.getLsbD 63 then .trap 0x07 0
    else
      let th := s.thread fr t
      let mine := match th.msg with | some m => m.token == k | none => false
      let s := s.sendReply fr (k.extractLsb' 0 13).toNat (k.extractLsb' 13 4).toFin (k.extractLsb' 17 46).toNat
        ((s.hart.opd f.b).setWidth 8) (if f.bit 17 then some th.buf[0] else none)
      .ok (if mine then s.modThread fr t fun th => { th with replied := true } else s)) s

/-- FREQ (R335). -/
def execFreq (f : Fields) (s : State) : Host.Outcome State Fault Refusal :=
  issue (.freq f) f never (fun s =>
    let (fr, t) := s.ft
    let th := s.thread fr t
    let ty : BitVec 6 := f.mi.extractLsb' 17 6
    let w := f.bit 24
    let dst := (s.hart.opd f.b).toNat % 2 ^ 13
    match th.awaits, th.answer with
    | some _, none => .hold s
    | some _, some r =>
      .ok (s.modThread fr t fun th =>
        { th with
          awaits := none, answer := none, hart := th.hart.dest f.a (r.status.setWidth 64),
          buf := match r.data with | some b => th.buf.set 1 b | none => th.buf })
    | none, _ =>
      if ty.toNat < 4 || (0x0C ≤ ty.toNat && ty.toNat ≤ 0x0F) || 0x38 ≤ ty.toNat || (w && f.a.isNone) || (!w && !f.a.isNone) then
        .trap 0x01 0
      else if !s.podHas (fr % 64) (dst % 64) || 84 < dst / 64 then .trap 0x07 0
      else if 64 ≤ (s.far fr).reserved then .hold s
      else
        let s := s.request fr t dst ty (blkOf (s.hart.opd f.c)) (if f.bit 23 then some th.buf[0] else none) th.hart.g[12] w
        if w then .wait s else .ok s) s

/-- FWAKE (R336). -/
def State.wake (s : State) (f : FarId) (blk : Nat) : State :=
  s.modFar f fun x =>
    { x with holds := x.holds.filter fun m => m.blk != blk, reqs := x.reqs ++ x.holds.filter fun m => m.blk == blk }
/-- FWAKE (R336). -/
def execFwake (f : Fields) (s : State) : Host.Outcome State Fault Refusal :=
  issue (.fwake f) f never (fun s => .ok (s.wake s.ft.1 (blkOf (s.hart.opd f.b)))) s

/-- FPOISON (R336). -/
def execFpoison (f : Fields) (s : State) : Host.Outcome State Fault Refusal :=
  issue (.fpoison f) f never (fun s =>
    let blk := blkOf (s.hart.opd f.b)
    match locOf s.ft.1 blk (s.hart.opd f.c).toNat with
    | .error c => .trap c 0
    | .ok l => farRes (s.locPoison s.ft.1 s.ft.2 blk l)) s

/-- FBLK (R337). -/
def execFblk (f : Fields) (s : State) : Host.Outcome State Fault Refusal :=
  issue (.fblk f) f never (fun s =>
    let (fr, t) := s.ft
    let th := s.thread fr t
    if !th.blk.isEmpty then .hold (s.modThread fr t fun th => { th with inBlk := true }).goOn else
    let x : W64 := BitVec.ofNat 64 (th.blkN.toNat + th.blkOr.toNat * 2 ^ 16)
    let s := s.modThread fr t fun th => { th with blkN := 0, blkOr := 0, inBlk := false }
    .ok (match f.a with | .g r => farDeliver f [.g r x] s | _ => s)) s

/-- FSTO (R338). -/
def execFsto (f : Fields) (s : State) : Host.Outcome State Fault Refusal :=
  issue (.fsto f) f never (fun s =>
    let (fr, t) := s.ft
    let mask : BitVec 64 := if f.c.isNone then BitVec.allOnes 64 else s.hart.opd f.c
    let opf := f.bits 17 3
    let r := s.region (fr % 64) (((s.thread fr t).msg.map (·.region)).getD 0)
    let op := if opf = 7 then stoOpOf r.rop (BitVec.ofNat 8 r.rty) else stoOpOf opf (f.ty.setWidth 8)
    if opf = 7 && r.rop = 0 then .trap 0x01 0
    else match descOf (s.hart.opd f.a), descOf (s.hart.opd f.b) with
    | some (db, dl), some (sb, sl) =>
      match locOf fr db dl, locOf fr sb sl with
      | .ok d, .ok e => farRes (s.sto fr t op mask db d sb e)
      | .error c, _ => .trap c 0
      | _, .error c => .trap c 0
    | _, _ => .trap 0x01 0) s

end Sys2Proof.Machine
end

