-- ==== Sys2Proof/Machine/Standard.lean ====
section
/-! DEFINITION. Machine/Standard.lean: the handlers of the standard sets 0-5, from the state tables of R339-R346 and R349,
as lists of acts (log 20), and the events of the farriers. -/

namespace Sys2Proof.Machine

/-! ### Directory words (R324) -/

def Dir.state (d : Dir) : Nat := (d.w0.extractLsb' 0 3).toNat
def Dir.opkg (d : Dir) : Nat := (d.w0.extractLsb' 4 6).toNat
def Dir.odie (d : Dir) : Nat := (d.w0.extractLsb' 10 3).toNat
def Dir.dies (d : Dir) : BitVec 8 := d.w0.extractLsb' 13 8
/-- A handler-use bit of a proxy's entry: the package holds the block writable. -/
def Dir.pw (d : Dir) : Bool := d.w0.getLsbD 21
def Dir.cnt (d : Dir) : Nat := (d.w0.extractLsb' 32 32).toNat

/-- The act of writing a directory entry. -/
def dirAct (st opkg odie : Nat) (dies : BitVec 8) (pw : Bool) (cnt : Nat) (pkgs : W64) : NAct :=
  .dir (BitVec.ofNat 64 (st + opkg * 2 ^ 4 + odie * 2 ^ 10 + dies.toNat * 2 ^ 13 + (if pw then 2 ^ 21 else 0) + cnt % 2 ^ 32 * 2 ^ 32)) pkgs
/-- State U. -/
def dirU : NAct := .dir 0 0

/-! ### Scripts at home (R340-R346) -/

/-- What a home script depends on. -/
structure HomeCtx where
  dir  : Dir
  /-- the requester: a die of the home package, or a package -/
  q    : Nat ⊕ Nat
  pkg  : Nat
  /-- the home die -/
  h    : Nat
  init : BitVec 2
  sup  : Bool
  mask : BitVec 64
  push : W64
deriving DecidableEq, Repr

/-- The requester is the home die. -/
def HomeCtx.atH (c : HomeCtx) : Bool := c.q == .inl c.h
/-- Holders with the requester. -/
def HomeCtx.plusDies (c : HomeCtx) : BitVec 8 := match c.q with | .inl d => if d = c.h then c.dir.dies else c.dir.dies ||| (1 <<< d) | .inr _ => c.dir.dies
def HomeCtx.plusPkgs (c : HomeCtx) : W64 := match c.q with | .inl _ => c.dir.w1 | .inr p => c.dir.w1 ||| (1 <<< p)
/-- Holders without the requester. -/
def HomeCtx.lessDies (c : HomeCtx) : BitVec 8 := match c.q with | .inl d => c.dir.dies &&& ~~~(1#8 <<< d) | .inr _ => c.dir.dies
def HomeCtx.lessPkgs (c : HomeCtx) : W64 := match c.q with | .inl _ => c.dir.w1 | .inr p => c.dir.w1 &&& ~~~(1#64 <<< p)
/-- E of the requester. -/
def HomeCtx.ownQ (c : HomeCtx) : NAct :=
  match c.q with | .inl d => dirAct 2 c.pkg d 0 false 0 0 | .inr p => dirAct 2 p 0 0 false 0 0
/-- The end of a row that grants: a package's data travels with its reply. -/
def HomeCtx.granted (c : HomeCtx) : NAct := .finish (match c.q with | .inl _ => 0 | .inr _ => 1)

/-- Counted requests to packages, awaited. -/
def askAll (ty : BitVec 6) (ps : W64) : List NAct := if ps = 0 then [] else [.send ty ps, .await]
/-- inv(H) (R339). -/
def invAll (dies : BitVec 8) (pkgs : W64) : List NAct := [.invDies dies] ++ askAll 0x07 pkgs
/-- fwd(o, t) (R339); nothing where the requester's package is itself the owner. -/
def HomeCtx.fwd (c : HomeCtx) (t : BitVec 2) : List NAct :=
  if c.dir.opkg = c.pkg then [.fwdDie c.dir.odie t]
  else if c.q = .inr c.dir.opkg then [] else [.ask 0x08 c.dir.opkg t]

/-- A request of the home die in state U: its line needs only its tag (and a host line the port). -/
def HomeCtx.homeOnly (c : HomeCtx) : List NAct := [.homeBuf, .home c.init, .finish 0]

/-- WBK (R341, R343); requests that found the copy already gone go on (log 20). -/
def HomeCtx.wbk (c : HomeCtx) : List NAct :=
  let fromO : Bool := c.dir.state == 2 && (match c.q with | .inl d => c.dir.opkg == c.pkg && c.dir.odie == d | .inr p => c.dir.opkg == p)
  if fromO then [.bufHome, .home 2, dirU, .wake, .finish 0] else [.finish 0]

/-- An atomic under the protocols that return the block home for it. -/
def HomeCtx.atom (c : HomeCtx) : List NAct :=
  if c.dir.state = 1 then invAll c.dir.dies c.dir.w1 ++ [.home 2, dirU, .finish 0]
  else if c.dir.state = 2 then c.fwd 0 ++ [.home 2, dirU, .finish 0]
  else [.homeBuf, .home 2, .finish 0]

/-- Set 0, invalidate (R341). -/
def script0 (c : HomeCtx) (isRead isAt : Bool) : List NAct :=
  if isAt then c.atom
  else match c.dir.state, isRead, c.atH with
  | 1, true, true => [.home 1, .finish 0]
  | 1, true, false => [.grant 1, dirAct 1 0 0 c.plusDies false 0 c.plusPkgs, c.granted]
  | 1, false, true => invAll c.dir.dies c.dir.w1 ++ [.home 2, dirU, .finish 0]
  | 1, false, false => invAll c.lessDies c.lessPkgs ++ [.grant 2, .home 0, c.ownQ, c.granted]
  | 2, true, h =>
    let od : BitVec 8 := if c.dir.opkg = c.pkg then 1 <<< c.dir.odie else 0
    let op : W64 := if c.dir.opkg = c.pkg then 0 else 1 <<< c.dir.opkg
    let c' := { c with dir := ⟨od.setWidth 64 <<< 13, op⟩ }
    c.fwd 1 ++ [.home 1] ++ (if h then [] else [.grant 1]) ++ [dirAct 1 0 0 c'.plusDies false 0 c'.plusPkgs, c.granted]
  | 2, false, false => c.fwd 0 ++ [.grant 2, c.ownQ, c.granted]
  | 2, false, true => c.fwd 0 ++ [.home 2, dirU, .finish 0]
  | _, true, true => [.homeBuf, .home 1, dirAct 1 0 0 0 false 0 0, .finish 0]
  | _, false, true => c.homeOnly
  | _, true, false => [.grant 1, .home 1, dirAct 1 0 0 c.plusDies false 0 c.plusPkgs, c.granted]
  | _, false, false => [.grant 2, .home 0, c.ownQ, c.granted]

/-- Set 1, update (R342); a requesting package is updated by its own proxy (log 20). -/
def script1 (c : HomeCtx) (isRead isWr isAt : Bool) : List NAct :=
  if isAt then c.atom
  else if isRead then
    if c.atH then (if c.dir.state = 1 then [.home 1, .finish 0] else c.homeOnly)
    else if c.dir.state = 1 then [.grant 1, dirAct 1 0 0 c.plusDies false 0 c.plusPkgs, c.granted]
    else [.grant 1, .home 1, dirAct 1 0 0 c.plusDies false 0 c.plusPkgs, c.granted]
  else if isWr then [.stoCopy, .updDies c.dir.dies] ++ askAll 0x0B c.lessPkgs ++ [.finish 1]
  else [.finish 1]

/-- Set 2, migratory (R343). -/
def script2 (c : HomeCtx) (isAt : Bool) : List NAct :=
  if isAt then c.atom
  else if c.dir.state = 2 then
    (if c.atH then c.fwd 0 ++ [.home 2, dirU, .finish 0] else c.fwd 0 ++ [.grant 2, c.ownQ, c.granted])
  else if c.atH then c.homeOnly
  else [.grant 2, .home 0, c.ownQ, c.granted]

/-- Set 3, producer push (R344). -/
def script3 (c : HomeCtx) (isRead isWr isAt : Bool) : List NAct :=
  let own := match c.q with | .inl _ => true | .inr _ => false
  if isRead then
    if c.atH then [.homeBuf, .home 1, dirAct 1 0 0 c.dir.dies false 0 c.dir.w1, .finish 0]
    else [.grant 1, dirAct 1 0 0 c.plusDies false 0 c.plusPkgs, c.granted]
  else if isAt || !own then [.finish 2]
  else if isWr then
    [.stoCopy, .updDies c.dir.dies] ++ askAll 0x0B c.dir.w1 ++ askAll 0x0A c.push ++
      [dirAct 1 0 0 c.dir.dies false 0 (c.dir.w1 ||| c.push), .finish 1]
  else [.finish 1]

/-- Set 4, write-once (R345). -/
def script4 (c : HomeCtx) (isRead isWr isAt : Bool) : List NAct :=
  if isAt then [.finish 2]
  else if c.dir.state = 3 then
    if isRead then
      if c.atH then [.home 1, .finish 0] else [.grant 1, dirAct 3 0 0 c.plusDies false 0 c.plusPkgs, c.granted]
    else [.finish 2]
  else if isRead then [.finish 3]
  else if isWr then [.stoCopy, .home 1, .wake, dirAct 3 0 0 0 false 0 0, .finish 1]
  else [.finish 1]

/-- Set 5, reduction (R346). -/
def script5 (c : HomeCtx) (isRead isWr isAt : Bool) : List NAct :=
  if isAt then [.finish 2]
  else if isRead then [.homeBuf, .finish 1]
  else if isWr then
    if c.sup then [.stoCopy, dirAct c.dir.state 0 0 0 false 0 0, .finish 1]
    else if someWords c.mask != fullWords c.mask then [.finish 2]
    else [.stoReg, dirAct c.dir.state 0 0 0 false (c.dir.cnt + 1) 0, .finish 1]
  else [.finish 1]

/-- RCV and REBIND at home (R340, R350). -/
def HomeCtx.retrieve (c : HomeCtx) (rcv : Bool) : List NAct :=
  let own := c.dir.state = 2
  let od : BitVec 8 := if own ∧ c.dir.opkg = c.pkg then 1 <<< c.dir.odie else 0
  invAll (c.dir.dies ||| od) c.dir.w1 ++ (if own ∧ c.dir.opkg ≠ c.pkg then [.ask 0x07 c.dir.opkg 0] else []) ++
    (if rcv then [.home c.init, dirU] else []) ++ [.finish 0]

/-- HSNP (R349): every die copy goes, dirty data to loc 0. What no copy bears on stays: a written block of set 4, a count of set 5. -/
def HomeCtx.snooped (c : HomeCtx) (hset : Nat) : List NAct :=
  let d := if hset = 4 ∧ c.dir.state = 3 then dirAct 3 0 0 0 false 0 0
    else if hset = 5 then dirAct c.dir.state 0 0 0 false c.dir.cnt 0
    else dirU
  [.invDies 0xFF, .home 0, d, .finish 0]

/-- The script of a message at a farrier of the block's home package. -/
def homeScript (c : HomeCtx) (hset : Nat) (ty : BitVec 6) : List NAct :=
  let rd := ty = 0x00 || ty = 0x04
  let wr := ty = 0x02 || ty = 0x06
  let at' := ty = 0x03
  if ty = 0x3F then c.retrieve true
  else if ty = 0x3E then c.retrieve false
  else if ty = 0x09 then c.wbk
  else if ty = 0x0C then c.snooped hset
  else if 6 < ty.toNat then [.finish 2]
  else match hset with
  | 0 => script0 c rd at'
  | 1 => script1 c rd wr at'
  | 2 => script2 c at'
  | 3 => script3 c rd wr at'
  | 4 => script4 c rd wr at'
  | _ => script5 c rd wr at'

/-! ### Scripts at a proxy (R339, R341) -/

/-- The script at the proxy: the package's own copies serve what they can, the rest is forwarded home. `has d` says that
die d holds a copy, `dirty d` that it is DIRTY. -/
def proxyScript (d0 : Dir) (has dirty : Nat → Bool) (hset : Nat) (m : FMsg) (p : Nat) : List NAct :=
  let d := m.die
  let holders := (List.range 8).filter has
  let dd : BitVec 8 := 1 <<< d
  let forward : List NAct := [.forward (if m.ty = 0x00 then 0x04 else if m.ty = 0x01 then 0x05 else 0x06)]
  let alone := fun (o : Nat) => [NAct.move o d true, dirAct 2 p d 0 true 0 0, .finish 0]
  let source := (holders.find? dirty).orElse fun _ => holders.head?
  match m.ty with
  | 0x3F | 0x3E => [.retHome]
  | 0x07 => [.recall 0]
  | 0x08 => [.recall (m.g12.setWidth 2)]
  -- the package's other copies are clean and go with it; a copy the package did not hold writable has nothing newer than home
  | 0x09 =>
    if d0.pw || d0.state = 2 then [.invDies 0xFF, .send 0x09 (1 <<< homePkg (m.blk * 64)), dirU, .finish 0] else [.finish 0]
  | 0x0A => [.pushDies, dirAct 1 0 0 0xFF false 0 0, .finish 0]
  | 0x0B => [.updDies 0xFF, .finish 0]
  | 0x00 | 0x01 | 0x02 =>
    if hset = 0 && m.ty = 0x00 then
      if has d then [.finish 0]
      else if d0.state = 2 && has d0.odie then
        [.move d0.odie d false, dirAct 1 0 0 (dd ||| (1 <<< d0.odie)) d0.pw 0 0, .finish 0]
      else if d0.state = 1 then
        match holders.head? with
        | some o => [.move o d false, dirAct 1 0 0 (d0.dies ||| dd) d0.pw 0 0, .finish 0]
        | none => forward
      else forward
    else if hset = 0 && d0.pw then (match source with | some o => alone o | none => forward)
    else if hset = 2 && d0.state = 2 then (match source with | some o => alone o | none => forward)
    else forward
  | _ => [.finish 2]

/-- What a proxy does with the home's ACK (R339, R346): installs the data with a tag, or satisfies the access. -/
def proxyAck (d0 : Dir) (hset : Nat) (m : FMsg) (p : Nat) (data : Bool) : List NAct :=
  let dd : BitVec 8 := 1 <<< m.die
  let shared := [NAct.grant 1, dirAct 1 0 0 (d0.dies ||| dd) false 0 0, .finish 0]
  let own := [NAct.recall 0, .grant 2, dirAct 2 p m.die 0 true 0 0, .finish 0]
  match hset, m.ty with
  | 5, _ => [.finish 1]
  | 2, _ => if data then own else [.finish 0]
  | 0, 0x00 | 1, 0x00 | 3, 0x00 | 4, 0x00 => if data then shared else [.finish 0]
  | 0, _ => if data then own else [.finish 0]
  | 1, 0x02 => [.updDies 0xFF, .finish 1]
  | _, _ => [.finish 1]

/-! ### Performing an act -/

/-- A die's copy is written home if DIRTY and leaves, or takes a tag. -/
def State.fwdCopy (s : State) (d : DieId) (blk : Nat) (t : BitVec 2) : State :=
  match s.l2 d blk with
  | none => s
  | some c =>
    let s := if c.dirty then s.locPut 0 0 blk .home c.buf else s
    if t = 0 then s.dropCopy d blk else (s.setL2 d blk { c with dirty := false }).setDieTag d blk t

/-- Dies of a set. -/
def diesOf (ds : BitVec 8) : List Nat := (List.range 8).filter ds.getLsbD
/-- Packages of a set. -/
def pkgsOf (ps : W64) : List Nat := (List.range 64).filter ps.getLsbD

/-- The thread's script. -/
def State.setScript (s : State) (f : FarId) (t : Fin 16) (l : List NAct) : State :=
  s.modThread f t fun th => { th with script := some l }

/-- The masked bytes of a buffer into a die's copy. -/
def State.updCopy (s : State) (d : DieId) (blk : Nat) (mask : BitVec 64) (b : Buf) : State :=
  match s.l2 d blk with
  | none => s
  | some c => match stoOn .copy mask c.buf b with
    | .ok (_, r) => s.setL2 d blk { c with buf := r, dirty := true }
    | .error _ => s

/-- One act of a standard handler; nothing where it must wait. -/
def State.nstep (s : State) (f : FarId) (t : Fin 16) : State :=
  let th := s.thread f t
  match th.script, th.msg with
  | some (a :: r), some m =>
    let p := f % 64
    let blk := m.blk
    let next := fun (s : State) => s.setScript f t r
    let b0 := th.buf[0]
    let req := p * 8 + m.die
    match a with
    | .grant tag =>
      if m.acc && !s.hostReady f blk then s.recallHost f
      else if m.acc && homeDie (blk * 64) ≠ req && s.l2Full req blk then s
      else if m.acc then
        if homePkg (blk * 64) = p && homeDie (blk * 64) = req then next ((s.takeHost f blk).setHomeTag blk tag)
        else
          let fill := if homePkg (blk * 64) = p then s.homeBuf blk else th.buf[1]
          let s := s.takeHost f blk
          let s := if (s.l2 req blk).isSome && homePkg (blk * 64) = p then s
            else s.setL2 req blk { buf := fill, tag := match s.l2 req blk with | some c => c.tag | none => 0, dirty := false }
          next (s.setDieTag req blk tag)
      else next (s.modThread f t fun th => { th with buf := th.buf.set 0 (s.homeBuf blk) })
    | .home tag => next (s.setHomeTag blk tag)
    | .bufHome => next (s.locPut f t blk .home b0)
    | .homeBuf => if !s.hostReady f blk then s.recallHost f else next ((s.takeHost f blk).modThread f t fun th => { th with buf := th.buf.set 0 (s.homeBuf blk) })
    | .stoCopy =>
      -- a host write keeps the home line's description (R390)
      let s := match m.party with
        | .host _ _ => s.modThread f t fun th => { th with buf := th.buf.set 0 ⟨b0.data, s.homeDesc blk⟩ }
        | _ => s
      match s.sto f t .copy m.g4 blk .home 0 (.buf 0) with | .ok s => next s | .error c => s.kill f t c
    | .stoReg =>
      let rg := s.region p m.region
      if rg.rop = 0 then s.kill f t 0x01
      else match s.sto f t (stoOpOf rg.rop (BitVec.ofNat 8 rg.rty)) m.g4 blk .home 0 (.buf 0) with
        | .ok s => next s
        | .error c => s.kill f t c
    | .invDies ds => next ((diesOf ds).foldl (fun s d => s.fwdCopy (p * 8 + d) blk 0) s)
    | .fwdDie d tag => next (s.fwdCopy (p * 8 + d) blk tag)
    | .send ty ps =>
      let qs := (pkgsOf ps).filter fun q => q != p && s.podHas p q
      if 64 < (s.far f).reserved + qs.length then s
      else
        let data := if ty = 0x0A then some (s.homeBuf blk) else if ty = 0x0B || ty = 0x09 then some b0 else none
        next (qs.foldl (fun s q => s.request f t (postFarrier q (blk * 64)) ty blk data 0 false) s)
    | .ask ty q tag =>
      match th.awaits, th.answer with
      | none, _ => if 64 ≤ (s.far f).reserved then s else s.request f t (postFarrier q (blk * 64)) ty blk none (tag.setWidth 64) true
      | some _, none => s
      | some _, some a =>
        let s := match a.data with | some b => s.locPut f t blk .home b | none => s
        let s := s.modThread f t fun th => { th with awaits := none, answer := none }
        -- the owner's write-back is on its way: the request is held until it has come (log 20)
        if a.status = 0x01 && beginsTx m.ty then s.setScript f t [.finish 3] else next s
    | .await => if th.blk.isEmpty then next (s.modThread f t fun th => { th with blkN := 0, blkOr := 0 }) else s
    | .updDies ds => next ((diesOf ds).foldl (fun s d => s.updCopy (p * 8 + d) blk m.g4 b0) s)
    | .recall tag =>
      let none' := (List.range 8).all fun d => (s.l2 (p * 8 + d) blk).isNone
      let dirty := (List.range 8).findSome? fun d => (s.l2 (p * 8 + d) blk).bind fun c => if c.dirty then some c.buf else none
      let s := (List.range 8).foldl (fun s d => match s.l2 (p * 8 + d) blk with
        | some c => if tag = 0 then s.dropCopy (p * 8 + d) blk else (s.setL2 (p * 8 + d) blk { c with dirty := false }).setDieTag (p * 8 + d) blk tag
        | none => s) s
      if m.acc then next s
      else
        let d := s.dirOf f blk
        let held := (List.range 8).foldl (fun (x : BitVec 8) i => if (s.l2 (p * 8 + i) blk).isSome then x ||| (1 <<< i) else x) 0
        let s := match dirty with | some b => s.modThread f t fun th => { th with buf := th.buf.set 0 b } | none => s
        -- with no copy and no entry its write-back has left; with an entry a clean copy was dropped, and home has the data (R339, R341)
        let fin : NAct := .finish (if dirty.isSome then 1 else if m.ty = 0x08 && none' && d.state = 0 then 2 else 0)
        s.setScript f t (if tag = 0 then [dirU, fin] else [dirAct 1 0 0 (held ||| d.dies) false 0 0, fin])
    | .retHome =>
      if 64 ≤ (s.far f).reserved then s else
      let dirty := (List.range 8).findSome? fun d => (s.l2 (p * 8 + d) blk).bind fun c => if c.dirty then some c.buf else none
      let s := (List.range 8).foldl (fun s d => s.dropCopy (p * 8 + d) blk) s
      match dirty with
      | some b => (s.request f t (homeFarrier (blk * 64)) 0x09 blk (some b) 0 false).setScript f t [.await, dirU, .finish 0]
      | none => s.setScript f t [dirU, .finish 0]
    | .pushDies =>
      if (List.range 8).any fun d => s.l2Full (p * 8 + d) blk then s else
      next ((List.range 8).foldl (fun s d => (s.setL2 (p * 8 + d) blk { buf := b0, tag := 0 }).setDieTag (p * 8 + d) blk 1) s)
    | .move o d alone =>
      match s.l2 (p * 8 + o) blk with
      | none => next s
      | some c =>
        if s.l2Full (p * 8 + d) blk then s
        else if alone then
          let dirty := s.anyDirty p blk
          let s := (List.range 8).foldl (fun s i => if i = d then s else s.dropCopy (p * 8 + i) blk) s
          next ((s.setL2 (p * 8 + d) blk { buf := c.buf, tag := 0, dirty := dirty }).setDieTag (p * 8 + d) blk 2)
        else
          let s := s.setDieTag (p * 8 + o) blk 1
          next ((s.setL2 (p * 8 + d) blk { buf := c.buf, tag := 0 }).setDieTag (p * 8 + d) blk 1)
    | .dir w0 w1 =>
      match s.dirWrite f blk w0 w1 with
      | (true, s) => next s
      -- an entry that cannot be placed ends a handler that does not ask (R332, log 98)
      | (false, s) => s.kill f t 0x07
    | .wake => next (s.wake f blk)
    | .forward ty =>
      match th.awaits, th.answer with
      | none, _ =>
        if 64 ≤ (s.far f).reserved then s
        else s.request f t (homeFarrier (blk * 64)) ty blk (if ty = 0x06 then some b0 else none) 0 true
      | some _, none => s
      | some _, some a =>
        let s := s.modThread f t fun th =>
          { th with
            awaits := none, answer := none,
            buf := match a.data with
              | some b => if th.hset = 5 then (th.buf.set 1 b).set 0 b else th.buf.set 1 b
              | none => th.buf }
        s.setScript f t (if a.status = 0x00 then proxyAck (s.dirOf f blk) th.hset.toNat m p a.data.isSome
          else if a.status = 0x01 then [.finish 2] else [.finish 0])
    | .finish act => s.fdoneK f t act
  | _, _ => s

/-- A standard handler goes on until it waits or ends, at most `n` acts. -/
def State.nrun (s : State) (f : FarId) (t : Fin 16) (n : Nat) : State := (List.range n).foldl (fun s _ => s.nstep f t) s

/-- The holders, owners and push targets that an act sends to; `held` counts the package's own copies (R322). -/
def NAct.parties (held : Nat) : NAct → Nat
  | .invDies ds | .updDies ds => (diesOf ds).length
  | .send _ ps => (pkgsOf ps).length
  | .fwdDie _ _ | .ask _ _ _ | .move _ _ _ => 1
  | .recall _ | .retHome => held
  | .pushDies => 7
  | .forward _ => 1 + held
  | _ => 0

/-- The most instructions a standard handler retires for its message (R322). -/
def scriptNeed (held : Nat) (l : List NAct) : Nat := 16 + 4 * min 70 (l.map (NAct.parties held)).sum

/-- A standard handler starts on its script; a budget that may not cover it leaves `fcurb` at 0, so that it may be killed. -/
def State.startScript (s : State) (f : FarId) (t : Fin 16) (l : List NAct) : State :=
  let held := match (s.thread f t).msg with
    | some m => (List.range 8).countP fun d => (s.l2 (f % 64 * 8 + d) m.blk).isSome
    | none => 0
  s.modThread f t fun th => { th with script := some l, fcurb := th.fcurb + 1 - scriptNeed held l }

/-- The script of the message a thread has been started with. -/
def State.chooseScript (s : State) (f : FarId) (t : Fin 16) : State :=
  match (s.thread f t).msg with
  | none => s
  | some m =>
    let p := f % 64
    let r := s.region p m.region
    let hset := r.hset.toNat
    let d0 := s.dirOf f m.blk
    let d0 : Dir := { d0 with w0 := d0.w0 &&& ~~~0x80000000 }
    if homePkg (m.blk * 64) = p then
      let c : HomeCtx :=
        { dir := d0, q := if m.acc then .inl m.die else if m.pkg = p then .inl m.die else .inr m.pkg, pkg := p,
          h := homeDie (m.blk * 64) % 8, init := s.initTag m.blk, sup := m.sup, mask := m.g4, push := r.w2 }
      s.startScript f t (homeScript c hset m.ty)
    else
      let at' := fun (d : Nat) => s.l2 (p * 8 + d) m.blk
      s.startScript f t (proxyScript d0 (fun d => (at' d).isSome) (fun d => match at' d with | some c => c.dirty | none => false) hset m p)

/-- Dispatch, and a prompt standard handler at once. -/
def State.dispatchRun (s : State) (f : FarId) : State :=
  match s.dispatch f with
  | (none, s) => s
  | (some t, s) =>
    let s := s.chooseScript f t
    let (l, s) := s.popLag
    if l = 0 then s.nrun f t 24 else s

/-! ### Events -/

/-- The type under which the next dispatchable request would run. -/
def State.nextType (s : State) (f : FarId) : Option (BitVec 6) :=
  ((s.queue f).find? (s.dispatchable f)).map fun m => if m.hasBlk && (s.dirOf f m.blk).held && m.acc then 0x3F else m.ty

/-- The handler of a message of these types: its next act (all it can do, if prompt), or its dispatch. -/
def handlerTurn (tys : List Nat) (f : FarId) (t : Fin 16) (s : State) : Host.Outcome State Fault Refusal :=
  let th := s.thread f t
  let mine := th.busy && th.script.isSome && (match th.msg with | some m => tys.contains m.ty.toNat | none => false)
  .next (if mine then
      let (l, s) := s.popLag
      if l = 0 then s.nrun f t 24 else s.nstep f t
    else match s.nextType f with
      | some ty => if tys.contains ty.toNat then s.dispatchRun f else s
      | none => s)

/-- FARRIER_DISPATCH (R259, R320). -/
def execFarrierDispatch (f : FarId) (s : State) : Host.Outcome State Fault Refusal := .next (s.dispatchRun f)
/-- GETS (R321). -/
def execGets (f : FarId) (t : Fin 16) (s : State) : Host.Outcome State Fault Refusal := handlerTurn [0x00] f t s
/-- GETX (R321). -/
def execGetx (f : FarId) (t : Fin 16) (s : State) : Host.Outcome State Fault Refusal := handlerTurn [0x01] f t s
/-- WR (R321). -/
def execWrI (f : FarId) (t : Fin 16) (s : State) : Host.Outcome State Fault Refusal := handlerTurn [0x02] f t s
/-- AT (R321). -/
def execAtI (f : FarId) (t : Fin 16) (s : State) : Host.Outcome State Fault Refusal := handlerTurn [0x03] f t s
/-- RGETS (R321). -/
def execRgets (f : FarId) (t : Fin 16) (s : State) : Host.Outcome State Fault Refusal := handlerTurn [0x04] f t s
/-- RGETX (R321). -/
def execRgetx (f : FarId) (t : Fin 16) (s : State) : Host.Outcome State Fault Refusal := handlerTurn [0x05] f t s
/-- RWR (R321). -/
def execRwr (f : FarId) (t : Fin 16) (s : State) : Host.Outcome State Fault Refusal := handlerTurn [0x06] f t s
/-- INV (R321). -/
def execInv (f : FarId) (t : Fin 16) (s : State) : Host.Outcome State Fault Refusal := handlerTurn [0x07] f t s
/-- FWD (R321). -/
def execFwd (f : FarId) (t : Fin 16) (s : State) : Host.Outcome State Fault Refusal := handlerTurn [0x08] f t s
/-- Lines of the dies of farrier f's package that a replacement in L2 may take, none while a handler runs for the block or it is held
(R202, R323, R328): clean read-only copies (R339), writable and DIRTY copies for which no request waits (log 23), and the home lines of
a CXL device or the host at their port's slice, of a host line only once no die has a copy. -/
def State.evictable (s : State) (f : FarId) : List (DieId × Nat) :=
  let p := f % 64
  let x := s.far f
  let free := fun (blk : Nat) => postFarrier p (blk * 64) == f && !(s.dirOf f blk).held && !((s.pkg p).far.any fun e =>
    e.2.threads.toList.any fun th => th.busy && (match th.msg with | some m => m.hasBlk && m.blk == blk | none => false))
  let still := fun (blk : Nat) => x.reqs.all fun m => m.blk != blk
  let copies := (List.range 8).flatMap fun n => ((s.die (p * 8 + n)).l2.filter fun e =>
    free e.1 && ((e.2.tag != 2 && !e.2.dirty) || still e.1)).map fun e => (p * 8 + n, e.1)
  let homes := (s.side.filter fun e => homePkg (e.1 * 64) == p && !isHbm (e.1 * 64) && e.2.tag.any (· != 0) && free e.1 && still e.1 &&
    (homeOf (e.1 * 64) != .host || (List.range 8).all fun d => (s.l2 (p * 8 + d) e.1).isNone)).map fun e => (homeDie (e.1 * 64), e.1)
  copies ++ homes

/-- A line leaves its die: a writable or DIRTY copy posts WBK with its data (R321, R349); a home line at its port's slice reads invalid
from then on (R202). -/
def State.evictCopy (s : State) (f : FarId) (d : DieId) (blk : Nat) : State :=
  match s.l2 d blk with
  | none =>
    if !atHome d blk || isHbm (blk * 64) then s
    else if (s.pkg (f % 64)).cxl.contains blk then s.evictHost (f % 64) blk
    else s.setHomeTag blk 0
  | some c =>
    let s := s.dropCopy d blk
    if c.tag ≠ 2 ∧ !c.dirty then s
    else
      let (id, s) := s.newId
      let r := s.regionOf (f % 64) (blk * 64)
      s.enqueue f (f % 64)
        { uid := id, ty := 0x09, blk := blk, region := (r.map (·.1)).getD 0, prot := (r.map (·.2.prot)).getD 0, sup := false,
          acc := false, die := d % 8, pkg := f % 64, party := .none, data := some c.buf }

/-- WBK (R321): a WBK handler's turn, or its dispatch; otherwise a replacement in L2, where the choice names a copy. -/
def execWbk (f : FarId) (t : Fin 16) (s : State) : Host.Outcome State Fault Refusal :=
  let th := s.thread f t
  let mine := th.busy && th.script.isSome && (match th.msg with | some m => m.ty == 0x09 | none => false)
  if mine || s.nextType f == some 0x09 then handlerTurn [0x09] f t s
  else
    let (l, s) := s.popLag
    .next (match (if l = 0 then none else (s.evictable f)[l - 1]?) with | some e => s.evictCopy f e.1 e.2 | none => s)
/-- PUSH (R321). -/
def execPush (f : FarId) (t : Fin 16) (s : State) : Host.Outcome State Fault Refusal := handlerTurn [0x0A] f t s
/-- UPD (R321). -/
def execUpd (f : FarId) (t : Fin 16) (s : State) : Host.Outcome State Fault Refusal := handlerTurn [0x0B] f t s
/-- HSNP (R349). -/
def execHsnp (f : FarId) (t : Fin 16) (s : State) : Host.Outcome State Fault Refusal := handlerTurn [0x0C] f t s
/-- CUSTOM_REQUEST (R321): types 0x10-0x37. -/
def execCustomRequest (f : FarId) (t : Fin 16) (s : State) : Host.Outcome State Fault Refusal :=
  handlerTurn ((List.range 40).map (· + 0x10)) f t s
/-- INIT (R322). -/
def execInitI (f : FarId) (t : Fin 16) (s : State) : Host.Outcome State Fault Refusal := handlerTurn [0x38] f t s
/-- REBIND (R350). -/
def execRebind (f : FarId) (t : Fin 16) (s : State) : Host.Outcome State Fault Refusal := handlerTurn [0x3E] f t s
/-- RCV (R328, R340). -/
def execRcv (f : FarId) (t : Fin 16) (s : State) : Host.Outcome State Fault Refusal := handlerTurn [0x3F] f t s

/-- FARRIER_REPLY (R259): a reply is delivered, and the standard handler that awaited it goes on if prompt. -/
def execFarrierReply (f : FarId) (s : State) : Host.Outcome State Fault Refusal :=
  .next (match (s.far f).reps.find? fun r => !s.inFab r.uid with
    | none => s
    | some r =>
      let s := s.takeReply f r.uid
      let (l, s) := s.popLag
      if l = 0 && (s.thread f r.thread).script.isSome then s.nrun f r.thread 24 else s)

/-- CURB_KILL (R326, R327): a handler at its budget; a standard one whose region grants less than it may need (R322). -/
def execCurbKill (f : FarId) (t : Fin 16) (s : State) : Host.Outcome State Fault Refusal :=
  .next (
    let th := s.thread f t
    if th.busy && th.fcurb == 0 then s.kill f t 0x0E else s)

/-- A handler stands in a `freq.w` or `fblk` wait (R326). -/
def Thread.waiting (th : Thread) : Bool :=
  (th.awaits.isSome && th.answer.isNone) ||
  (!th.blk.isEmpty && match th.script with | some (.await :: _) => true | some _ => false | none => th.inBlk)

/-- CURB_WAIT_TIMEOUT (R326): the handler has waited for longer than its limit. -/
def execCurbWaitTimeout (f : FarId) (t : Fin 16) (s : State) : Host.Outcome State Fault Refusal :=
  .next (
    let th := s.thread f t
    if th.busy && th.waiting then s.kill f t 0x0E else s)

end Sys2Proof.Machine
end

