-- ==== Sys2Proof/Machine/Table.lean ====
section
/-! DEFINITION. Machine/Table.lean: the table group (R286-R313) and the completion of its instructions. -/

namespace Sys2Proof.Machine

/-! ### Running a table instruction (R303) -/

/-- What the update of a table instruction comes to. -/
inductive TOut where
  /-- it must wait, having gone on or not -/
  | wait (moved : Bool) (j : TJob) (s : State)
  | fin (v : W64) (s : State)

/-- The context waits in a table instruction. -/
def State.park' (s : State) (w : CWait) : State := s.modMe fun x => { x with wait := w }

/-- A table instruction: its checks at issue, an opening release, its update now or at its completion (log 7). -/
def tableRun (f : Fields) (chk : State → Option Res) (scope : Option Nat) (job : State → TJob) (eff : TJob → State → TOut)
    (s : State) : Res :=
  let (k, c) := s.kc
  let land := fun (v : W64) (s : State) => Res.ok ((s.park' .none).modHart (·.dest f.a v))
  let make := fun (j : TJob) (s0 : State) => match eff j s0 with
    | .wait moved j s => if moved then .wait (s.park' (.table j none true)) else .hold s0
    | .fin v s => land v s
  let enter := fun (j : TJob) (s : State) =>
    let (l, s) := s.popLag
    if l = 0 then make j s
    else if l % 2 = 1 then match eff j s with
      | .wait _ j s => .wait (s.park' (.table j none true))
      | .fin v s => .wait (s.park' (.table j (some v) false))
    else .wait (s.park' (.table j none false))
  match s.me.wait with
  | .table j r d => if !d then .hold s else match r with | some v => land v s | none => make j s
  | .release rel j => if s.relOpen k rel then .hold s else enter j s
  | _ =>
    match chk s with
    | some r => r
    | none => match scope with
      | none => enter (job s) s
      | some sc =>
        let j := job s
        match s.release k c sc false with
        | none => .hold s
        | some (rel, s) =>
          let s := s.park' (.release rel j)
          if s.relOpen k rel then .wait s else enter j s

/-- A table instruction with one act and no job of its own. -/
def tableAct (f : Fields) (chk : State → Option Res) (eff : State → W64 × State) (s : State) : Res :=
  tableRun f chk none (fun _ => .plain) (fun _ s => let r := eff s; .fin r.1 r.2) s

/-- A value check at issue: cause 0x01 with the word's upper bits (R303, R370). -/
def valTrap (i : Instr) (bad : Bool) : Option Res := if bad then some (.trap 0x01 (wordHigh i)) else none

/-- The first check that fails. -/
def firstTrap (cs : List (Option Res)) : Option Res := cs.findSome? id

/-- TABLE_INSTRUCTION_COMPLETE (R303). -/
def execTableInstructionComplete (k : CoreId) (c : Fin 8) (s : State) : Host.Outcome State Fault Refusal :=
  .next (match (s.ctx k c).wait with
    | .table j r false => s.modCtx k c fun x => { x with wait := .table j r true }
    | _ => s)

/-! ### The region table (R287, R289, R304) -/

/-- A reserved bit or code, a size or curb out of range, or reduction and push words without their protocol (R304). -/
def Region.illegal (r : Region) : Bool :=
  let p := r.prot.toNat
  let fm := r.desc.fmt.toNat
  r.w0.extractLsb' 7 14 != 0 || r.w0.extractLsb' 58 6 != 0 || r.w1.extractLsb' 46 2 != 0 || p == 6 || p == 7 ||
  decide (0xD ≤ r.home) || (decide (0x0B ≤ fm) && decide (fm ≤ 0xFE)) || decide (r.lsz < 21) || decide (52 < r.lsz) ||
  r.curb == 0 || decide (4096 < r.curb) || (p != 5 && (r.rop != 0 || r.rty != 0)) || (p != 3 && r.w2 != 0) ||
  (p == 5 && (r.rop == 0 || decide (6 < r.rop) || (r.rty != 9 && r.rty != 10) || (decide (4 ≤ r.rop) && r.rty == 9)))

/-- The range lies within what HOME names (R190). -/
def Region.inHome (r : Region) (p : PkgId) : Bool :=
  let lo := r.base % 2 ^ 52
  let hi := lo + 2 ^ r.lsz
  let q := homePkg r.base
  if r.home < 8 then decide (r.home * 0x1E00000000 ≤ lo) && decide (hi ≤ (r.home + 1) * 0x1E00000000)
  else if r.home < 0xC then
    q == p && decide ((r.home - 7) * 2 ^ 44 ≤ lo) && decide (hi ≤ (r.home - 6) * 2 ^ 44)
  else q == p && decide (2 ^ 47 ≤ lo) && decide (hi ≤ 2 ^ 48)

/-- Two ranges overlap. -/
def Region.meets (r t : Region) : Bool :=
  r.v && t.v && decide (r.base < t.base + 2 ^ t.lsz) && decide (t.base < r.base + 2 ^ r.lsz)

/-- The address checks of `rtset`, with the mode of port 0 (R304, R391). -/
def State.regionBad (s : State) (p : PkgId) (idx : Nat) (r : Region) : Bool :=
  r.base % 2 ^ r.lsz != 0 || !r.inHome p || (r.home == 0xC && !(s.pkg p).port0Host) || (r.home == 8 && (s.pkg p).port0Host) ||
  (s.pkg p).regions.any fun e => e.1 != idx && r.meets e.2

/-- The entry that `rtset` leaves: V alone with V = 0, OWN as R304 says. -/
def Region.written (old new : Region) : Region :=
  if new.v then
    { new with w1 := (new.w1 &&& ~~~(1#64 <<< 45)) ||| (if old.v && old.own then 1#64 <<< 45 else 0) }
  else { old with w0 := old.w0 &&& ~~~1 }

/-- PROT or HSET changes in an entry that stays valid (R289). -/
def Region.rebinds (old new : Region) : Bool := old.v && new.v && (old.prot != new.prot || old.hset != new.hset)

def State.setRegion (s : State) (p : PkgId) (idx : Nat) (r : Region) : State :=
  s.modPkg p fun x => { x with regions := fmSet x.regions idx r }

/-- The initial tags of an entry's blocks stand from here on, where no earlier entry gave them theirs (R289). -/
def State.keepTags (s : State) (p : PkgId) (r : Region) : State :=
  let known := (s.pkg p).inits.any fun e => decide (e.1 ≤ r.base) && decide (r.base + 2 ^ r.lsz ≤ e.1 + 2 ^ e.2.1)
  if r.v && homePkg r.base == p && !known then s.modPkg p fun x => { x with inits := x.inits ++ [(r.base, r.lsz, s.protTag r r.base)] }
  else s

/-- The blocks of a range that have a home tag of their own or lie in an L1 of the package. -/
def State.tagged (s : State) (p : PkgId) (has : Nat → Bool) : List Nat :=
  let sides := (s.side.filter fun e => e.2.tag.isSome && has (e.1 * 64)).map (·.1)
  let lines := (s.cores.filter fun e => pkgOf e.1 == p).flatMap fun e =>
    e.2.l1.flatMap fun l => [2 * l.line, 2 * l.line + 1].filter fun b => has (b * 64)
  (sides ++ lines).eraseDups.filter fun b => homePkg (b * 64) == p

/-- A farrier runs a handler of a region. -/
def Farrier.runs (x : Farrier) (idx : Nat) : Bool :=
  x.threads.toList.any fun th => th.busy && (match th.msg with | some m => m.hasBlk && m.region == idx | none => false)

/-- Step 2 of a rebind on one farrier: REBIND for each entry of the region that is not held (R350). -/
def State.queueRebind (s : State) (p : PkgId) (f : FarId) (idx : Nat) (old : Region) : State :=
  ((s.dirAll f).filter fun e => old.has (e.1 * 64) && !e.2.held).foldl (fun s e =>
    let (id, s) := s.newId
    s.enqueue f p { uid := id, ty := 0x3E, blk := e.1, region := idx, prot := old.prot, sup := false, acc := false,
                    die := farDie f % 8, pkg := p, party := .none }) s

/-- Every directory entry of a farrier for the blocks of a range is cleared, in its cache and in its spill table. -/
def State.clearDir (s : State) (f : FarId) (has : Nat → Bool) : State :=
  ((s.dirAll f).filter fun e => has (e.1 * 64)).foldl (fun s e => s.setDir f e.1 {}) s

/-- Steps 3 and 4 of a rebind (R350). A REBIND whose block a kill has left held is not dispatched, and goes. -/
def State.rebindNow (s : State) (p : PkgId) (idx : Nat) (old new : Region) : State :=
  let has := fun (pa : Nat) => old.has pa || new.has pa
  let fars := (s.pkg p).far.map fun e => p + 64 * e.1
  let lost : List Nat := fars.flatMap fun f => ((s.far f).killed.filter fun m => m.ty == 0x3E && has (m.blk * 64)).map (·.blk)
  let blks := s.tagged p has
  let s := s.setRegion p idx new
  let s := s.modPkg p fun x => { x with inits := (new.base, new.lsz, s.protTag new new.base) :: x.inits }
  let s := blks.foldl (fun (s : State) b => s.setHomeTag b (s.initTag b)) s
  let s := fars.foldl (fun (s : State) f => (s.clearDir f has).modFar f fun x =>
    let mine := x.killed.filter fun m => m.acc && has (m.blk * 64)
    let fresh := fun (m : FMsg) => if m.acc && has (m.blk * 64) then { m with prot := new.prot } else m
    { x with
      killed := x.killed.filter fun m => !has (m.blk * 64) || m.ty == 0x3E,
      reqs := (mine.map fun m => { fresh m with ty := if m.ty = 0x3F then m.was else m.ty, g6 := 0, g7 := 0 }) ++
        (x.reqs.filter fun m => !(m.ty == 0x3E && has (m.blk * 64))).map fresh }) s
  let s := lost.foldl (fun (s : State) b =>
    let s := if homePkg (b * 64) = p then s.setHomeTag b 3 else s
    s.setHeld (postFarrier p (b * 64)) b true) s
  s.modPkg p fun x => { x with rebind := x.rebind.erase idx }

/-- The update of `rtset`, through a rebind where one is due. -/
def rtsetEff (p : PkgId) (idx : Nat) (w : Region) (j : TJob) (s : State) : TOut :=
  let old := s.region p idx
  let new := old.written w
  if !old.rebinds new then
    let s := (s.keepTags p old).setRegion p idx new
    .fin 0 (s.keepTags p new)
  else
    let begin := match j with | .rebind b => some b | _ => if (s.pkg p).rebind.contains idx then none else some []
    match begin with
    | none => .wait false j s
    | some begun =>
      let s := s.modPkg p fun x => { x with rebind := if x.rebind.contains idx then x.rebind else x.rebind ++ [idx] }
      let fars := (s.pkg p).far.map fun e => p + 64 * e.1
      let ready := fars.filter fun f => !begun.contains f && !(s.far f).runs idx
      let s := ready.foldl (fun s f => s.queueRebind p f idx old) s
      let begun' := begun ++ ready
      let open' := fars.any fun f => !begun'.contains f || (s.far f).runs idx ||
        (s.far f).reqs.any fun m => m.ty == 0x3E && m.region == idx && !(s.dirOf f m.blk).held
      if open' then .wait (j == .plain || !ready.isEmpty) (.rebind begun') s
      else .fin 0 (s.rebindNow p idx old new)

/-- The three words of `rtset`. -/
def rtWords (f : Fields) (s : State) : Region := ⟨s.hart.opd f.b, s.hart.opd (nextG f.b 1), s.hart.opd (nextG f.b 2)⟩

/-- RTSET (R304). -/
def execRtset (f : Fields) (s : State) : Host.Outcome State Fault Refusal :=
  let i := Instr.rtset f
  issue i f never (fun s =>
    let p := pkgOf s.kc.1
    let idx := (s.hart.src2 f).toNat
    let w := rtWords f s
    tableRun f (fun s => firstTrap
        [valTrap i (decide (4095 < idx)), valTrap i (w.v && w.illegal),
         if w.v && s.regionBad p idx w then some (freeTrap 0x07 s) else none])
      none (fun _ => .plain) (rtsetEff p idx w) s) s

/-- RTGET (R304). -/
def execRtget (f : Fields) (s : State) : Host.Outcome State Fault Refusal :=
  let i := Instr.rtget f
  issue i f never (fun s =>
    let idx := (s.hart.src2 f).toNat
    tableAct f (fun _ => valTrap i (decide (4095 < idx))) (fun s =>
      let r := s.region (pkgOf s.kc.1) idx
      ((match f.bits 17 2 with | 0 => r.w0 | 1 => r.w1 | _ => r.w2), s)) s) s

/-! ### The rank table (R297, R298, R305) -/

/-- The core that an entry names. -/
def entryCore (e : BitVec 32) : CoreId := (e.extractLsb' 0 8).toNat + (e.extractLsb' 8 8).toNat * 256 + (e.extractLsb' 16 6).toNat * 2 ^ 16

/-- The ranks that name a core change, and its rank register with them (R297). -/
def Core.setRanks (co : Core) (rs : List Nat) : Core :=
  { co with ranks := rs, rank := match rs.getLast? with | some n => BitVec.ofNat 32 n | none => 0xFFFFFFFF }

/-- A rank entry written: the table in memory, the rank caches that hold it, and the rank registers of the package's cores it named
and names (R286, R297). -/
def State.setRank (s : State) (p : PkgId) (n : Nat) (e : BitVec 32) : State :=
  let a := (s.pkg p).rankBase + 4 * n
  let old := BitVec.ofNat 32 (leNat (memRead s.mem a 4))
  let names := fun (e : BitVec 32) => e.getLsbD 22 && !e.getLsbD 23 && pkgOf (entryCore e) == p
  let s := { s with mem := memWrite s.mem a ((leBytes 4 e.toNat).map some) }
  let s := { s with
      dies := s.dies.map fun d =>
        if d.1 / 8 = p then (d.1, { d.2 with rcache := d.2.rcache.map fun c => if c.1 = n then (n, e) else c }) else d }
  let s := if names old then s.modCore (entryCore old) fun co => co.setRanks (co.ranks.erase n) else s
  if names e then s.modCore (entryCore e) fun co => co.setRanks (co.ranks.erase n ++ [n]) else s

/-- A valid entry names a server core or a core outside the job. -/
def State.rankBad (s : State) (e : BitVec 32) : Bool := e.getLsbD 22 && !s.userCore (entryCore e)

/-- RKSET (R305). -/
def execRkset (f : Fields) (s : State) : Host.Outcome State Fault Refusal :=
  let i := Instr.rkset f
  issue i f never (fun s =>
    let p := pkgOf s.kc.1
    let n := ((s.hart.opd f.b).setWidth 32).toNat
    let e := (s.hart.opd f.c).setWidth 32
    tableAct f (fun s => firstTrap
      [if (s.pkg p).rankLen ≤ n then some (freeTrap 0x07 s) else none, valTrap i (e.extractLsb' 23 9 != 0),
       if s.rankBad e then some (freeTrap 0x07 s) else none]) (fun s => (0, s.setRank p n e)) s) s

/-- A rank's entry as the table holds it; none beyond its length. -/
def State.rankAt (s : State) (p : PkgId) (n : Nat) : Option (BitVec 32) :=
  if n < (s.pkg p).rankLen then some (BitVec.ofNat 32 (leNat (memRead s.mem ((s.pkg p).rankBase + 4 * n) 4))) else none

/-- RKMOV.HOLD (R305). -/
def execRkmovHold (f : Fields) (s : State) : Host.Outcome State Fault Refusal :=
  issue (.rkmovHold f) f never (fun s =>
    let p := pkgOf s.kc.1
    let n := ((s.hart.opd f.b).setWidth 32).toNat
    tableAct f (fun s => match s.rankAt p n with
      | some e => if e.getLsbD 22 then none else some (freeTrap 0x07 s)
      | none => some (freeTrap 0x07 s))
      (fun s => (0, s.setRank p n ((s.rankAt p n).getD 0 ||| 0x800000))) s) s

/-- RKMOV.REL (R305). -/
def execRkmovRel (f : Fields) (s : State) : Host.Outcome State Fault Refusal :=
  let i := Instr.rkmovRel f
  issue i f never (fun s =>
    let p := pkgOf s.kc.1
    let n := ((s.hart.opd f.b).setWidth 32).toNat
    let g : BitVec 32 := (s.hart.opd f.c).setWidth 32
    let e := (g &&& 0x3FFFFF) ||| 0x400000
    tableAct f (fun s => firstTrap
      [if (s.pkg p).rankLen ≤ n then some (freeTrap 0x07 s) else none, valTrap i (g.extractLsb' 23 9 != 0),
       if s.rankBad e then some (freeTrap 0x07 s) else none]) (fun s => (0, s.setRank p n e)) s) s

/-! ### TLBs (R306) -/

/-- TLB entries dropped in the L1 TLBs and second-level TLBs of a die, or of a package. -/
def State.dropTlb (s : State) (k : CoreId) (whole : Bool) (hit : Tlb → Bool) : State :=
  let inD := fun (d : DieId) => if whole then d / 8 == pkgOf k else d == dieOf k
  { s with
    cores := s.cores.map fun e => if inD (dieOf e.1) then (e.1, { e.2 with tlb := e.2.tlb.filter fun t => !hit t }) else e,
    dies := s.dies.map fun e => if inD e.1 then (e.1, { e.2 with tlb := e.2.tlb.filter fun t => !hit t }) else e }

/-- A walk is still in progress. -/
def State.walkOpen (s : State) (p : Party) : Bool :=
  match p with
  | .walk k id i => (s.stageOf k id i).any Stage.walking
  | .dray k => (((s.core k).drayRun.map (·.stage)).join).any Stage.walking
  | _ => false

/-- The walks in progress in the TLBs of a die, or of a package. -/
def State.walksIn (s : State) (k : CoreId) (whole : Bool) : List Party :=
  (s.cores.filter fun e => if whole then pkgOf e.1 == pkgOf k else dieOf e.1 == dieOf k).flatMap fun e =>
    ((e.2.accs.flatMap fun a => (List.range a.parts.length).map fun i => Party.walk e.1 a.id i) ++ [.dray e.1]).filter s.walkOpen

/-- The walks that an invalidation still awaits: those in progress as it began (R306). -/
def walksLeft (k : CoreId) (whole : Bool) (j : TJob) (s : State) : List Party :=
  (match j with | .walks ps => ps | _ => s.walksIn k whole).filter s.walkOpen

/-- `tlbinv` after its release: the walks then in progress end first, and what they install goes with the rest. -/
def tlbinvRun (f : Fields) (hit : State → Tlb → Bool) (s : State) : Res :=
  tableRun f (fun _ => none) (some f.sc.toNat) (fun _ => .plain)
    (fun j s =>
      let left := walksLeft s.kc.1 (f.sc == 3) j s
      if left.isEmpty then .fin 0 (s.dropTlb s.kc.1 (f.sc == 3) (hit s)) else .wait (j == .plain) (.walks left) s) s

/-- TLBINV.PAGE (R306). -/
def execTlbinvPage (f : Fields) (s : State) : Host.Outcome State Fault Refusal :=
  issue (.tlbinvPage f) f never (tlbinvRun f fun s t => t.has (s.hart.opd f.b).toNat) s
/-- TLBINV.ALL (R306). -/
def execTlbinvAll (f : Fields) (s : State) : Host.Outcome State Fault Refusal :=
  issue (.tlbinvAll f) f never (tlbinvRun f fun _ _ => true) s

/-! ### The fault buffer and replay (R293-R295, R307) -/

/-- Index n of the fault buffer as `fbrd` reads it (R293). -/
def Die.faultWord (x : Die) (n : Nat) : W64 :=
  if n = 8 then x.faultStatus
  else match (if n < 8 then x.fbuf[n]? else none) with
    | some e => BitVec.ofNat 64 (1 + (if e.owned then 2 else 0) + (if e.w then 4 else 0) + e.count * 2 ^ 4 + e.page.toNat * 2 ^ 16)
    | none => 0

/-- FBRD (R307). -/
def execFbrd (f : Fields) (s : State) : Host.Outcome State Fault Refusal :=
  issue (.fbrd f) f never (fun s =>
    let n := (s.hart.src2 f).toNat
    tableAct f (fun _ => none) (fun s => ((s.die (dieOf s.kc.1)).faultWord n, s)) s) s

/-- What `replay` does to one party: done with it (and whether it parked again), or its walk is suspended. -/
inductive RpOut where
  | past (again : Bool) (s : State)
  | mid (moved : Bool) (s : State)
  /-- its walk cannot begin now: sixteen run, or a table block's region is being rebound -/
  | busy

/-- What a fresh walk of a parked address comes to. -/
inductive RpWalk where
  | ok (pa : Nat) (s : State)
  | fail (cause : Cause) (s : State)
  | again (owned : Bool) (page : Nat) (s : State)
  | susp (pa : Nat) (s : State)
  | busy

/-- The walk again (R295), whatever the TLBs hold: a supervisor access never parks for an unmapped page (R291). -/
def State.replayWalk (s : State) (k : CoreId) (wr ex user deny : Bool) (have' : List (Nat × List Byte)) (va : Nat) : RpWalk :=
  match s.walkAgain k wr ex user have' va with
  | (.ok pa, s) =>
    if badHome (pkgOf k) pa || !s.reaches (pkgOf k) (homePkg pa) then .fail 0x07 s
    else match s.regionOf (pkgOf k) pa with
      | some (n, r) => if r.hostOwned then (if deny then .fail 0x0B s else .again true n s) else .ok pa s
      | none => .ok pa s
  | (.denied, s) => .fail 0x06 s
  | (.miss, s) => if deny || !user then .fail 0x06 s else .again false (va / 2 ^ 16 % 2 ^ 41) s
  | (.owned n, s) => if deny then .fail 0x0B s else .again true n s
  | (.susp pa, s) => .susp pa s
  | (.wait, _) => .busy

/-- One parked party (R295). It leaves the pool as its walk begins; one that parks again, or whose suspended walk has ended in a miss,
stands at the end of the pool. -/
def State.replayOne (s : State) (d : DieId) (deny : Bool) (p : Party) (mid : Bool) : RpOut :=
  let out := fun (s : State) => s.modDie d fun x => { x with parked := x.parked.erase p }
  match p with
  | .acc k id i =>
    match s.acc? k id with
    | none => .past false (out s)
    | some a => match a.parts[i]? with
      | none => .past false (out s)
      | some pt =>
        let put := fun (st : Stage) (s : State) => s.setPart k id i { pt with stage := st }
        let wr := !a.kind.isLoad && a.kind != .xlate
        let go := fun (blks : List Nat) =>
          match s.replayWalk k wr (a.kind == .fetch) a.user deny (pt.supplied blks) pt.ea.toNat with
          | .ok pa s => .past false ((put (.ready pa) (out s)).goAcc k id)
          | .fail c s => .past false ((put (.failed c pt.ea) (out s)).goAcc k id)
          | .again o n s => match (out s).park d p o wr n with
            | some s => .past true ((put (.parked o) s).perfEv k 0x11 (some a.ctx))
            | none => .past true (put .missed s)
          | .susp pa s =>
            .mid true ((put (.walkSusp pa blks) (out s)).post (pkgOf k) (dieOf k) 0x00 (pa / 64) true (.walk k id i) 0 0 none)
          | .busy => .busy
        match pt.stage with
        | .parked _ => if mid && !deny then .past true s else if s.walkerFull d then .busy else go []
        | .walk blks => go blks
        | .walkSusp _ _ => .mid false s
        | _ => .past false (out s)
  | .dray k =>
    match (s.core k).drayRun with
    | none => .past false (out s)
    | some e =>
      let wr := !e.outq.isEmpty
      let stage := fun (st : Option Stage) (s : State) => s.modDray k fun e => { e with stage := st }
      match e.stage with
      | some (.parked _) =>
        if mid && !deny then .past true s
        else if s.walkerFull d then .busy
        else match s.replayWalk k wr false e.user deny (e.sats.map fun x => (x.1, bytesB x.2.data)) e.va.toNat with
          | .ok _ s =>
            let (l, s) := (stage none (out s)).popLag
            .past false (if l = 0 then s.drayPump k (s.core k).draySteps else s)
          | .fail c s => .past false ((out s).drayStop k e c e.va)
          | .again o n s => match (out s).park d p o wr n with
            | some s => .past true ((stage (some (.parked o)) s).perfEv k 0x11 (some e.ctx))
            | none => .past true (stage none s)
          | .susp pa s =>
            .mid true ((stage (some (.walkSusp pa [])) (out s)).post (pkgOf k) d 0x00 (pa / 64) true (.dray k) 0 0 none)
          | .busy => .busy
      | some (.walkSusp _ _) => .mid false s
      | _ => .past false (out s)
  | _ => .past false (out s)

/-- The end of a replay: its notice, and a new one if there is something to report (R294). -/
def State.replayEnd (s : State) (d : DieId) (had : Bool) : State :=
  let s := s.mon d 2
  if had then
    let s := s.modDie d fun x => { x with notice := false }
    if (s.die d).fbuf.isEmpty && !(s.die d).drop then s else s.faultNotice d
  else s

/-- `replay` goes on from a party; those acted on never come back to it. -/
def State.replayFrom (d : DieId) (deny had : Bool) : List Party → Bool → Nat → State → TOut
  | [], _, n, s => .fin (BitVec.ofNat 64 n) (s.replayEnd d had)
  | p :: t, mid, n, s => match s.replayOne d deny p mid with
    | .past again s => State.replayFrom d deny had t false (if again then n + 1 else n) s
    | .mid moved s => .wait moved (.replay had (some (p :: t)) true n) s
    | .busy => .wait false (.replay had (some (p :: t)) mid n) s

/-- The update of `replay` (R295). -/
def replayEff (deny : Bool) (j : TJob) (s : State) : TOut :=
  let d := dieOf s.kc.1
  match j with
  | .replay had (some ps) mid n => State.replayFrom d deny had ps mid n s
  | .replay had none _ _ =>
    let ps := (s.die d).parked
    State.replayFrom d deny had ps false 0 (s.modDie d fun x => { x with fbuf := [], drop := false })
  | _ => .fin 0 s

/-- Another context of the die runs a replay (R295). -/
def replayBusy (s : State) : Bool :=
  let d := dieOf s.kc.1
  s.cores.any fun e => dieOf e.1 == d && (List.range 8).any fun n =>
    (e.1, n) != (s.kc.1, s.kc.2.val) && (match (e.2.ctxs[n]?.getD {}).wait with
      | .release _ (.replay ..) => true
      | .table (.replay ..) _ _ => true
      | _ => false)

/-- `replay` after its release. -/
def replayRun (f : Fields) (deny : Bool) (s : State) : Res :=
  tableRun f (fun _ => none) (some f.sc.toNat) (fun s => .replay (s.die (dieOf s.kc.1)).notice none false 0) (replayEff deny) s

/-- REPLAY (R295, R307). -/
def execReplay (f : Fields) (s : State) : Host.Outcome State Fault Refusal := issue (.replay f) f replayBusy (replayRun f false) s
/-- REPLAY.DENY (R295, R307). -/
def execReplayDeny (f : Fields) (s : State) : Host.Outcome State Fault Refusal :=
  issue (.replayDeny f) f replayBusy (replayRun f true) s

/-! ### Ownership (R296, R308) -/

/-- Every device copy of a range of host memory goes home, poison too, or is dropped, and the port holds none of it (R308). -/
def State.surrender (s : State) (p : PkgId) (has : Nat → Bool) : State :=
  let s := (List.range 8).foldl (fun (s : State) n =>
    let d := p * 8 + n
    ((s.die d).l2.filter fun e => has (e.1 * 64)).foldl (fun (s : State) e =>
      (if e.2.dirty then s.locPut 0 0 e.1 .home e.2.buf else s).dropL2 d e.1) s) s
  let s := { s with
    cores := s.cores.map fun (e : Nat × Core) =>
      if pkgOf e.1 = p then (e.1, { e.2 with l1 := e.2.l1.filter fun l => !has (l.line * 128) }) else e,
    side := s.side.map fun (e : Nat × Side) => if has (e.1 * 64) then (e.1, { e.2 with tag := none }) else e }
  s.modPkg p fun x =>
    { x with cxl := x.cxl.filter fun b => !has (b * 64), cxlMod := x.cxlMod.filter fun b => !has (b * 64) }

/-- What stands at a farrier for a range that has gone to the host: written-back data goes home, the entries are cleared, and every
suspended access resumes, to find its region host-owned (R308). -/
def State.emptyFar (s : State) (f : FarId) (has : Nat → Bool) : State :=
  let x := s.far f
  let ms := (x.reqs ++ x.holds ++ x.killed).filter fun m => m.hasBlk && has (m.blk * 64)
  let other := fun (m : FMsg) => !(m.hasBlk && has (m.blk * 64))
  let s := (s.clearDir f has).modFar f fun x =>
    { x with reqs := x.reqs.filter other, holds := x.holds.filter other, killed := x.killed.filter other }
  ms.foldl (fun s m =>
    if m.acc then s.settle m .res
    else match m.party, m.data with
      | .none, some b => if m.ty = 0x09 then s.locPut 0 0 m.blk .home b else s
      | .snoop q line, _ => s.modPkg q fun x => { x with hostReps := x.hostReps ++ [.snoop line true none] }
      | _, _ => s) s

/-- The update of `pgown`: the lines of a region that goes to the host are busy until the running handlers of the region end. -/
def pgownEff (p : PkgId) (idx : Nat) (host : Bool) (j : TJob) (s : State) : TOut :=
  let r := s.region p idx
  let turn := fun (s : State) => s.setRegion p idx { r with w1 := r.w1 ^^^ (1#64 <<< 45) }
  if r.own = host then .fin 0 s
  else if !host then .fin 0 (turn s)
  else if j == .plain && (s.pkg p).rebind.contains idx then .wait false j s
  else
    let fars := (s.pkg p).far.map fun e => p + 64 * e.1
    if fars.any fun f => (s.far f).runs idx then
      .wait (j == .plain) (.rebind [])
        (s.modPkg p fun x => { x with rebind := if x.rebind.contains idx then x.rebind else x.rebind ++ [idx] })
    else
      let s := (turn (s.surrender p r.has)).modPkg p fun x => { x with rebind := x.rebind.erase idx }
      .fin 0 (fars.foldl (fun s f => s.emptyFar f r.has) s)

/-- `pgown` on the region that B names. -/
def pgownRun (i : Instr) (f : Fields) (host : Bool) (s : State) : Res :=
  let p := pkgOf s.kc.1
  let idx := (s.hart.opd f.b).toNat
  let r := s.region p idx
  tableRun f (fun s => firstTrap
    [valTrap i (decide (4095 < idx)), if r.v && r.home == 0xC then none else some (freeTrap 0x07 s)])
    none (fun _ => .plain) (pgownEff p idx host) s

/-- PGOWN.HOST (R308). -/
def execPgownHost (f : Fields) (s : State) : Host.Outcome State Fault Refusal :=
  issue (.pgownHost f) f never (pgownRun (.pgownHost f) f true) s
/-- PGOWN.DEV (R308). -/
def execPgownDev (f : Fields) (s : State) : Host.Outcome State Fault Refusal :=
  issue (.pgownDev f) f never (pgownRun (.pgownDev f) f false) s

/-! ### The handler table (R299, R309) -/

/-- A code address lies in a supervisor object: in a range the loader placed with SUP, or on a page whose leaf has X = 1 and
U = 0, as R411 maps such code (log 32). -/
def State.supCode (s : State) (k : CoreId) (va : Nat) : Bool :=
  ((s.pkg (pkgOf k)).ranges.any fun r => r.sup && decide (r.base ≤ va) && decide (va < r.base + 2 ^ r.lsz)) ||
  (match s.walkRoot (dieOf k) [] va with | .ok e => e.x && !e.u | .error _ => false)

/-- A handler entry written: the table in memory; the handler caches of the package are invalidated (R286, R299, R309). -/
def State.setHandler (s : State) (p : PkgId) (ty : Nat) (w : W64) : State :=
  { s with
    mem := memWrite s.mem ((s.pkg p).htabBase + 8 * ty) ((leBytes 8 w.toNat).map some)
    cores := s.cores.map fun e => if pkgOf e.1 = p then (e.1, { e.2 with hcache := [] }) else e }

/-- HTSET (R309). -/
def execHtset (f : Fields) (s : State) : Host.Outcome State Fault Refusal :=
  let i := Instr.htset f
  issue i f never (fun s =>
    let p := pkgOf s.kc.1
    let ty := (s.hart.opd f.b).toNat
    let w := s.hart.opd f.c
    let entry := (w.extractLsb' 0 57).toNat
    let rev := (w.extractLsb' 58 4).toNat
    let v := w.getLsbD 57
    tableAct f (fun s => firstTrap
      [valTrap i (decide (4095 < ty)),
       valTrap i (v && (w.extractLsb' 62 2 != 0 || (rev != 1 && rev != 2) || (decide (0xF00 ≤ ty) && !s.supCode s.kc.1 entry))),
       if v && entry % 12 != 0 then some (.trap 0x05 (BitVec.ofNat 64 entry)) else none])
      (fun s => (0, s.setHandler p ty w)) s) s

/-! ### Code generations (R302, R310) -/

/-- A virtual address lies inside a valid range of the list. -/
def GenEnt.has (e : GenEnt) (va : Nat) : Bool := decide (e.base.toNat ≤ va) && decide (va < e.base.toNat + 2 ^ e.lsz)

/-- A fetch by a core of generation g at a retired address (R302). -/
def Pkg.retired (p : Pkg) (g : W64) (va : Nat) : Bool :=
  p.gens.any fun o => match o with | some e => e.has va && e.rg.ule g | none => false

/-- GEN.ACK (R310). The spec says only 'inside' of a bundle and a range; one that straddles the end of a range goes where its first
address lies in the range (DESIGN CHOICE, log 94). -/
def execGenAck (f : Fields) (s : State) : Host.Outcome State Fault Refusal :=
  issue (.genAck f) f never (tableAct f (fun _ => none) fun s =>
    let p := s.pkg (pkgOf s.kc.1)
    let gone := fun (va : Nat) => p.gens.any fun o => match o with | some e => e.has va | none => false
    -- a fetch on its way is dropped with the bundles
    (p.dgen, s.modCore s.kc.1 fun co =>
      { co with
        gen := p.dgen, ic := co.ic.filter fun l => !gone l.va,
        accs := co.accs.filter fun a => !(a.kind == .fetch && gone (a.pc.toNat / 192 * 192)) })) s
/-- GEN.RD (R310). -/
def execGenRd (f : Fields) (s : State) : Host.Outcome State Fault Refusal :=
  issue (.genRd f) f never (tableAct f (fun _ => none) fun s => ((s.pkg (pkgOf s.kc.1)).dgen, s)) s

/-- The lowest free entry of the list. -/
def Pkg.genFree (p : Pkg) : Option Nat := (List.range 16).find? fun n => (p.gens[n]?.getD none).isNone

/-- GEN.RET (R310). -/
def execGenRet (f : Fields) (s : State) : Host.Outcome State Fault Refusal :=
  let i := Instr.genRet f
  issue i f never (fun s =>
    let p := pkgOf s.kc.1
    let base := (s.hart.opd f.b).toNat
    let lsz := (s.hart.opd f.c).toNat
    tableAct f (fun s => firstTrap
      [if (s.pkg p).genFree.isNone then some (.trap 0x07 0) else none,
       valTrap i (decide (lsz < 16) || decide (56 < lsz) || base % 2 ^ (min lsz 57) != 0 || decide (2 ^ 57 ≤ base))])
      (fun s =>
        let g := (s.pkg p).dgen + 1
        (g, s.modPkg p fun x =>
          { x with
            dgen := g,
            gens := match x.genFree with | some n => x.gens.setIfInBounds n (some ⟨BitVec.ofNat 57 base, lsz, g⟩) | none => x.gens })) s) s

/-- An entry of the code-generation list freed (R310); a code range of the loader and its pages become free with it (R412, R415). -/
def Pkg.freeGen (p : Pkg) (n : Nat) : Pkg :=
  let out := fun (a : Nat) => match p.gens[n]?.getD none with | some e => decide (e.base.toNat ≤ a) && decide (a < e.base.toNat + 2 ^ e.lsz) | none => false
  { p with
    gens := p.gens.setIfInBounds n none, ranges := p.ranges.filter fun r => !out r.base, pages := p.pages.filter fun e => !out e.va }

/-- GEN.FREE (R310). -/
def execGenFree (f : Fields) (s : State) : Host.Outcome State Fault Refusal :=
  let i := Instr.genFree f
  issue i f never (fun s =>
    let n := (s.hart.opd f.b).toNat
    tableAct f (fun _ => valTrap i (decide (15 < n)))
      (fun s => (0, s.modPkg (pkgOf s.kc.1) fun x => x.freeGen n)) s) s

/-! ### Configuration (R312) -/

/-- RD of `qcfg`. -/
def qRead (f : Fields) : Bool := f.bit 21

/-- The core that an address names, or the trap of R188. -/
def coreAddr (a : W64) (s : State) : Except Res CoreId :=
  if !a.getLsbD 63 then .error (.trap 0x08 a)
  else match s.windowCore s.kc.1 a with
    | none => .error (.trap 0x08 a)
    | some j => if s.reaches (pkgOf s.kc.1) (pkgOf j) then .ok j else .error (.trap 0x07 a)

def onCore (a : W64) (s : State) (g : CoreId → Option Res) : Option Res :=
  match coreAddr a s with | .error r => some r | .ok j => g j

/-- The L1s of a quad written back and invalidated (R200). -/
def State.emptyQuad (s : State) (j : CoreId) : State :=
  (List.range 4).foldl (fun (s : State) q =>
    let k := quadCore j q
    let s := (List.range (s.core k).l1.length).foldl (fun (s : State) n => s.cleanLine k k 7 false n) s
    s.modCore k fun co => { co with l1 := [] }) s

/-- QCFG.FUSE (R312, R200). -/
def execQcfgFuse (f : Fields) (s : State) : Host.Outcome State Fault Refusal :=
  let i := Instr.qcfgFuse f
  issue i f never (fun s =>
    let a := s.hart.opd f.b
    let v := s.hart.opd f.c
    -- the user contexts of the quad: contexts 0-6 of those of its cores that are no servers (R8)
    let busy := fun (j : CoreId) => (List.range 4).any fun q => !s.isServer (quadCore j q) &&
      ((s.core (quadCore j q)).ctxs.toList.take 7).any fun x => x.pool == .busy
    tableRun f (fun s => onCore a s fun j => firstTrap
        [valTrap i (!qRead f && decide (1 < v.toNat)),
         if !qRead f && v == 1 && busy j then some (.trap 0x07 a) else none])
      none (fun _ => .plain) (fun jb s =>
        match coreAddr a s with
        | .error _ => .fin 0 s
        | .ok j =>
          let old : W64 := if (s.core j).fused then 1 else 0
          if qRead f then .fin old s
          else
            let any := (List.range 4).any fun q => !(s.core (quadCore j q)).l1.isEmpty
            let s := s.emptyQuad j
            if (List.range 4).any fun q => !(s.core (quadCore j q)).wbs.isEmpty then .wait any jb s
            else .fin old ((List.range 4).foldl (fun (s : State) q => s.modCore (quadCore j q) fun co => { co with fused := v == 1 }) s)) s) s

/-- QCFG.ROOT (R312): as `tlbinv.all.die` does, it awaits the walks in progress (R306). -/
def execQcfgRoot (f : Fields) (s : State) : Host.Outcome State Fault Refusal :=
  let i := Instr.qcfgRoot f
  issue i f never (fun s =>
    let v := s.hart.opd f.c
    tableRun f (fun _ => valTrap i (!qRead f && (v.extractLsb' 1 13 != 0 || v.extractLsb' 58 6 != 0))) none (fun _ => .plain)
      (fun j s =>
        let d := dieOf s.kc.1
        let old := (s.die d).root.setWidth 64
        let left := walksLeft s.kc.1 false j s
        if qRead f then .fin old s
        else if !left.isEmpty then .wait (j == .plain) (.walks left) s
        else .fin old ((s.modDie d fun x => { x with root := v.setWidth 58 }).dropTlb s.kc.1 false fun _ => true)) s) s

/-- QCFG.MEMB (R312, R7). -/
def execQcfgMemb (f : Fields) (s : State) : Host.Outcome State Fault Refusal :=
  let i := Instr.qcfgMemb f
  issue i f never (fun s =>
    let a := s.hart.opd f.b
    let v := s.hart.opd f.c
    tableAct f (fun s => onCore a s fun j => valTrap i (!qRead f && (decide (31 < v.toNat) || (s.isServer j && v != 0)))) (fun s =>
      match coreAddr a s with
      | .error _ => (0, s)
      | .ok j =>
        let old := (s.core j).memb.setWidth 64
        (old, if qRead f then s else s.modCore j fun co => { co with memb := v.setWidth 5 })) s) s

/-- QCFG.RANKT (R312). -/
def execQcfgRankt (f : Fields) (s : State) : Host.Outcome State Fault Refusal :=
  let i := Instr.qcfgRankt f
  issue i f never (fun s =>
    let n := (s.hart.opd f.b).toNat
    let v := (s.hart.opd f.c).toNat
    tableAct f (fun _ => valTrap i (decide (2 ^ 22 < n) || (!qRead f && (v % 4096 != 0 || decide (2 ^ 58 ≤ v))))) (fun s =>
      let p := pkgOf s.kc.1
      (BitVec.ofNat 64 (s.pkg p).rankBase, if qRead f then s else
        { s.modPkg p fun x => { x with rankLen := n, rankBase := v } with
          dies := s.dies.map fun d => if d.1 / 8 = p then (d.1, { d.2 with rcache := [] }) else d })) s) s

/-- QCFG.HTAB (R312). -/
def execQcfgHtab (f : Fields) (s : State) : Host.Outcome State Fault Refusal :=
  let i := Instr.qcfgHtab f
  issue i f never (fun s =>
    let v := (s.hart.opd f.c).toNat
    tableAct f (fun _ => valTrap i (!qRead f && (v % 32768 != 0 || decide (2 ^ 58 ≤ v)))) (fun s =>
      let p := pkgOf s.kc.1
      (BitVec.ofNat 64 (s.pkg p).htabBase, if qRead f then s else
        { s.modPkg p fun x => { x with htabBase := v } with
          cores := s.cores.map fun e => if pkgOf e.1 = p then (e.1, { e.2 with hcache := [] }) else e })) s) s

/-- The carrier of an index. -/
def Pkg.carrier (p : Pkg) (i : Nat) : Carrier := fmGet {} p.carriers i
/-- EN and DPKG of a plan byte (R300). -/
def Carrier.en (c : Carrier) : Bool := c.plan.getLsbD 6
def Carrier.dpkg (c : Carrier) : PkgId := c.plan.toNat % 64

/-- Packets bound to a carrier and not delivered, and its flows, are bound no more (R398, R401). -/
def State.unbind (s : State) (p : PkgId) (i : Nat) : State :=
  let s := { s with fab := s.fab.map fun (x : FabPkt) => if x.src = p ∧ x.carrier = some i then { x with carrier := none } else x }
  s.modPkg p fun x =>
    { x with flows := x.flows.map fun (w : Flow) => if w.carrier = some i then { w with carrier := none } else w }

def State.carrier (s : State) (p : PkgId) (i : Nat) : Carrier := (s.pkg p).carrier i
def State.modCarrier (s : State) (p : PkgId) (i : Nat) (f : Carrier → Carrier) : State :=
  s.modPkg p fun x => { x with carriers := fmSet x.carriers i (f (fmGet {} x.carriers i)) }

/-- The UP carriers of package p toward q, in index order. -/
def State.upTo (s : State) (p q : PkgId) : List Nat :=
  ((s.pkg p).carriers.filter fun e => e.2.st == .up && e.2.dpkg == q).map (·.1)

/-- A carrier goes DOWN; its flows are bound anew, and where no carrier is left this way those of the other way have no
acknowledgements and go DOWN too (R397, R401). -/
def State.carrierDrop (s : State) (p : PkgId) (i : Nat) : State :=
  let q := (s.carrier p i).dpkg
  let down := fun (p : PkgId) (i : Nat) (s : State) =>
    (s.unbind p i).modCarrier p i fun c => { c with st := .down, retune := c.en, naks := 0, nak := false, buf := [] }
  let s := down p i s
  if (s.upTo p q).isEmpty then (s.upTo q p).foldl (fun s j => down q j s) s else s

/-- A plan byte written: the carrier goes down and retunes (R300, R397); its PSTAT bits are cleared (R389). -/
def State.setPlan (s : State) (p : PkgId) (i : Nat) (b : Byte) : State :=
  (if (s.carrier p i).st = .up then s.carrierDrop p i else s.unbind p i).modCarrier p i fun _ => { plan := b, retune := b.getLsbD 6 }

/-- QCFG.CPLAN (R312, R396). -/
def execQcfgCplan (f : Fields) (s : State) : Host.Outcome State Fault Refusal :=
  let i := Instr.qcfgCplan f
  issue i f never (fun s =>
    let p := pkgOf s.kc.1
    let n := (s.hart.opd f.b).toNat
    let v := s.hart.opd f.c
    let b : Byte := v.setWidth 8
    let q := b.toNat % 64
    let en := b.getLsbD 6
    tableAct f (fun s => firstTrap
      [valTrap i (decide (2047 < n)), valTrap i (!qRead f && decide (127 < v.toNat)),
       valTrap i (!qRead f && en && (q == p || (s.pkg p).carriers.any fun e =>
         e.1 != n && e.1 / 8 == n / 8 && e.2.en && e.2.dpkg == q)),
       if !qRead f && en && !(s.pkg p).podm.getLsbD q then some (freeTrap 0x07 s) else none])
      (fun s => (((s.pkg p).carrier n).plan.setWidth 64, if qRead f then s else s.setPlan p n b)) s) s

/-- The offered feature words (R301, R391): ports 1-3 are in pool mode; bit 6 as port 0 is set. -/
def Pkg.offered (p : Pkg) (w : Nat) : W64 := if w = 0 then 0x3BF ||| (if p.port0Host then 0x40 else 0) else 0

/-- QCFG.FEAT (R312). -/
def execQcfgFeat (f : Fields) (s : State) : Host.Outcome State Fault Refusal :=
  let i := Instr.qcfgFeat f
  issue i f never (fun s =>
    let n := (s.hart.opd f.b).toNat
    tableAct f (fun _ => valTrap i (!qRead f || decide (7 < n))) (fun s =>
      let p := s.pkg (pkgOf s.kc.1)
      ((if n < 4 then p.offered n else p.facc[n - 4]?.getD 0), s)) s) s

/-! ### The freeze (R311) -/

/-- The target of `frz`: a user core of the issuing package. -/
def frzTarget (a : W64) (s : State) : Except Res CoreId :=
  match coreAddr a s with
  | .error r => .error r
  | .ok j => if pkgOf j ≠ pkgOf s.kc.1 || s.isServer j then .error (.trap 0x07 a) else .ok j

def frzCheck (a : W64) (s : State) : Option Res := match frzTarget a s with | .error r => some r | .ok _ => none

/-- FRZ.ON (R311). -/
def execFrzOn (f : Fields) (s : State) : Host.Outcome State Fault Refusal :=
  issue (.frzOn f) f never (fun s =>
    let a := s.hart.opd f.b
    tableRun f (frzCheck a) none (fun s => .frz s.ids) (fun j s =>
      match frzTarget a s, j with
      | .ok t, .frz mark =>
        if (s.core t).wiq.any fun w => decide (w.seq ≤ mark) then .wait false j s
        else .fin 0 (s.modCore t fun co => { co with frozen := true })
      | _, _ => .fin 0 s) s) s
/-- FRZ.OFF (R311). -/
def execFrzOff (f : Fields) (s : State) : Host.Outcome State Fault Refusal :=
  issue (.frzOff f) f never (fun s =>
    let a := s.hart.opd f.b
    tableAct f (frzCheck a) (fun s => match frzTarget a s with
      | .ok t => (0, s.modCore t fun co => { co with frozen := false })
      | .error _ => (0, s)) s) s

/-! ### The end of a save or restore entry (R313, R383) -/

/-- The registers of a context whose state was discarded: nothing is stated of their values (log 33). -/
def Ctx.discard (x : Ctx) (n : Nat) : Ctx :=
  let fv := fun (w i : Nat) => BitVec.ofNat w (Config.freeNat (n + i))
  { x with
    hart := { x.hart with g := Vector.ofFn fun (i : Fin 16) => fv 64 i, c := fv 8 16 },
    v := Vector.ofFn fun (i : Fin 32) => fv 1024 (32 + i), vs := Vector.ofFn fun (i : Fin 32) => fv 64 (64 + i),
    m := Vector.ofFn fun (i : Fin 8) => fv 128 (96 + i),
    z := Vector.ofFn fun (j : Fin 4) => Vector.ofFn fun (i : Fin 256) => fv 32 (128 + 256 * j + i),
    lc := Vector.ofFn fun (i : Fin 2) => fv 32 (18 + i), ls := Vector.ofFn fun (i : Fin 2) => fv 57 (20 + i),
    le := Vector.ofFn fun (i : Fin 2) => fv 57 (22 + i), jord := fv 3 24, fround := fv 3 25, fflags := fv 40 26,
    mmrev := fv 4 27, srctr := fv 64 28, escratch := fv 64 29, epc := fv 57 30, ecause := fv 8 31, eaddr := fv 64 104,
    pmode := Config.freeBit n, ien := Config.freeBit (n + 1), pien := Config.freeBit (n + 2), lkchk := Config.freeBit (n + 3) }

/-- PDONE.SAVE (R313). -/
def execPdoneSave (f : Fields) (s : State) : Host.Outcome State Fault Refusal :=
  issue (.pdoneSave f) f never (fun s =>
    let (k, c) := s.kc
    let n := if f.b.isNone then 0x20000#64 else s.hart.opd f.b
    let pre := s.myCore.pre
    if n.toNat % 128 ≠ 0 then .trap 0x05 n
    else if 0x20000 < n.toNat then .trap 0x08 n
    else if pre.step = 3 && pre.saved.getLsbD c.val && !pre.through.getLsbD c.val then
      let through := pre.through ||| (1 <<< c.val)
      let s := s.modCore k fun co =>
        { co with pre := { co.pre with through := through, maxN := max co.pre.maxN n.toNat, step := if through = pre.saved then 4 else 3 } }
      let s := if through = pre.saved then s.syncCtl (dieOf k) else s
      let s := s.modCtx k c fun x => { x.discard s.fresh with wait := .saved, inEntry := false }
      .wait { s with fresh := s.fresh + 1152 }
    else .ok s) s

/-- PDONE.REST (R313, R383): the record is read at issue. -/
def execPdoneRest (f : Fields) (s : State) : Host.Outcome State Fault Refusal :=
  issue (.pdoneRest f) f never (fun s =>
    let (k, c) := s.kc
    let pre := s.myCore.pre
    if pre.step = 6 && pre.saved.getLsbD c.val && !pre.through.getLsbD c.val then
      let word := fun (n : Nat) => BitVec.ofNat 64 (leNat (s.myCore.locRead (0x1FF80 + 16 * c.val + 8 * n) 8))
      let s := s.modCore k fun co => { co with pre := { co.pre with through := co.pre.through ||| (1 <<< c.val) } }
      .wait (s.modCtx k c fun x => { x with wait := .restored (word 0) (word 1), inEntry := false })
    else .ok s) s

end Sys2Proof.Machine
end

