-- ==== Sys2Proof/Machine/Events.lean ====
section
/-! DEFINITION. Machine/Events.lean: the events of accesses, releases, completions, timers and memory errors. -/

namespace Sys2Proof.Machine

/-! ### Accesses (R207, R240, R255) -/

/-- Element i of an access moves twice: it leaves, and is served where it arrives. -/
def State.moveTwice (s : State) (k : CoreId) (id i : Nat) : State := (s.movePart k id i).movePart k id i

/-- TRANSLATION_WALK (R291, R292): `evict` says that the TLB entries of the page are evicted first. -/
def execTranslationWalk (k : CoreId) (id part : Nat) (evict : Bool) (s : State) : Host.Outcome State Fault Refusal :=
  .next (match (s.acc? k id).bind fun a => a.parts[part]? with
    | none => s
    | some p =>
      let s := if evict then
          match p.tgt with
          | .glob va =>
            (s.modCore k fun co => { co with tlb := co.tlb.filter fun e => !e.has va.toNat }).modDie (dieOf k) fun d =>
              { d with tlb := d.tlb.filter fun e => !e.has va.toNat }
          | .bank _ _ => s
        else s
      match p.tgt, p.stage with
      | .glob _, .wait => s.moveTwice k id part
      | .glob _, .walk _ => s.movePart k id part
      | _, _ => s)

/-- ACCESS_PARK (R261). -/
def execAccessPark (k : CoreId) (id part : Nat) (s : State) : Host.Outcome State Fault Refusal :=
  .next (match s.stageOf k id part with
    | some .missed => s.movePart k id part
    | _ => s)

/-- TAG_REPLY (R197). -/
def execTagReply (k : CoreId) (id : Nat) (s : State) : Host.Outcome State Fault Refusal :=
  .next (match s.acc? k id with
    | none => s
    | some a => (List.range a.parts.length).foldl (fun s i => match s.stageOf k id i with
        | some (.tagReq _) => s.movePart k id i
        | _ => s) s)

/-- REMOTE_LOAD_REQUEST (R194). -/
def execRemoteLoadRequest (k : CoreId) (id part : Nat) (s : State) : Host.Outcome State Fault Refusal :=
  .next (match s.acc? k id with
    | none => s
    | some a => match a.parts[part]?.map fun (p : Part) => p.tgt with
      | some (.bank _ _) => if a.kind.isLoad then s.moveTwice k id part else s
      | _ => s)

/-- ATOMIC_AT_HOME (R217). -/
def execAtomicAtHome (k : CoreId) (id : Nat) (s : State) : Host.Outcome State Fault Refusal :=
  .next (match s.acc? k id with
    | none => s
    | some a => if a.kind.isAtomic then s.moveTwice k id 0 else s)

/-- COUNTED_STORE (R218, R224). -/
def execCountedStore (k : CoreId) (id part : Nat) (s : State) : Host.Outcome State Fault Refusal :=
  .next (match s.acc? k id, s.stageOf k id part with
    | some a, some (.ready _) | some a, some (.sent _) => if a.kind.isStore then s.moveTwice k id part else s
    | _, _ => s)

/-- The reply of an access: what its elements have still to do, then its completion. -/
def State.answer (s : State) (k : CoreId) (id : Nat) (store : Bool) : State :=
  match s.acc? k id with
  | none => s
  | some a => if a.kind.isStore == store then (s.drive 6 k id).finish k id else s

/-- ACCESS_REPLY (R240). -/
def execAccessReply (k : CoreId) (id : Nat) (s : State) : Host.Outcome State Fault Refusal := .next (s.answer k id false)
/-- STORE_ACK (R15, R228). -/
def execStoreAck (k : CoreId) (id : Nat) (s : State) : Host.Outcome State Fault Refusal := .next (s.answer k id true)

/-- RELEASE_COMPLETE (R209). -/
def execReleaseComplete (k : CoreId) (s : State) : Host.Outcome State Fault Refusal := .next (s.relStep k)

/-- INSTRUCTION_COMPLETION (R48): of an instruction that completes by no access and no engine. -/
def execInstructionCompletion (k : CoreId) (c : Fin 8) (id : Nat) (s : State) : Host.Outcome State Fault Refusal :=
  .next (if (s.ctx k c).flight.any fun f => f.id == id && f.acc.isNone && f.anv.isNone then s.complete k c id else s)

/-! ### Counts of time (R121, R264) -/

/-- GAP_COUNT_EXPIRY (R264): the last cycle of a gap. -/
def execGapCountExpiry (k : CoreId) (c : Fin 8) (s : State) : Host.Outcome State Fault Refusal :=
  .next (if (s.ctx k c).gap = 1 then s.modCtx k c fun x => { x with gap := 0 } else s)

/-- The last cycle of an occupancy: the unit is free, and a switching context goes to the end of the age order (R263, R264). It comes
after the clock's issue. -/
def State.occEnd (s : State) (k : CoreId) (c : Fin 8) : State :=
  let sw := (s.ctx k c).swEnd
  let s := s.modCtx k c fun x => { x with occ := 0, unit := none, swEnd := false }
  if sw then s.modCore k fun co => co.moveEnd c else s

/-- OCCUPANCY_END (R264). -/
def execOccupancyEnd (k : CoreId) (c : Fin 8) (s : State) : Host.Outcome State Fault Refusal :=
  .next (if (s.ctx k c).occ = 1 then s.occEnd k c else s)

/-- The word the instruction cache holds for an address (R38, R201), as its page's U bit allows. -/
def fetchWord (co : Core) (user : Bool) (pc : PcW) : Option (BitVec 96) :=
  let va := pc.toNat / 192 * 192
  (co.ic.find? fun l => l.va == va && (!user || l.user)).map fun l => bytesWord ((l.code.drop (pc.toNat - va)).take 12)

/-! ### The boundary of a context (R374, R375, R380) -/

/-- The context may issue or take a trap in this clock, from the state at the end of the clock before: busy, outside its
occupancy and gap, not ended, saved or restored, with no access at a full parking pool (R261), and not stopped by pre-emption (R380,
R383). -/
def Core.ready (co : Core) (c : Fin 8) : Bool :=
  let x := co.ctxs[c]
  x.pool == .busy && x.occ == 0 && x.gap == 0 && !co.atPool c &&
  (match x.wait with | .finish 0 | .saved | .restored .. => false | _ => true) &&
  (match co.pre.step with
    | 0 => true
    | 1 => (match x.wait with | .table .. | .carmReg .. => true | _ => false)
    | 3 | 6 => x.inEntry
    | _ => false)

/-- A context may take a trap now: it is busy, no occupancy runs, its earlier instructions have completed, and it is in no
instruction that has sent its update (R303) and in no `hop` whose message has left (R26, R34, log 88). -/
def Ctx.mayTrap (x : Ctx) : Bool :=
  x.pool == .busy && x.occ == 0 && !x.undone &&
  match x.wait with
  | .finish 0 | .table .. | .saved | .restored .. | .hop _ _ (some _) => false
  | _ => true

/-- The oldest entry of the list that the context may take: of the sixteen the list holds (R374). -/
def Core.dueFault (co : Core) (c : Fin 8) : Option RFault :=
  let x := co.ctxs[c]
  if x.inEntry then none
  else
    let mine := (co.rfaults.take 16).filter fun r => r.ctx == c && (!r.user || !x.sup)
    mine.find? fun r => mine.all fun q => decide (r.seq ≤ q.seq)

/-- The reply fault taken at this boundary; the context's own failed fetch even inside an entry (R371, R374). -/
def Core.boundaryFault (co : Core) (c : Fin 8) : Option RFault :=
  if co.ctxs[c].inEntry then co.rfaults.find? fun r => r.fetch && r.ctx == c
  else if co.pre.step = 0 then co.dueFault c else none

/-- The lowest busy context of a server core with IEN set. -/
def Core.irqCtx (co : Core) : Option (Fin 8) :=
  ((List.range 8).map (Fin.ofNat 8)).find? fun c => co.ctxs[c].pool == .busy && co.ctxs[c].ien

/-- The pending interrupt of a server core: its die and number (R425). -/
def State.irqOf (s : State) (k : CoreId) : Option (Nat × BitVec 5) :=
  (s.pkg (pkgOf k)).irqs.find? fun e => dieServer (pkgOf k * 8 + e.1) == k

/-- The interrupt that context c takes at its boundary (R370). -/
def State.boundaryIrq (s : State) (k : CoreId) (c : Fin 8) : Option (Nat × BitVec 5) :=
  let co := s.core k
  if co.pre.step = 0 && s.isServer k && co.irqCtx == some c then s.irqOf k else none

/-- A reply fault or an interrupt comes before the next instruction of a context (R375). -/
def State.dueFirst (s : State) (k : CoreId) (c : Fin 8) : Bool :=
  ((s.core k).boundaryFault c).isSome || (s.boundaryIrq k c).isSome

/-- WAIT_TIME_DEADLINE (R121): a waiting `wait.time` whose time has come, where nothing comes before it at the boundary. -/
def execWaitTimeDeadline (k : CoreId) (c : Fin 8) (s : State) : Host.Outcome State Fault Refusal :=
  let x := s.ctx k c
  if !(s.core k).ready c || s.dueFirst k c then .next s
  else match (fetchWord (s.core k) (!x.sup) x.hart.pc).bind decode with
    | some (.waitTime f) => if (s.core k).cyc.ult (x.hart.opd f.b) then .next s else execWaitTime f { s with cur := .ctx k c }
    | _ => .next s

/-! ### Memory errors and flags (R72, R204, R250, R362) -/

/-- An MSI-X vector fires; a masked one becomes pending (R387, R389). -/
def Pkg.fireMsix (x : Pkg) (n : BitVec 5) : Pkg :=
  let b := 1#32 <<< n.toNat
  if x.msixMask.getLsbD n.toNat then { x with msixPend := x.msixPend ||| b } else { x with msix := x.msix ||| b }

/-- A platform event: the MSI-X vector of its number, and the interrupt of the die's server core (R425). -/
def State.platEvent (s : State) (p : PkgId) (die : Nat) (n : BitVec 5) : State :=
  s.modPkg p fun x =>
    { x.fireMsix n with
      irqs := if n = 0 ∨ x.irqs.contains (die, n) then x.irqs else x.irqs ++ [(die, n)] }

/-- Whether an error at this place strikes an element of an access: at its home or its bank (R204). -/
def Part.struck (k : CoreId) (e : ErrSite) (p : Part) : Bool :=
  match e, p.tgt, p.stage with
  | .glob pa, .glob _, .sent x => x / 64 == pa / 64
  | .loc j off, .bank j' o, .sent _ => j == j' && o / 64 == off.toNat / 64
  | .loc j off, .bank j' o, .wait => j == k && j == j' && o / 64 == off.toNat / 64
  | _, _, _ => false

/-- What an error at a place can strike: atomics that would be performed there now, whose read is good and whose write may come (core
and access, R250), and running dray commands. -/
def State.strikes (s : State) (e : ErrSite) : List (CoreId × Option Nat) :=
  let hit : Nat ⊕ (CoreId × Nat) := match e with | .glob pa => .inl pa | .loc k off => .inr (k, off.toNat)
  s.cores.flatMap fun (c : Nat × Core) =>
    (c.2.accs.filter fun a => a.kind.isAtomic && a.parts.any (Part.struck c.1 e) &&
      (s.movePart c.1 a.id 0).stageOf c.1 a.id 0 == some .served).map (fun a => (c.1, some a.id)) ++
    (match c.2.drayRun with | some d => if (s.drayHit c.1 d hit).isSome then [(c.1, none)] else [] | none => [])

/-- A prefetch under way at the block does not fill its line (R240). -/
def State.dropPrefs (s : State) (blk : Nat) : State :=
  { s with cores := s.cores.map fun (c : Nat × Core) =>
      (c.1, { c.2 with accs := c.2.accs.filter fun a => !((match a.kind with | .pref _ => true | _ => false) &&
        a.parts.any fun p => match p.stage with | .ready pa => pa / 128 == blk / 2 | _ => false) }) }

/-- UNCORRECTABLE_ERROR (R204, R205, R250, R273): the block is poisoned; a choice of n + 1 has it strike the n-th atomic between its
read and its write, or dray command, that is at the block. -/
def execUncorrectableError (e : ErrSite) (s : State) : Host.Outcome State Fault Refusal :=
  let (l, s) := s.popLag
  let s := match (if l = 0 then none else (s.strikes e)[l - 1]?) with
    | none => s
    | some (k, none) => s.drayError k (match e with | .glob pa => .inl pa | .loc j off => .inr (j, off.toNat))
    | some (k, some id) => match (s.acc? k id).bind (·.parts.head?) with
      | some p => s.setPart k id 0 { p with stage := .failed 0x0A p.ea }
      | none => s
  .next (match e with
    | .glob pa =>
      let blk := pa / 64
      let s := (s.dropPrefs blk).setHomeDesc blk { (s.sideOf blk).desc with fmt := 0xFF }
      let d := homeDie pa
      (s.mon d 6).platEvent (d / 8) (d % 8) 3
    | .loc k off =>
      let s := s.modCore k fun co => co.setLocDesc off.toNat { co.locDesc off.toNat with fmt := 0xFF }
      (s.mon (dieOf k) 6).platEvent (pkgOf k) (dieOf k % 8) 3)

/-- CORRECTED_SOFT_ERROR (R204, R362). -/
def execCorrectedSoftError (d : DieId) (m : SoftSite) (s : State) : Host.Outcome State Fault Refusal :=
  .next (s.mon d (match m with | .hbm => 5 | .loc => 7 | .l2 => 8))

/-- DFLAGS_UPDATE (R72): the named bits of dflags take the OR of the die's flags. -/
def execDflagsUpdate (d : DieId) (bits : BitVec 40) (s : State) : Host.Outcome State Fault Refusal :=
  let now : BitVec 40 := (s.cores.filter fun e => dieOf e.1 == d).foldl (fun a e => e.2.ctxs.foldl (fun a x => a ||| x.fflags) a) 0
  .next (s.modDie d fun x => { x with dflags := mergeBits bits x.dflags now })

end Sys2Proof.Machine
end

