-- ==== Sys2Proof/Machine/Preempt.lean ====
section
/-! DEFINITION. Machine/Preempt.lean: traps taken from outside an instruction (R370-R376), pre-emption and resume (R379-R385), job
teardown (R257). -/

namespace Sys2Proof.Machine

/-! ### Traps at a boundary (R371, R374, R375) -/

/-- The trap of one entry of the reply-fault list: a double fault where a supervisor instruction of the entry bundles raised it (R372); a count mismatch names the releasing instruction (R227, R370). -/
def State.takeFault (s : State) (k : CoreId) (c : Fin 8) (r : RFault) : State :=
  let x := s.ctx k c
  let s := s.modCore k fun co => { co with rfaults := co.rfaults.erase r }
  let s := match r.uid with | some u => s.modCtx k c (·.unpend u) | none => s
  let epc := r.at'.getD x.hart.pc
  if r.early then s.took.modCore k (·.moveEnd c) |>.takeDouble k c r.cause epc r.eaddr
  else s.trapCtx k c r.cause epc r.eaddr r.fetch

/-- REPLY_FAULT_ENTRY (R374). -/
def execReplyFaultEntry (k : CoreId) (c : Fin 8) (s : State) : Host.Outcome State Fault Refusal :=
  .next (if (s.ctx k c).mayTrap && (s.core k).pre.step == 0 then
      match (s.core k).dueFault c with
      | some r => s.takeFault k c r
      | none => s
    else s)

/-- The interrupt is taken at a boundary of that context (R370). -/
def State.takeIrq (s : State) (k : CoreId) (c : Fin 8) (e : Nat × BitVec 5) : State :=
  let s := s.modPkg (pkgOf k) fun p => { p with irqs := p.irqs.erase e }
  s.trapCtx k c 0x18 (s.ctx k c).hart.pc (e.2.setWidth 64) false

/-- INTERRUPT_ENTRY (R370): no reply fault of that context comes first (R375). -/
def execInterruptEntry (k : CoreId) (s : State) : Host.Outcome State Fault Refusal :=
  .next (match s.irqOf k, (s.core k).irqCtx with
    | some e, some c =>
      if (s.ctx k c).mayTrap && (s.core k).pre.step == 0 && ((s.core k).boundaryFault c).isNone then s.takeIrq k c e else s
    | _, _ => s)

/-! ### The save area (R382) -/

/-- A core's slot of the save area of its die. -/
def State.slotBase (s : State) (k : CoreId) : Nat :=
  (s.die (dieOf k)).save.toNat + ((yOf k % 64) * 128 + xOf k % 128) * 0x50000

/-- Bytes written by the controller. -/
def State.poke (s : State) (a : Nat) (bs : List Byte) : State := { s with mem := memWrite s.mem a (bs.map some) }
/-- Bytes the controller reads. -/
def State.peek (s : State) (a n : Nat) : List Byte := memRead s.mem a n

/-- The sideband of local memory as bytes, FMT first. -/
def Core.sideBytes (co : Core) : List Byte := (List.range 2048).flatMap fun b => let d := co.locDesc (64 * b); [d.fmt, d.scale]

/-- Local memory, sideband and fill bits read back from a slot. -/
def State.refill (s : State) (k : CoreId) : State :=
  let a := s.slotBase k
  let side := s.peek (a + 0x20000) 4096
  s.modCore k fun co =>
    let co := { co with loc := memWrite [] 0 ((s.peek a 0x20000).map some), fill := BitVec.ofNat 1024 (leNat (s.peek (a + 0x21000) 128)) }
    (List.range 2048).foldl (fun (co : Core) b => co.setLocDesc (64 * b) ⟨side.getD (2 * b) 0, side.getD (2 * b + 1) 0⟩) co

/-! ### Save (R380, R381) -/

/-- PREEMPT_REQUEST (R379): a write of REQ. -/
def State.writeReq (s : State) (d : DieId) (v : Byte) : State := (s.poke (ctlBlk d * 64) [v]).ctlReq d v

/-- PREEMPT_REQUEST (R379). -/
def execPreemptRequest (d : DieId) (reason : Byte) (s : State) : Host.Outcome State Fault Refusal := .next (s.writeReq d reason)

/-- TIME_SLICE_EXPIRY (R379). -/
def execTimeSliceExpiry (d : DieId) (s : State) : Host.Outcome State Fault Refusal :=
  .next (if (s.die d).slice = 0 ∨ (s.die d).state ≠ 0 then s else s.writeReq d 0x01)

/-- Every core of the die before this one has passed a step (R262). -/
def State.turnOf (s : State) (k : CoreId) (n : Nat) : Bool :=
  ((s.dieUsers (dieOf k)).takeWhile fun j => j != k).all fun j => (s.core j).pre.out || decide (n < (s.core j).pre.step)

/-- A dray entry that has moved nothing: it waits for its slot (R254). -/
def DrayEntry.waits (e : DrayEntry) : Bool := e.op.wantsSlot.isSome && e.slot.isNone

/-- Step 1 is over: contexts stopped, engines and accesses done, every message accepted (R74, R380). A count that only its trap would
end (R228) is no longer outstanding: no trap is taken in step 1 (log 74). A bare translation is abandoned with its wait, and a fetch at a full parking pool (R377). -/
def State.stopped (s : State) (k : CoreId) : Bool :=
  let co := s.core k
  (((List.range 8).map (Fin.ofNat 8)).all fun c =>
    let x := co.ctxs[c]
    x.occ == 0 && !x.undone && x.pend.all (co.failedPend c) &&
      (match x.wait with | .table .. | .carmReg .. | .finish 0 => false | _ => true)) &&
  co.accs.all (fun a => a.kind == .xlate || (a.kind == .fetch && a.parts.any fun p => p.stage == .missed)) && co.rels.isEmpty && co.wbs.isEmpty && co.anvil.isEmpty && co.anvRun.isNone && co.drains.isEmpty &&
  co.drayOut.isEmpty && co.drayBad.isEmpty &&
  (match co.drayRun with | none => (match co.dray with | [] => true | e :: _ => e.waits) | some e => e.waits)

/-- What step 1 saves of a line: its DIRTY words, and with a pin every VALID word; none where nothing of it is saved (R226). -/
def L1Line.saved (l : L1Line) : Option L1Line :=
  let l := if l.pin = 0 then { l with valid := l.valid &&& l.dirty } else l
  if l.dirty != 0 || l.ddirty != 0 || (l.pin != 0 && l.valid != 0) then some l else none

/-- The core-state and L1 images of a slot: their layout is the stepping's, so their bytes are free values; what resume brings back
is kept in `saves` under the slot's address (R382, log 61). -/
def State.opaqueImages (s : State) (a : Nat) : State :=
  let n := s.fresh
  State.poke { s with fresh := n + 0xEF70 } (a + 0x21090) ((List.range 0xEF70).map fun j => BitVec.ofNat 8 (Config.freeNat (n + j)))

/-- The core state that step 1 saves (R226, R382). -/
def Core.image (co : Core) : SaveImg :=
  { l1 := co.l1.filterMap L1Line.saved, dray := co.drayRun.toList ++ co.dray, ctrs := co.ctrs, slots := co.slots, prods := co.prods,
    exch := co.exch, inject := co.inject, extract := co.extract, rfaults := co.rfaults, fences := co.ctxs.map (·.fences),
    fwd := co.ctxs.map (·.fwd), joined := co.ctxs.map (·.joined) }

/-- What stays in a core whose state is in its slot: empty queues and tables, and contexts that wait for nothing (R377). -/
def Core.emptied (co : Core) : Core :=
  { co with
    l1 := [], dray := [], drayRun := none, ctrs := Vector.replicate 16 {}, slots := Vector.replicate 8 none, prods := [], exch := [],
    inject := [], extract := [], rfaults := [], accs := [],
    ctxs := co.ctxs.map fun x => { x with wait := .none, flight := [], gap := 0, pend := [], fences := [], fwd := none, joined := 0 } }

/-- The end of step 1: the core saves its own state and acknowledges (R380). -/
def State.ackStop (s : State) (k : CoreId) : State :=
  let s := ((List.range 8).map (Fin.ofNat 8)).foldl (fun s c => s.endCtx k c) s
  if (s.core k).pre.step ≠ 1 ∨ !s.stopped k then s
  else
    let a := s.slotBase k
    ((s.opaqueImages a).modCore k fun co =>
      { co.emptied with saves := fmSet co.saves a co.image, pre := { co.pre with step := 2 } }).syncCtl (dieOf k)

/-- PREEMPT_LOCAL_COPY (R380 steps 1 and 2, R382): the core's acknowledgement, and in save-queue order the controller's copy. -/
def execPreemptLocalCopy (k : CoreId) (s : State) : Host.Outcome State Fault Refusal :=
  .next (
    let s := s.ackStop k
    let co := s.core k
    if co.pre.step ≠ 2 ∨ !s.turnOf k 2 then s
    else
      let a := s.slotBase k
      let s := s.poke a (co.locRead 0 0x20000)
      let s := s.poke (a + 0x20000) co.sideBytes
      let s := s.poke (a + 0x21000) (leBytes 128 co.fill.toNat)
      (s.modCore k fun co => { co with pre := { co.pre with step := 3 } }).syncCtl (dieOf k))

/-- Where a context's resume record lies (R381). -/
def recordAt (c : Fin 8) : Nat := 0x1FF80 + 16 * c.val

/-- The entry of a context at the save or the restore entry point. -/
def Ctx.enterAt (x : Ctx) (evec : PcW) (off : Nat) (c : Fin 8) : Ctx :=
  { x with
    hart := { x.hart.setG 15 (BitVec.ofNat 64 (recordAt c)) with pc := evec + BitVec.ofNat 57 off }, sup := true, inEntry := true,
    force := Vector.replicate 2 none, wait := .none, gap := 0, occ := 0, unit := none, swEnd := false }

/-- The resume record of a context. -/
def Ctx.record (x : Ctx) : List Byte :=
  leBytes 8 (x.hart.pc.toNat + (if x.sup then 2 ^ 63 else 0)) ++ leBytes 8 x.hart.g[15].toNat

/-- SAVE_ENTRY (R380 step 3, R381): the busy contexts enter; a reservation lapses; a core with no busy context passes at once. -/
def execSaveEntry (k : CoreId) (s : State) : Host.Outcome State Fault Refusal :=
  .next (
    let co := s.core k
    if co.pre.step ≠ 3 ∨ co.pre.entered then s
    else
      let busy := ((List.range 8).map (Fin.ofNat 8)).filter fun c => co.ctxs[c].pool == .busy
      let s := busy.foldl (fun (s : State) c =>
        (s.modCore k fun co => { co with loc := memWrite co.loc (recordAt c) (co.ctxs[c].record.map some) }).modCtx k c fun x =>
          x.enterAt (s.core k).evec 192 c) s
      let s := s.modCore k fun co =>
        { co with
          noticed := [],
          ctxs := co.ctxs.map fun x => if x.pool == .reserved then { x with pool := .free, holdFor := none } else x,
          pre := { co.pre with
            step := if busy.isEmpty then 4 else 3, entered := true, saved := BitVec.ofNat 8 (busy.map fun c => 2 ^ c.val).sum,
            through := 0, maxN := 0 } }
      s.syncCtl (dieOf k))

/-- PREEMPT_IMAGE_COPY (R380 step 4, R382, R415). -/
def execPreemptImageCopy (k : CoreId) (s : State) : Host.Outcome State Fault Refusal :=
  .next (
    let co := s.core k
    if co.pre.step ≠ 4 ∨ !s.turnOf k 4 then s
    else
      let a := s.slotBase k
      let s := s.poke (a + 0x30000) (co.locRead 0 co.pre.maxN)
      let s := s.poke (a + 0x30000 + 0x1FF80) (co.locRead 0x1FF80 0x80)
      let s := s.poke (a + 0x21080) (leBytes 8 (co.pre.saved.toNat + co.pcause.toNat * 2 ^ 8 + co.pre.maxN * 2 ^ 16))
      let s := s.poke (a + 0x21088) (leBytes 8 co.gen.toNat)
      (s.modCore k fun co => { co with pre := { co.pre with step := 5 } }).syncCtl (dieOf k))

/-! ### Resume (R383) -/

/-- Resume steps 1 and 2 of one core: its contexts, the size of its image and what it restores come from the slot that SAVE names. -/
def State.resumeCore (s : State) (k : CoreId) : State :=
  let co := s.core k
  if co.pre.out then s.modCore k fun co => { co with pre := {}, pcause := 0 }
  else if co.pre.step ≠ 5 then s
  else
    let a := s.slotBase k
    let head := leNat (s.peek (a + 0x21080) 8)
    let n := min 0x20000 (head / 2 ^ 16 % 2 ^ 18)
    let saved : Byte := BitVec.ofNat 8 head
    let img := s.peek (a + 0x30000) n
    let recs := s.peek (a + 0x30000 + 0x1FF80) 0x80
    let s := s.modCore k fun co =>
      { co with
        loc := memWrite (memWrite co.loc 0 (img.map some)) 0x1FF80 (recs.map some),
        pre := { co.pre with step := 6, saved := saved, through := 0, maxN := n } }
    ((List.range 8).map (Fin.ofNat 8)).foldl (fun (s : State) c => s.modCtx k c fun x =>
      if saved.getLsbD c.val then { x.enterAt (s.core k).evec 384 c with pool := .busy }
      else { x with pool := if x.pool == .busy then .free else x.pool, wait := .none }) s

/-- RESUME_REQUEST (R379, R383): a write of REQ 0x00, or one already seen. -/
def execResumeRequest (d : DieId) (s : State) : Host.Outcome State Fault Refusal :=
  .next (
    let s := if (s.die d).resume then s else s.writeReq d 0x00
    if !(s.die d).resume then s
    else
      let s := s.modDie d fun x => { x with resume := false }
      ((s.dieUsers d).foldl State.resumeCore s).syncCtl d)

/-- A restored line with fresh tags and sideband (R226). -/
def State.freshLine (s : State) (d : DieId) (l : L1Line) : L1Line :=
  [0, 1].foldl (fun (l : L1Line) b =>
    let l := l.setTag b (s.dieTag d (2 * l.line + b))
    if l.ddirty.getLsbD b then l else l.setDesc b (s.dieBuf d (2 * l.line + b)).desc) l

/-- The restored dirty words of a block that is not writable: a suspended store of the lowest saved context (R226, log 34). -/
def State.restoreStore (s : State) (k : CoreId) (l : L1Line) (b : Nat) : State :=
  let w := blockWords b l.dirty
  if w = 0 ∨ tagWrites (l.tag b) then s
  else
    let c := (((List.range 8).map (Fin.ofNat 8)).find? fun c => (s.core k).pre.saved.getLsbD c.val).getD 0
    let (id, s) := s.newId
    let pa := (2 * l.line + b) * 64
    let bytes := (List.range 64).map fun j => if w.getLsbD (j / 4) then some ((l.block b).extractLsb' (8 * j) 8) else none
    let a : Access :=
      { id := id, ctx := c, user := false, kind := .st, pc := (s.ctx k c).hart.pc, counted := true,
        parts := [{ ea := BitVec.ofNat 64 pa, tgt := .glob (BitVec.ofNat 64 pa), off := 0, bytes := bytes, stage := .tagReq pa }] }
    (s.modCore k fun co => { co with accs := co.accs ++ [a] }).modCtx k c fun x => { x with pend := x.pend ++ [id] }

/-- The core state of a save area comes back; faults that have come since follow those of its list. -/
def Core.restored (co : Core) (im : SaveImg) (ls : List L1Line) : Core :=
  { co with
    l1 := ls, ctrs := im.ctrs, slots := im.slots, prods := im.prods, exch := im.exch, inject := im.inject, extract := im.extract,
    rfaults := im.rfaults ++ co.rfaults,
    ctxs := Vector.ofFn fun (c : Fin 8) => { co.ctxs[c] with fences := im.fences[c], fwd := im.fwd[c], joined := im.joined[c] } }

/-- What the slot that SAVE names holds of a core's own state. -/
def State.saveImg (s : State) (k : CoreId) : SaveImg := ((s.core k).saves.lookup (s.slotBase k)).getD {}

/-- RESUME_WRITEBACK (R383 step 3): in the order of the save queue, once every context is through. -/
def execResumeWriteback (k : CoreId) (s : State) : Host.Outcome State Fault Refusal :=
  .next (
    let co := s.core k
    let before := ((s.dieUsers (dieOf k)).takeWhile fun j => j != k).all fun j => (s.core j).pre.step != 6 || (s.core j).pre.out
    if co.pre.step ≠ 6 ∨ co.pre.through ≠ co.pre.saved ∨ !before then s
    else
      let im := s.saveImg k
      let s := s.refill k
      let ls := im.l1.map (s.freshLine (dieOf k))
      let s := s.modCore k fun co => { co.restored im ls with pcause := 0, pre := { co.pre with step := 7 } }
      (ls.foldl (fun (s : State) l => (s.restoreStore k l 0).restoreStore k l 1) s).syncCtl (dieOf k))

/-- CORE_RESUME (R383 step 4). -/
def execCoreResume (k : CoreId) (s : State) : Host.Outcome State Fault Refusal :=
  .next (
    let co := s.core k
    if co.pre.step ≠ 7 then s
    else
      let im := s.saveImg k
      let s := s.modCore k fun co =>
        { co with
          pre := {}, dray := im.dray ++ co.dray,
          ctxs := co.ctxs.map fun x => match x.wait with
            | .restored w0 w1 =>
              { x with hart := { x.hart.setG 15 w1 with pc := w0.setWidth 57 }, sup := w0.getLsbD 63, wait := .none }.latched
            | _ => x }
      let free := ((List.range 8).map (Fin.ofNat 8)).filter fun c => (s.ctx k c).pool == .free
      (free.foldl (fun (s : State) c => s.offer k c) s).syncCtl (dieOf k))

/-! ### Job teardown (R257, R256) -/

/-- The core whose agent a party is. -/
def Party.core : Party → Option CoreId
  | .acc k _ _ | .walk k _ _ | .rel k _ _ | .wb k _ _ _ _ | .dray k => some k
  | _ => Option.none
/-- The core that sent a write. -/
def writerOf : WRef → CoreId
  | .acc k _ _ | .drain k _ _ | .dray k _ => k

/-- A message is discarded: its slot frees and its sender's unack falls. -/
def State.dropMsg (s : State) (r : MRef) : State :=
  match s.slot r with
  | none => s
  | some m =>
    let s := s.setSlot r none
    match m.msg.ctx with
    | some c => s.modCtx r.src c (·.unpend m.msg.uid)
    | none => s

/-- The queues, tables and waits of a core at the end of its job (R147, R256, R257, R311, R312, R357). -/
def Core.torn (co : Core) : Core :=
  { co with
    refused := co.refused.filter fun l => l.sup, noticed := [], ctrs := Vector.replicate 16 {}, exch := [], frozen := false,
    fused := false, memb := 0, anvil := [], anvRun := none, drains := [], dray := [], drayRun := none, drayOut := [], drayBad := [],
    rels := [], accs := [], wbs := [], rfaults := [], inject := [], extract := [], barArr := Vector.replicate 5 [],
    barDone := Vector.replicate 5 [], saves := [], ctxs := co.ctxs.map fun x => { x with fwd := none },
    pre := { co.pre with saved := 0, through := 0 } }

/-- A counter of the job whose cores are given (R358). -/
def Owner.inJob (ks : List CoreId) : Owner → Bool
  | .core k => ks.contains k
  | .job p => ks.any fun k => pkgOf k == p

/-- Launches of the job's counters are discarded wherever they wait (R358). -/
def State.dropLaunches (s : State) (ks : List CoreId) : State :=
  s.cores.foldl (fun (s : State) (e : Nat × Core) => (List.range 8).foldl (fun (s : State) j =>
    match e.2.retry[j]?.getD none with
    | some m => if m.msg.owner.any (·.inJob ks) then s.dropMsg ⟨e.1, j⟩ else s
    | none => s) s) s

/-- One core of the job: its messages and queues go, its quad is written back and parted, and each context frees and is offered (R17,
R200, R256, R257). -/
def State.tearCore (s : State) (k : CoreId) : State :=
  let s := if (s.core k).fused then
      (List.range 4).foldl (fun (s : State) q => s.modCore (quadCore k q) fun co => { co with fused := false }) (s.emptyQuad k)
    else s
  let s := ((s.core k).refused.filter fun l => !l.sup).foldl (fun (s : State) l => s.dropMsg l.msg) s
  let s := (List.range 8).foldl (fun (s : State) j => match (s.core k).retry[j]?.getD none with
    | some m => if m.msg.user && m.msg.ctx.isSome then s.dropMsg ⟨k, j⟩ else s
    | none => s) s
  let s := s.modCore k Core.torn
  ((List.range 8).map (Fin.ofNat 8)).foldl (fun (s : State) c => s.freeCtx k c) s

/-- JOB_TEARDOWN (R257, R256, R147, R311, R312, R357, R401): the cores of the job. -/
def execJobTeardown (ks : List CoreId) (s : State) : Host.Outcome State Fault Refusal :=
  .next (
    let lost := ks.flatMap fun k => (s.core k).accs.map (·.id)
    let s := (ks.foldl State.tearCore s).dropLaunches ks
    let mine := fun (o : Option CoreId) => match o with | some k => ks.contains k | none => false
    -- data on its way to memory by replacement or from a fused quad still gets there
    let gone := fun (m : FMsg) => (match m.party with | .wb .. => false | _ => true) && mine m.party.core
    let lost := lost ++ s.pkgs.flatMap fun e => e.2.far.flatMap fun (f : Nat × Farrier) =>
      ((f.2.reqs ++ f.2.holds).filter gone).map (·.uid)
    -- what waits for the fabric (R401)
    let stray := fun (x : FabPkt) => ks.contains x.flow || lost.contains x.uid || (match x.body with
      | .ack k _ | .refuse k _ => ks.contains k
      | _ => false)
    { s with
      cores := s.cores.map fun (e : Nat × Core) =>
        (e.1, { e.2 with
          wiq := e.2.wiq.filter fun w => !ks.contains (writerOf w.ref), ports := e.2.ports.filter fun m => (s.slot m.ref).isSome,
          refused := e.2.refused.filter fun l => (s.slot l.msg).isSome }),
      dies := s.dies.map fun (e : Nat × Die) =>
        (e.1, { e.2 with
          parked := e.2.parked.filter fun p => !mine p.core,
          gctrs := e.2.gctrs.map fun (g : Nat × Arr) => if g.2.owner.inJob ks then (g.1, {}) else g }),
      pkgs := s.pkgs.map fun (e : Nat × Pkg) =>
        (e.1, { e.2 with
          tree := e.2.tree.filter fun t => !ks.contains t.core,
          far := e.2.far.map fun (f : Nat × Farrier) =>
            (f.1, { f.2 with reqs := f.2.reqs.filter fun m => !gone m, holds := f.2.holds.filter fun m => !gone m }) }),
      fab := s.fab.filter fun x => !stray x,
      vq := s.vq.filter fun m => !ks.contains m.src && !ks.contains m.dst,
      rets := s.rets.filter fun m => !ks.contains m.dst && !ks.contains m.cons,
      recs := s.recs.filter fun m => !ks.contains m.src && !ks.contains m.dst })

end Sys2Proof.Machine
end

