-- ==== Sys2Proof/Machine/Fabric.lean ====
section
/-! DEFINITION. Machine/Fabric.lean: the optical fabric: carriers, flows, frames, retry and failover (R395-R402), and the
answers to interval closes (R227, R360). -/

namespace Sys2Proof.Machine

/-! ### Carriers (R395, R397) -/

/-- Carriers received on receive fibre t of package q: transmit fibre t of their package, tuned to q (R395). -/
def State.receivers (s : State) (q : PkgId) (t : Nat) : Nat :=
  (s.pkgs.map fun (e : Nat × Pkg) => (e.2.carriers.filter fun c => c.1 / 8 == t && c.2.st == .up && c.2.dpkg == q && e.1 != q).length).sum

/-- Carriers toward package q on receive fibre t that began to train before the one that began at n: receivers are granted in order
of training (R397). -/
def State.trainees (s : State) (q : PkgId) (t n : Nat) : Nat :=
  (s.pkgs.map fun (e : Nat × Pkg) => (e.2.carriers.filter fun c =>
    c.1 / 8 == t && c.2.st == .training && c.2.en && c.2.dpkg == q && e.1 != q && decide (c.2.since < n)).length).sum

/-- A receiver is free for carrier i of package p. -/
def State.canLock (s : State) (p : PkgId) (i : Nat) : Bool :=
  let c := s.carrier p i
  c.st == .training && c.en && decide (s.receivers c.dpkg (i / 8) + s.trainees c.dpkg (i / 8) c.since < 8)

/-- CARRIER_RETUNE_COMPLETE (R300, R397). -/
def execCarrierRetuneComplete (p : PkgId) (i : Nat) (s : State) : Host.Outcome State Fault Refusal :=
  let c := s.carrier p i
  .next (
    if c.st == .down && c.en && c.retune then
      let (id, s) := s.newId
      s.modCarrier p i fun c => { c with st := .training, retune := false, since := id }
    else s)

/-- CARRIER_UP (R397): the reverse direction is UP, or comes up with it (log 35). -/
def execCarrierUp (p : PkgId) (i : Nat) (s : State) : Host.Outcome State Fault Refusal :=
  .next (
    let q := (s.carrier p i).dpkg
    if !s.canLock p i then s
    else
      let up := fun (p : PkgId) (i : Nat) (s : State) => s.modCarrier p i fun c => { c with st := .up, naks := 0, nak := false }
      if !(s.upTo q p).isEmpty then up p i s
      else match (s.pkg q).carriers.find? fun e => e.2.dpkg == p && s.canLock q e.1 with
        | some e => up q e.1 (up p i s)
        | none => s)

/-! ### Flows and frames (R398-R400) -/

/-- The flow of a packet. -/
def FabPkt.isOf (x : FabPkt) (w : Flow) : Bool := w.key == x.flow && w.dst == x.dst && w.reply == x.reply

/-- The carrier a packet takes: its own or its flow's, or the one a new binding chooses among those UP. -/
def State.carrierFor (s : State) (x : FabPkt) : Option Nat :=
  match x.carrier with
  | some i => some i
  | none => match (s.pkg x.src).flows.find? x.isOf with
    | some { carrier := some i, .. } => some i
    | _ =>
      let ups := s.upTo x.src x.dst
      if ups.isEmpty then none else ups[Config.flowHash x.src x.dst x.flow % ups.length]?

/-- The next packet that a carrier has not yet sent: replies before requests (R399). -/
def State.nextPkt (s : State) (p : PkgId) (i : Nat) : Option FabPkt :=
  let mine := s.fab.filter fun x => x.src == p && s.carrierFor x == some i && !(s.carrier p i).buf.contains x
  match mine.find? (·.reply) with
  | some x => some x
  | none => mine.head?

/-- The flow of a packet, as its source package keeps it. -/
def State.flowOf (s : State) (x : FabPkt) : Flow :=
  ((s.pkg x.src).flows.find? x.isOf).getD { key := x.flow, reply := x.reply, dst := x.dst }
def State.setFlow (s : State) (x : FabPkt) (w : Flow) : State :=
  s.modPkg x.src fun p => { p with flows := (p.flows.filter fun v => !x.isOf v) ++ [w] }

/-- A packet leaves on a carrier: its flow is bound to it, and a packet that had no number takes the flow's next (R398). -/
def State.leave (s : State) (x : FabPkt) (i : Nat) : FabPkt × State :=
  let w := s.flowOf x
  let n := x.seq.getD (w.tx + 1)
  let x' := { x with carrier := some i, seq := some n }
  (x', { (s.setFlow x { w with carrier := some i, tx := if x.seq.isNone then n else w.tx }) with fab := s.fab.replace x x' })

/-- A number follows the last delivered of its flow: a copy of a delivered packet does not (R398, log 97). -/
def Flow.follows (w : Flow) (n : BitVec 16) : Bool := let d := (n - w.rx).toNat; decide (0 < d) && decide (d < 2 ^ 15)

/-- The last close of an interval has come after every write-back: its answer goes back (R227, R398). -/
def State.closeArrived (s : State) (x : FabPkt) (iv : BitVec 32) : State :=
  if s.ivMoving x.src x.dst iv then s
  else let (n, s) := s.newId; s.ship x.dst x.src n x.flow true (.answer iv)

/-- What a delivered packet does: a farrier request takes its place in arrival order, a write-back is counted, an acknowledgement or a
refusal reaches its context. -/
def State.unpack (s : State) (x : FabPkt) : State :=
  let s := s.modPkg x.dst fun p =>
    { p with far := p.far.map fun (e : Nat × Farrier) =>
        (e.1, { e.2 with reqs := (e.2.reqs.filter fun m => m.uid != x.uid) ++ e.2.reqs.filter fun m => m.uid == x.uid }) }
  match x.body with
  | .wb iv => s.modPkg x.dst fun p =>
    let e := fmGet {} p.ivs x.src
    let n := (e.rcvd.lookup iv).getD 0 + 1
    { p with ivs := fmSet p.ivs x.src { e with rcvd := (iv, n) :: e.rcvd.filter fun r => r.1 != iv } }
  | .close iv => s.closeArrived x iv
  | .ack k c => s.modCtx k c (·.unpend x.uid)
  | .refuse k f => s.fault k f
  | .plain | .answer _ | .bar => s

/-- A packet whose frame was accepted: delivered where its number follows the last of its flow, otherwise discarded (R398). -/
def State.deliverPkt (s : State) (x : FabPkt) : State :=
  let w := s.flowOf x
  let n := x.seq.getD 0
  let s := { s with fab := s.fab.erase x }
  if w.follows n then (s.setFlow x { w with rx := n }).unpack x else s

/-- FABRIC_FRAME (R398-R401). A frame after a damaged one is not accepted, and stays with it in the replay buffer of 128 frames. -/
def execFabricFrame (p : PkgId) (i : Nat) (crcOk : Bool) (s : State) : Host.Outcome State Fault Refusal :=
  .next (
    let c := s.carrier p i
    let sent := fun (x : FabPkt) (s : State) => s.modCarrier p i fun c => { c with buf := c.buf ++ [x], txSeq := c.txSeq + 1 }
    if c.st ≠ .up then s
    else if c.nak then
      match (if c.buf.length < 128 then s.nextPkt p i else none) with
      | none => s
      | some x => let (x, s) := s.leave x i; sent x s
    else
      -- the replay buffer is empty, or its first frame is sent again
      let (x, s) := match c.buf with
        | x :: _ => (some x, s)
        | [] => match s.nextPkt p i with
          | none => (none, s)
          | some x => let (x, s) := s.leave x i; (some x, sent x s)
      match x with
      | none => s
      | some x =>
        if !crcOk then s.modCarrier p i fun c => { c with nak := true }
        else (s.deliverPkt x).modCarrier p i fun c => { c with naks := 0, rxSeq := c.rxSeq + 1, buf := c.buf.erase x })

/-- FRAME_NAK (R401): every frame from the damaged one on is sent again, in order. -/
def execFrameNak (p : PkgId) (i : Nat) (s : State) : Host.Outcome State Fault Refusal :=
  .next (if (s.carrier p i).nak then s.modCarrier p i fun c => { c with nak := false, naks := c.naks + 1 } else s)

/-- CARRIER_DOWN (R401). -/
def execCarrierDown (p : PkgId) (i : Nat) (s : State) : Host.Outcome State Fault Refusal :=
  .next (
    let c := s.carrier p i
    if c.st ≠ .up ∨ c.naks < 8 then s
    else
      let s := (s.carrierDrop p i).modCarrier p i fun c => { c with wentDown := true }
      let port := i / 32
      s.notice p (dieServer (p * 8 + port / 8)) 0xF13
        [BitVec.ofNat 64 port, BitVec.ofNat 64 (i % 32), BitVec.ofNat 64 c.dpkg])

/-! ### Intervals (R227, R360) -/

/-- FABRIC_INTERVAL_CONFIRM (R227, R360, R398): every close has followed the write-backs of its interval, and the answer has come. -/
def execFabricIntervalConfirm (p : PkgId) (q : PkgId) (iv : BitVec 32) (s : State) : Host.Outcome State Fault Refusal :=
  .next (match (fmGet {} (s.pkg p).ivs q).closed.lookup iv with
    | none => s
    | some n =>
      if s.ivMoving p q iv then s
      else
        let got := ((fmGet {} (s.pkg q).ivs p).rcvd.lookup iv).getD 0
        let mine := s.cores.filter fun (e : Nat × Core) => pkgOf e.1 == p && e.2.rels.any fun r => r.ivs.contains (q, iv)
        if got = n then
          let s := s.modPkg p fun x =>
            let e := fmGet {} x.ivs q
            { x with
              ivs := fmSet x.ivs q { e with closed := e.closed.filter fun c => c.1 != iv },
              kept := x.kept.filter fun y => y.dst != q || y.body != .wb iv }
          let s := s.modPkg q fun x =>
            let e := fmGet {} x.ivs p
            { x with ivs := fmSet x.ivs p { e with rcvd := e.rcvd.filter fun c => c.1 != iv } }
          mine.foldl (fun (s : State) e =>
            (s.modCore e.1 fun co => { co with rels := co.rels.map fun r =>
              { r with ivs := r.ivs.erase (q, iv), failed := r.failed && !(r.ivs.erase (q, iv)).isEmpty } }).relStep e.1) s
        else
          let s := s.mon (q * 8) 4
          mine.foldl (fun (s : State) e => e.2.rels.foldl (fun (s : State) r =>
            if r.ivs.contains (q, iv) && !r.failed then
              let (id, s) := s.newId
              (s.modRel e.1 r.id fun r => { r with failed := true }).fault e.1
                ⟨r.ctx, id, r.user, 0x0D, BitVec.ofNat 64 (iv.toNat + q * 2 ^ 32), none, false, some r.pc, false⟩
            else s) s) s)

end Sys2Proof.Machine
end

