-- ==== Sys2Proof/Machine/HostLink.lean ====
section
/-! DEFINITION. Machine/HostLink.lean: what the host does: window accesses, control-BAR writes and snoops (R387-R394, R421,
R424). -/

namespace Sys2Proof.Machine

/-! ### The host window (R389, R390, R394) -/

/-- Where a host-window offset leads; none where its window has V = 0. -/
def Pkg.winAddr (p : Pkg) (off : Nat) : Option Nat :=
  let w := fmGet 0 p.wins (off / 2 ^ 30)
  if w.getLsbD 0 then some ((w.extractLsb' 30 28).toNat * 2 ^ 30 + off % 2 ^ 30) else none

/-- The 64-byte pieces of a range: offset and length. -/
def pieces : Nat → Nat → Nat → List (Nat × Nat)
  | 0, _, _ => []
  | n + 1, off, len =>
    if len = 0 then [] else
      let m := min len (64 - off % 64)
      (off, m) :: pieces n (off + m) (len - m)

/-- One piece of a host access arrives; prompt it is performed as far as it can be. -/
def State.hostArrive (s : State) (p : PkgId) (req off : Nat) (data : Option (List Byte)) (len : Nat) (relaxed : Bool) : State :=
  let (id, s) := s.newId
  match (s.pkg p).winAddr off with
  | none => s.hostEnd p id (some (if data.isSome then .aer id else .unsupported id))
  | some pa =>
    let s := s.modPkg p fun x => { x with hostAccs := x.hostAccs ++ [{ n := id, req := req, pa := pa, data := data, len := len, relaxed := relaxed }] }
    let (l, s) := s.popLag
    if l = 0 then s.hostPump p else s

/-- The request lies in the 64 GiB window and within the link's size limit; no other reaches the device (R387, R389). -/
def hostFits (off len limit : Nat) : Bool := decide (len ≤ limit) && decide (off + len ≤ 2 ^ 36)

/-- HOST_WINDOW_READ (R390): of at most 4,096 bytes (R387). -/
def execHostWindowRead (p : PkgId) (off len : Nat) (s : State) : Host.Outcome State Fault Refusal :=
  .next (if !hostFits off len 4096 then s else (pieces (len / 64 + 2) off len).foldl (fun (s : State) e => s.hostArrive p 0 e.1 none e.2 false) (s.hostPump p))

/-- HOST_WINDOW_WRITE (R390, R394): of at most 512 bytes (R387), by a requester. -/
def execHostWindowWrite (r : Requester) (off : Nat) (data : List Byte) (relaxed : Bool) (s : State) : Host.Outcome State Fault Refusal :=
  .next (if !hostFits off data.length 512 then s else (pieces (data.length / 64 + 2) off data.length).foldl (fun (s : State) e =>
    s.hostArrive r.pkg r.id e.1 (some ((data.drop (e.1 - off)).take e.2)) e.2 relaxed) (s.hostPump r.pkg))

/-- A control-BAR write waits for every earlier host-window write of its requester (R394). -/
def State.barReady (s : State) (r : Requester) : Bool := !((s.pkg r.pkg).hostAccs.any fun a => a.data.isSome && a.req == r.id)

/-! ### Snoops (R349, R393) -/

/-- The place of a snoop kind in the order R393 names them. -/
def snoopIx : SnoopKind → Nat | .data => 0 | .inv => 1 | .cur => 2

/-- HOST_SNOOP (R349, R393): the three kinds are answered alike; the handler is told which (R320). -/
def execHostSnoop (p : PkgId) (snp : SnoopKind) (line : Nat) (s : State) : Host.Outcome State Fault Refusal :=
  .next (
    if !(s.pkg p).cxl.contains line then s.modPkg p fun x => { x with hostReps := x.hostReps ++ [.snoop line false none] }
    else s.snoopMsg p line (snoopIx snp))

/-! ### The control BAR (R389, R421, R424) -/

/-- FEATURE_ACCEPT_WRITE (R389, R410). -/
def execFeatureAcceptWrite (r : Requester) (w : Fin 4) (val : W64) (s : State) : Host.Outcome State Fault Refusal :=
  .next (if !s.barReady r ∨ (s.pkg r.pkg).faccSet.getLsbD w.val then s
    else s.modPkg r.pkg fun x =>
      { x with facc := x.facc.set w.val (val &&& x.offered w.val), faccSet := x.faccSet ||| (1 <<< w.val) })

/-- PREQ_WRITE (R389). -/
def execPreqWrite (r : Requester) (die : Fin 8) (val : Byte) (s : State) : Host.Outcome State Fault Refusal :=
  .next (if s.barReady r ∧ val = 0x05 then s.writeReq (r.pkg * 8 + die.val) 0x05 else s)

/-- WIN_WRITE (R389). -/
def execWinWrite (r : Requester) (w : Fin 64) (val : W64) (s : State) : Host.Outcome State Fault Refusal :=
  .next (
    let pa := (val.extractLsb' 30 28).toNat * 2 ^ 30
    let ok := val.extractLsb' 1 29 = 0 ∧ val.extractLsb' 58 6 = 0 ∧ (!val.getLsbD 0 ∨ (homePkg pa = r.pkg ∧ isHbm pa))
    if s.barReady r ∧ ok then s.modPkg r.pkg fun x => { x with wins := fmSet x.wins w.val val } else s)

/-- A 64-bit write of the MSI-X table (R389): mask bits stand in bit 32 of the second half of a vector's entry, and a vector that is
unmasked while it is pending fires (log 76). -/
def Pkg.msixWrite (x : Pkg) (o : Nat) (val : W64) : Pkg :=
  let put := fun (n : Nat) (x : Pkg) => { x with msixTab := memWrite x.msixTab o ((leBytes n val.toNat).map some) }
  if o % 16 = 0 then put 8 x
  else
    let b := 1#32 <<< (o / 16)
    let x := put 4 x
    if val.getLsbD 32 then { x with msixMask := x.msixMask ||| b }
    else { x with msixMask := x.msixMask &&& ~~~b, msix := x.msix ||| (x.msixPend &&& b), msixPend := x.msixPend &&& ~~~b }

/-- A write of a control-BAR register with no event of its own (R389, R421, R424). PWRLIM takes the value of the whole 64-bit write:
one with a bit above [12:0] is another value, and is ignored (log 77). -/
def Pkg.barWrite (x : Pkg) (off : Nat) (val : W64) : Pkg :=
  if off = 0x6010 then (if 1500 ≤ val.toNat ∧ val.toNat ≤ 5000 then { x with pwrlim := val.setWidth 13 } else x)
  else if off = 0x6020 then
    let warn : BitVec 16 := val.setWidth 16
    let pre : BitVec 16 := val.extractLsb' 16 16
    if pre.toNat ≤ warn.toNat ∨ 0x7D0 ≤ pre.toNat then x else { x with thr := val.setWidth 32 }
  else if off = 0x80000 then
    let c : Byte := val.setWidth 8
    if x.mbCmd.isSome ∨ c = 0 ∨ 4 < c.toNat then x else { x with mbCmd := some c }
  else if off = 0x80008 then { x with mbLen := val.setWidth 32 }
  else if off = 0x80010 then { x with mbArg := val.setWidth 8 }
  else if 0x81000 ≤ off ∧ off + 8 ≤ 0x100000 then { x with mbBuf := memWrite x.mbBuf (off - 0x81000) ((leBytes 8 val.toNat).map some) }
  else if 0x5000 ≤ off ∧ off < 0x5200 ∧ off % 8 = 0 then x.msixWrite (off - 0x5000) val
  else x

/-- BAR_REGISTER_WRITE (R379, R389, R421, R424): `off` is an offset of the 1 MiB control BAR; numbers from 2^20 on, which are no
offsets of the BAR, name a register of a controller page as 2^20 + die × 4096 + offset (log 53). -/
def execBarRegisterWrite (r : Requester) (off : Nat) (val : W64) (s : State) : Host.Outcome State Fault Refusal :=
  .next (
    if !s.barReady r then s
    else if off < 2 ^ 20 then s.modPkg r.pkg fun x => x.barWrite off val
    else if 2 ^ 20 + 8 * 4096 ≤ off then s
    else
      let d := r.pkg * 8 + (off - 2 ^ 20) / 4096
      let o := off % 4096 / 8 * 8
      if o < 64 then s.homeWrite (ctlBlk d) (maskAt o 8) (BitVec.ofNat 512 (val.toNat * 2 ^ (8 * o))) none else s)

end Sys2Proof.Machine
end

