-- ==== Sys2Proof/Machine/Vector.lean ====
section
/-! DEFINITION. Machine/Vector.lean: the vector group (R131-R150) and the exchange of `vqmax`. -/

namespace Sys2Proof.Machine

/-- A series instruction as an instruction. -/
def seriesOp (i : Instr) (f : Fields) (rounds : Bool) (rule : Rule) (s : State) : Host.Outcome State Fault Refusal :=
  issue i f never (series i f rounds rule) s

/-! ### Floating point (R131-R135) -/

/-- VADD (R131, R158). -/
def execVadd (f : Fields) (s : State) := seriesOp (.vadd f) f true ruleAdd s
/-- VSUB (R131, R158). -/
def execVsub (f : Fields) (s : State) := seriesOp (.vsub f) f true ruleSub s
/-- VMUL (R131, R158). -/
def execVmul (f : Fields) (s : State) := seriesOp (.vmul f) f true ruleMul s
/-- VFMA (R131, R158). -/
def execVfma (f : Fields) (s : State) := seriesOp (.vfma f) f true ruleFma s
/-- VFMS (R131, R158). -/
def execVfms (f : Fields) (s : State) := seriesOp (.vfms f) f true ruleFms s
/-- VFNM (R131, R158). -/
def execVfnm (f : Fields) (s : State) := seriesOp (.vfnm f) f true ruleFnm s
/-- VDIV (R131, R159). -/
def execVdiv (f : Fields) (s : State) := seriesOp (.vdiv f) f true ruleDiv s
/-- VMIN (R132, R163). -/
def execVmin (f : Fields) (s : State) := seriesOp (.vmin f) f false (ruleMinMax false) s
/-- VMAX (R132, R163). -/
def execVmax (f : Fields) (s : State) := seriesOp (.vmax f) f false (ruleMinMax true) s
/-- VABS: at order 0 the sign bit is cleared and no flag raised (R132); at higher orders R163. -/
def execVabs (f : Fields) (s : State) :=
  seriesOp (.vabs f) f false (fun r k a b c => if k = 0 then [(absCode r.t (b.getD 0 0), 0)] else ruleAbs r k a b c) s
/-- VNEG (R132, R163). -/
def execVneg (f : Fields) (s : State) := seriesOp (.vneg f) f false ruleNeg s
/-- VSQRT (R131, R159). -/
def execVsqrt (f : Fields) (s : State) := seriesOp (.vsqrt f) f true ruleSqrt s
/-- VRCP (R133, R135, R159). -/
def execVrcp (f : Fields) (s : State) := seriesOp (.vrcp f) f true ruleRcp s
/-- VRSQ (R133, R135, R159). -/
def execVrsq (f : Fields) (s : State) := seriesOp (.vrsq f) f true ruleRsq s
/-- VEXP (R133, R134, R160). -/
def execVexp (f : Fields) (s : State) := seriesOp (.vexp f) f true ruleExp s
/-- VLOG (R133, R134, R160). -/
def execVlog (f : Fields) (s : State) := seriesOp (.vlog f) f true ruleLog s
/-- VSIN (R133, R134, R161). -/
def execVsin (f : Fields) (s : State) := seriesOp (.vsin f) f true (ruleSinCos false) s
/-- VCOS (R133, R134, R161). -/
def execVcos (f : Fields) (s : State) := seriesOp (.vcos f) f true (ruleSinCos true) s
/-- VTANH (R133, R134, R162). -/
def execVtanh (f : Fields) (s : State) := seriesOp (.vtanh f) f true (ruleAux .tanh) s
/-- VSIGM (R133, R134, R162). -/
def execVsigm (f : Fields) (s : State) := seriesOp (.vsigm f) f true (ruleAux .sigm) s

/-! ### Integer and bitwise (R136) -/

/-- The elements of a source register or the broadcast of a scalar. -/
def Ctx.src (x : Ctx) (ty : BitVec 4) (o : Opd) (e : Nat) : Nat :=
  match o with
  | .v r => elemAt x.v[r] (tyWidth ty) e
  | o => x.hart.elem ty o

/-- A masked instruction with one result element and its flags per lane, on plain registers. -/
def lanewise (i : Instr) (f : Fields) (g : Nat → Nat × Fl) (s : State) : Res :=
  let outs := (s.me.lanes f).map fun e => (e, g e)
  deliver i f (tyWidth f.ty) [elemWrite (vIx f.a) (tyWidth f.ty) f.zr (outs.map fun o => (o.1, o.2.1))]
    (orFlags 0 (outs.foldl (fun fl o => fl ||| o.2.2) 0)) true s

/-- The integer mould (R136): b and c extended, an exact result wrapped, or saturated with SAT. -/
def intMould (i : Instr) (f : Fields) (op : Int → Int → Int) (s : State) : Host.Outcome State Fault Refusal :=
  issue i f never (fun s =>
    let t := f.ty.toNat
    let w := tyWidth f.ty
    lanewise i f (fun e =>
      let x := op (decodeInt t w (s.me.src f.ty f.b e)) (decodeInt t w (s.me.src f.ty f.c e))
      if f.bit 18 then let r := satInt t x; (wrap w r.1, r.2) else (wrap w x, 0)) s) s

/-- The bitwise mould (R136). -/
def bitMould (i : Instr) (f : Fields) (op : Nat → Nat → Nat) (s : State) : Host.Outcome State Fault Refusal :=
  issue i f never (fun s =>
    lanewise i f (fun e => (op (s.me.src f.ty f.b e) (s.me.src f.ty f.c e) % 2 ^ tyWidth f.ty, 0)) s) s

/-- VIADD (R136). -/
def execViadd (f : Fields) (s : State) := intMould (.viadd f) f (· + ·) s
/-- VISUB (R136). -/
def execVisub (f : Fields) (s : State) := intMould (.visub f) f (· - ·) s
/-- VIMUL (R136). -/
def execVimul (f : Fields) (s : State) := intMould (.vimul f) f (· * ·) s
/-- VAND (R136). -/
def execVand (f : Fields) (s : State) := bitMould (.vand f) f (· &&& ·) s
/-- VOR (R136). -/
def execVor (f : Fields) (s : State) := bitMould (.vor f) f (· ||| ·) s
/-- VXOR (R136). -/
def execVxor (f : Fields) (s : State) := bitMould (.vxor f) f (· ^^^ ·) s
/-- VSHL (R136): the count is the low log2(w) bits of c. -/
def execVshl (f : Fields) (s : State) := bitMould (.vshl f) f (fun b c => b <<< (c % tyWidth f.ty)) s
/-- VSHR (R136): the sign fills for an INT type with LOG = 0. -/
def execVshr (f : Fields) (s : State) :=
  bitMould (.vshr f) f (fun b c =>
    let w := tyWidth f.ty
    let sh := c % w
    if f.ty == 2 || f.bit 19 then b >>> sh else wrap w (signExt w b >>> sh)) s

/-! ### Compares, selection, masks (R137-R140) -/

/-- The exact value of a raw element. -/
def rawVal (ty : BitVec 4) (x : Nat) : Val :=
  if tyFloat ty then decodeFloat (floatFmt ty.toNat) x else intVal (decodeInt ty.toNat (tyWidth ty) x)

/-- The bits of element e's mask (R64). -/
def maskElem (w e : Nat) : Nat := if w < 8 then 2 ^ (e * w / 8) else (2 ^ (w / 8) - 1) * 2 ^ (e * w / 8)

/-- VCMP (R137, R163): coefficient 0 decides in jet mode. -/
def execVcmp (f : Fields) (s : State) : Host.Outcome State Fault Refusal :=
  issue (.vcmp f) f never (fun s =>
    let x := s.me
    let k := x.jord.toNat
    let w := tyWidth f.ty
    let holds := fun e =>
      vecRel (f.bits 18 3) (valCmp (rawVal f.ty ((x.coefs k f.ty f.b e).headD 0)) (rawVal f.ty ((x.coefs k f.ty f.c e).headD 0)))
    let en := x.lanes f
    match f.a with
    | .m r =>
      let ones := ((en.filter holds).map (maskElem w)).sum
      let wr := if f.zr then 2 ^ 128 - 1 else (en.map (maskElem w)).sum
      deliver (.vcmp f) f w [.m r (BitVec.ofNat 128 wr) (BitVec.ofNat 128 ones)] 0 true s
    | .c r => deliver (.vcmp f) f w [.c r (if f.bit 21 then en.all holds else en.any holds)] 0 true s
    | _ => .ok s) s

/-- VSEL (R138, R163): each register of the groups byte by byte; slots above k are zeroed. -/
def execVsel (f : Fields) (s : State) : Host.Outcome State Fault Refusal :=
  issue (.vsel f) f never (fun s =>
    let x := s.me
    let k := x.jord.toNat
    let sel : V1024 := BitVec.ofNat 1024 (widenMask 128 (x.mask f.mkn).toNat)
    let regs := fun o => groupRegs k o
    let ws := ((regs f.a).zipIdx).map fun r =>
      if k < r.2 then RegWrite.v r.1 (BitVec.allOnes 1024) 0
      else .v r.1 (BitVec.allOnes 1024) (mergeBits sel x.v[(regs f.c).getD r.2 0] x.v[(regs f.b).getD r.2 0])
    deliver (.vsel f) f 8 ws 0 true s) s

/-- VBOUND (R140). -/
def execVbound (f : Fields) (s : State) : Host.Outcome State Fault Refusal :=
  issue (.vbound f) f never (fun s =>
    let w := tyWidth f.ty
    let b := (s.hart.opd f.b).toInt
    let c := (s.hart.opd f.c).toInt
    let m := ((List.range 128).map fun j => if b + ((8 * j / w : Nat) : Int) < c then 2 ^ j else 0).sum
    deliver (.vbound f) f w [.m (mIx f.a) (BitVec.allOnes 128) (BitVec.ofNat 128 m)] 0 true s) s

/-- VWIDTH (R140). -/
def execVwidth (f : Fields) (s : State) : Host.Outcome State Fault Refusal :=
  issue (.vwidth f) f never (fun s =>
    deliver (.vwidth f) f 8 [.g (gIx f.a) (BitVec.ofNat 64 (if f.ty == 0 then 1024 else 1024 / tyWidth f.ty))] 0 true s) s

/-- The mask operations (R139). -/
def maskOp2 (i : Instr) (f : Fields) (op : BitVec 128 → BitVec 128 → BitVec 128) (s : State) :
    Host.Outcome State Fault Refusal :=
  issue i f never (fun s =>
    let b := s.me.mask (mIx f.b)
    let c := s.me.mask (mIx f.c)
    deliver i f 8 [.m (mIx f.a) (BitVec.allOnes 128) (op (if f.bit 17 then ~~~b else b) (if f.bit 18 then ~~~c else c))] 0 true s) s

/-- MAND (R139). -/
def execMand (f : Fields) (s : State) := maskOp2 (.mand f) f (· &&& ·) s
/-- MOR (R139). -/
def execMor (f : Fields) (s : State) := maskOp2 (.mor f) f (· ||| ·) s
/-- MXOR (R139). -/
def execMxor (f : Fields) (s : State) := maskOp2 (.mxor f) f (· ^^^ ·) s
/-- MCNT (R139). -/
def execMcnt (f : Fields) (s : State) : Host.Outcome State Fault Refusal :=
  issue (.mcnt f) f never (fun s =>
    let w := tyWidth f.ty
    deliver (.mcnt f) f 8
      [.g (gIx f.a) (BitVec.ofNat 64 ((List.range (1024 / w)).countP (enabled (s.me.mask (mIx f.b)) w)))] 0 true s) s

/-! ### Moves (R141-R143) -/

/-- VSPLAT (R141): a float immediate is rounded by RND. -/
def execVsplat (f : Fields) (s : State) : Host.Outcome State Fault Refusal :=
  issue (.vsplat f) f never (fun s =>
    match f.b with
    | .imm x =>
      if tyFloat f.ty then
        if badRound f s then .trap 0x01 (wordHigh (.vsplat f))
        else lanewise (.vsplat f) f (fun e =>
          let r := s.rnd f e
          roundTo (floatFmt f.ty.toNat) r.m (r.draw 0) (intVal x.toInt)) (s.drew f)
      else lanewise (.vsplat f) f (fun _ => (wrap (tyWidth f.ty) x.toInt, 0)) s
    | o => lanewise (.vsplat f) f (fun _ => ((s.hart.opd o).toNat % 2 ^ tyWidth f.ty, 0)) s) s

/-- VINS (R142). -/
def execVins (f : Fields) (s : State) : Host.Outcome State Fault Refusal :=
  issue (.vins f) f never (fun s =>
    let w := tyWidth f.ty
    let x := s.hart.opd f.b
    if f.bit 17 then deliver (.vins f) f w [.vs (vIx f.a) 0xFFFFFFFF x] 0 true s
    else
      let i := (s.hart.opd f.c).toNat
      deliver (.vins f) f w (if i < 1024 / w then [elemWrite (vIx f.a) w false [(i, x.toNat % 2 ^ w)]] else []) 0 true s) s

/-- An element as a g value: sign-extended for the INT types. -/
def gOfElem (ty : BitVec 4) (x : Nat) : W64 :=
  if tyInt ty && ty != 2 then BitVec.ofInt 64 (signExt (tyWidth ty) x) else BitVec.ofNat 64 x

/-- VEXTR (R142). -/
def execVextr (f : Fields) (s : State) : Host.Outcome State Fault Refusal :=
  issue (.vextr f) f never (fun s =>
    let w := tyWidth f.ty
    let i := (s.hart.opd f.c).toNat
    let y : W64 := if f.bit 17 then s.me.vs[vIx f.b] &&& 0xFFFFFFFF
      else if i < 1024 / w then gOfElem f.ty (elemAt s.me.v[vIx f.b] w i) else 0
    deliver (.vextr f) f w [.g (gIx f.a) y] 0 true s) s

/-- VPERM (R143). -/
def execVperm (f : Fields) (s : State) : Host.Outcome State Fault Refusal :=
  issue (.vperm f) f never (fun s =>
    let w := tyWidth f.ty
    lanewise (.vperm f) f (fun e => (elemAt s.me.v[vIx f.b] w (elemAt s.me.v[vIx f.c] w e % (1024 / w)), 0)) s) s

/-- VSLIDE (R143). -/
def execVslide (f : Fields) (s : State) : Host.Outcome State Fault Refusal :=
  issue (.vslide f) f never (fun s =>
    let w := tyWidth f.ty
    let d := (s.hart.opd f.c).toInt
    lanewise (.vslide f) f (fun e =>
      let j := (e : Int) + d
      (if 0 ≤ j ∧ j < (1024 / w : Nat) then elemAt s.me.v[vIx f.b] w j.toNat else 0, 0)) s) s

/-- VMOV (R143): register and sidecar. -/
def execVmov (f : Fields) (s : State) : Host.Outcome State Fault Refusal :=
  issue (.vmov f) f never (fun s =>
    deliver (.vmov f) f 8 [.v (vIx f.a) (BitVec.allOnes 1024) s.me.v[vIx f.b],
      .vs (vIx f.a) (BitVec.allOnes 64) s.me.vs[vIx f.b]] 0 true s) s

/-! ### Reduction (R144, R95) -/

/-- Neighbouring pairs of a list. -/
def pairUp {α : Type} : List α → List (α × α)
  | x :: y :: t => (x, y) :: pairUp t
  | _ => []

/-- One level of the tree of R95, and on: every step's flags are ORed. -/
def reduceTree (join : Nat → Nat → Nat → Nat → Nat × Fl) : Nat → Nat → List Nat → Fl → Nat × Fl
  | 0, _, xs, fl => (xs.headD 0, fl)
  | n + 1, lvl, xs, fl =>
    if xs.length ≤ 1 then (xs.headD 0, fl)
    else
      let ys := (pairUp xs).zipIdx.map fun e => join lvl e.2 e.1.1 e.1.2
      reduceTree join n (lvl + 1) (ys.map (·.1)) (ys.foldl (fun f y => f ||| y.2) fl)

/-- The identity a disabled element enters as (R95). -/
def redIdentity (op : Nat) (ty : BitVec 4) : Nat :=
  let w := tyWidth ty
  let fmt := floatFmt ty.toNat
  let r := intRange ty.toNat
  match op with
  | 0 => if tyFloat ty then 2 ^ (w - 1) else 0
  | 1 => if tyFloat ty then fmt.maxc + 1 else wrap w r.2
  | 2 => if tyFloat ty then 2 ^ (w - 1) + fmt.maxc + 1 else wrap w r.1
  | 3 => 2 ^ w - 1
  | _ => 0

/-- One step of a reduction that does not add (R144). -/
def redStep (op : Nat) (ty : BitVec 4) (a b : Nat) : Nat :=
  let minMax := fun (isMax : Bool) =>
    if tyFloat ty then
      match fminTakesB isMax (rawVal ty a) (rawVal ty b) with | some true => a | some false => b | none => qnanOf ty.toNat
    else if (valCmp (rawVal ty a) (rawVal ty b) == some .lt) != isMax then a else b
  match op with
  | 1 => minMax false
  | 2 => minMax true
  | 3 => a &&& b
  | 4 => a ||| b
  | _ => a ^^^ b

/-- VRED (R144). -/
def execVred (f : Fields) (s : State) : Host.Outcome State Fault Refusal :=
  issue (.vred f) f never (fun s =>
    let op := f.bits 17 3
    let w := tyWidth f.ty
    let n := 1024 / w
    let x := s.me.v[vIx f.b]
    let en := fun e => enabled (s.me.mask f.mkn) w e
    let es := (List.range n).map fun e => if en e then elemAt x w e else redIdentity op f.ty
    let out := fun (y : Nat) (fl : Fl) (s : State) =>
      deliver (.vred f) f 64 [.g (gIx f.a) (gOfElem f.ty y)] (orFlags 0 fl) true s
    if op = 0 ∧ tyFloat f.ty then
      if badRound f s then .trap 0x01 (wordHigh (.vred f))
      else
        let r := s.rnd f
        let fmt := floatFmt f.ty.toNat
        let y := reduceTree (fun l p a b =>
          let v := valAdd (r 0).rdn (decodeFloat fmt a) (decodeFloat fmt b)
          let z := roundTo fmt (r 0).m ((r (32 * l + p)).draw 0) v.1
          (z.1, v.2 ||| z.2)) 10 0 es 0
        out y.1 y.2 (s.drew f)
    else if op = 0 then
      let sum : Int := (((List.range n).filter en).map fun e => decodeInt f.ty.toNat w (elemAt x w e)).sum
      if f.bit 20 then let r := satInt f.ty.toNat sum; out (wrap w r.1) r.2 s else out (wrap w sum) 0 s
    else
      let y := reduceTree (fun _ _ a b => (redStep op f.ty a b, 0)) 10 0 es 0
      out y.1 0 s) s

/-! ### Conversion and quantisation (R145, R148, R164) -/

/-- An exact value delivered in a type: Round for floats, RoundInt for integers and ternary. -/
def intoType (ty m draw : Nat) (v : Val) : Nat × Fl :=
  if 4 ≤ ty ∧ ty ≤ 9 then roundTo (floatFmt ty) m draw v
  else
    let r := roundInt ty m draw v
    if ty = 3 then (ternCode r.1, r.2) else (wrap (tyWidth (BitVec.ofNat 4 ty)) r.1, r.2)

/-- The elements of a conversion slice: (destination, source) (R145). -/
def slice (wd ws part : Nat) : List (Nat × Nat) :=
  (List.range (1024 / max wd ws)).map fun e =>
    if ws < wd then (e, part * (1024 / wd) + e) else if wd < ws then (part * (1024 / ws) + e, e) else (e, e)

/-- The scale `vcvt` applies to a source element (R145). -/
def cvtScale (f : Fields) (vs : W64) (ws e : Nat) : Nat :=
  if f.bit 27 || 9 ≤ f.from_ || (f.from_ ≤ 3 && !tyFloat f.ty) then 0x7F
  else (vsDesc vs (if e * ws < 512 then 0 else 1)).scale.toNat

/-- VCVT (R145, R164). -/
def execVcvt (f : Fields) (s : State) : Host.Outcome State Fault Refusal :=
  issue (.vcvt f) f never (fun s =>
    if badRound f s then .trap 0x01 (wordHigh (.vcvt f))
    else
      let x := s.me
      let k := x.jord.toNat
      let wd := tyWidth f.ty
      let ws := tyWidth f.from_
      let t := f.ty.toNat
      let pairs := slice wd ws f.part
      let en := fun (p : Nat × Nat) => enabled (x.mask f.mkn) wd p.1
      let regsB := groupRegs k f.b
      let desc : Desc := ⟨if f.ty ≤ 0xA then f.ty.setWidth 8 else 0, 0x7F⟩
      let side : W64 := BitVec.ofNat 64 ((descBits' desc) * (1 + 2 ^ 16))
      let asInt := !tyFloat f.ty
      let outs := (groupRegs k f.a).zipIdx.map fun r =>
        if k < r.2 then (([RegWrite.v r.1 (BitVec.allOnes 1024) 0, .vs r.1 0xFFFFFFFF 0] : List RegWrite), (0 : BitVec 40))
        else
          let rb := regsB.getD r.2 0
          let es := (pairs.filter en).map fun p =>
            let v := elemValue asInt f.from_.toNat (elemAt x.v[rb] ws p.2) (cvtScale f x.vs[rb] ws p.2)
            let rr := s.rnd f p.1
            let y := intoType t rr.m (rr.draw r.2) v.1
            (p.1, y.1, v.2 ||| y.2)
          let zs := if f.zr then (pairs.filter fun p => !en p).map fun p => (p.1, 0) else []
          ([elemWrite r.1 wd false ((es.map fun e => (e.1, e.2.1)) ++ zs), .vs r.1 0xFFFFFFFF side],
            orFlags r.2 (es.foldl (fun fl e => fl ||| e.2.2) 0))
      deliver (.vcvt f) f wd (outs.flatMap (·.1)) (outs.foldl (fun fl o => fl ||| o.2) 0) true (s.drew f)) s
where descBits' (d : Desc) : Nat := d.fmt.toNat * 256 + d.scale.toNat

/-- The scale `vquant` chooses, and its flag (R148). -/
def quantScale (t : Nat) (amax : Nat) : Nat × Fl :=
  let top : Nat × Nat := match t with
    | 1 => (127, 1)
    | 3 => (1, 1)
    | t => match decodeFloat (floatFmt t) (floatFmt t).maxc with | .fin _ n d => (n, d) | _ => (1, 1)
  match decodeFloat fFP32 amax with
  | .nan => (0xFF, flNV)
  | .inf _ => (0xFE, 0)
  | .zero _ => (0x7F, 0)
  | .fin _ n d =>
    let p := n * top.2; let q := d * top.1
    let l := log2Frac p q
    let r := scale2 1 1 l
    let t := if r.1 * q = p * r.2 then l else l + 1
    ((min (max (127 + t) 0) 254).toNat, 0)

/-- VQUANT (R148). -/
def execVquant (f : Fields) (s : State) : Host.Outcome State Fault Refusal :=
  issue (.vquant f) f never (fun s =>
    if badRound f s then .trap 0x01 (wordHigh (.vquant f))
    else
      let x := s.me
      let wd := tyWidth f.ty
      let ws := tyWidth f.from_
      let t := f.ty.toNat
      let amax := match f.c with
        | .v r => elemAt x.v[r] 32 0
        | o => (x.hart.opd o).toNat % 2 ^ 32
      let (sc, fl0) := quantScale t amax
      let pairs := slice wd ws f.part
      let en := fun (p : Nat × Nat) => enabled (x.mask f.mkn) wd p.1
      let es := (pairs.filter en).map fun p =>
        let v := if sc = 0xFF then .nan
          else valScale (127 - (sc : Int)) (decodeFloat (floatFmt f.from_.toNat) (elemAt x.v[vIx f.b] ws p.2))
        let rr := s.rnd f p.1
        let y := intoType t rr.m (rr.draw 0) v
        (p.1, y)
      let zs := if f.zr then (pairs.filter fun p => !en p).map fun p => (p.1, 0) else []
      let h := f.part * (1024 / ws) * wd / 8 / 64
      let side : W64 := BitVec.ofNat 64 ((t * 256 + sc) * 2 ^ (16 * h))
      deliver (.vquant f) f wd
        [elemWrite (vIx f.a) wd false ((es.map fun e => (e.1, e.2.1)) ++ zs),
          .vs (vIx f.a) (BitVec.ofNat 64 (0xFFFF * 2 ^ (16 * h))) side]
        (orFlags 0 (es.foldl (fun fl e => fl ||| e.2.2) fl0)) true (s.drew f)) s

/-! ### Two-of-four compression (R149, R150) -/

/-- The magnitude of an element as `vcomp` orders it: a NaN above every number. -/
def magnitude (ty : BitVec 4) (x : Nat) : Nat :=
  let w := tyWidth ty
  if tyFloat ty then (if isNanCode ty.toNat x then 2 ^ w else x % 2 ^ (w - 1))
  else (decodeInt ty.toNat w x).natAbs

/-- The two kept indices of a group, ascending; ties go to the lower index. -/
def keptTwo (mags : List Nat) : Nat × Nat :=
  let best := fun (skip : Nat) =>
    (List.range 4).foldl (fun b j =>
      if j = skip then b else if b = 4 || mags.getD b 0 < mags.getD j 0 then j else b) 4
  let i := best 4
  let j := best i
  (min i j, max i j)

/-- VCOMP (R149). -/
def execVcomp (f : Fields) (s : State) : Host.Outcome State Fault Refusal :=
  issue (.vcomp f) f never (fun s =>
    let w := tyWidth f.ty
    let x := s.me.v[vIx f.b]
    let groups := (List.range (256 / w)).map fun g =>
      let es := (List.range 4).map fun j => elemAt x w (4 * g + j)
      let k := keptTwo (es.map (magnitude f.ty))
      (g, es.getD k.1 0, es.getD k.2 0, k)
    let vals := (groups.map fun g => g.2.1 * 2 ^ (w * (2 * g.1)) + g.2.2.1 * 2 ^ (w * (2 * g.1 + 1)) +
      (g.2.2.2.1 + 4 * g.2.2.2.2) * 2 ^ (512 + 4 * g.1)).sum
    deliver (.vcomp f) f w [.v (vIx f.a) (BitVec.allOnes 1024) (BitVec.ofNat 1024 vals)] 0 true s) s

/-- VEXPD (R150). -/
def execVexpd (f : Fields) (s : State) : Host.Outcome State Fault Refusal :=
  issue (.vexpd f) f never (fun s =>
    let w := tyWidth f.ty
    let x := s.me.v[vIx f.b]
    let vals := ((List.range (256 / w)).map fun g =>
      let i := elemAt x 2 (256 + 2 * g)
      let j := elemAt x 2 (256 + 2 * g + 1)
      (if i = j then 0 else elemAt x w (2 * g) * 2 ^ (w * (4 * g + i))) + elemAt x w (2 * g + 1) * 2 ^ (w * (4 * g + j))).sum
    deliver (.vexpd f) f w [.v (vIx f.a) (BitVec.allOnes 1024) (BitVec.ofNat 1024 vals)] 0 true s) s

/-! ### The group maximum (R146, R147) -/

/-- The largest magnitude of two, as FP32 without sign; a NaN stays (R146). -/
def maxMag (a b : BitVec 32) : BitVec 32 :=
  if isNanCode 9 a.toNat || isNanCode 9 b.toNat then 0x7FC00000 else if a.ult b then b else a

/-- M of the issuing core. -/
def ownMax (f : Fields) (x : Ctx) : BitVec 32 :=
  (x.lanes f).foldl (fun m e =>
    let v := rawVal f.ty (elemAt x.v[vIx f.b] (tyWidth f.ty) e)
    maxMag m (BitVec.ofNat 32 ((roundTo fFP32 0 0 (match v with
      | .fin _ n d => .fin false n d | .inf _ => .inf false | .zero _ => .zero false | .nan => .nan)).1))) 0

/-- The other members of the group of core k. -/
def groupOf (k : CoreId) (gs : Nat) : List CoreId :=
  ((List.range gs).map fun j => k - xOf k % gs + j).filter (· != k)

/-- VQMAX (R146, R147). -/
def execVqmax (f : Fields) (s : State) : Host.Outcome State Fault Refusal :=
  issue (.vqmax f) f never (fun s =>
    let (k, c) := s.kc
    let gs := 2 ^ f.bits 18 3
    let tag : BitVec 16 := (s.hart.opd f.c).setWidth 16
    let bad : Res := .trap 0x0C (tag.setWidth 64)
    let give := fun (m : BitVec 32) (s : State) =>
      deliver (.vqmax f) f 32
        [.v (vIx f.a) (BitVec.allOnes 1024) (BitVec.ofNat 1024 ((List.range 32).map fun e => m.toNat * 2 ^ (32 * e)).sum)] 0 true s
    if (groupOf k gs).any (fun j => !s.userCore j) || !s.userCore k then freeTrap 0x07 s
    else if gs = 1 then give (ownMax f s.me) s
    else
      let co := s.core k
      let send := fun (s : State) =>
        (groupOf k gs).foldl (fun s j =>
          let (n, s) := s.newId
          { s with vq := s.vq ++ [⟨n, k, j, tag, gs, ownMax f s.me⟩] }) s
      let put := fun (e : Exch) (s : State) => s.modCore k fun co =>
        { co with exch := e :: co.exch.filter fun x => x.tag != tag }
      match co.exch.find? fun e => e.tag == tag with
      | some e =>
        match e.owner with
        | some o =>
          if o ≠ c ∨ e.bad then bad
          else if (groupOf k gs).all fun j => e.got.any fun g => g.1 == j then
            give (e.got.foldl (fun m g => maxMag m g.2) e.own)
              ((s.modCore k fun co => { co with exch := co.exch.filter fun x => x.tag != tag }).modCtx k c fun x =>
                { x with wait := .none })
          else .hold s
        | none =>
          let joined := put { e with owner := some c, own := ownMax f s.me, bad := e.bad || e.gs != some gs } (send s)
          if e.bad || e.gs != some gs then .trap 0x0C (tag.setWidth 64) false (some joined)
          else .wait (joined.modCtx k c fun x => { x with wait := .vqmax tag })
      | none =>
        if 8 ≤ co.exch.length then .hold s
        else .wait ((put ⟨tag, some gs, some c, ownMax f s.me, [], false⟩ (send s)).modCtx k c fun x =>
          { x with wait := .vqmax tag })) s

/-- VQMAX_CONTRIBUTION (R147): it joins or allocates the entry of its tag; with none free it is refused and tried again. -/
def execVqmaxContribution (k : CoreId) (n : Nat) (s : State) : Host.Outcome State Fault Refusal :=
  .next (match s.vq.find? fun m => m.n == n && m.dst == k with
    | none => s
    | some m =>
      if (s.core k).closed then s else
      let gone := fun (s : State) => { s with vq := s.vq.filter fun x => x.n != n }
      let co := s.core k
      match co.exch.find? fun e => e.tag == m.tag with
      | some e =>
        let e' := if e.got.any (fun g => g.1 == m.src) then e
          else { e with got := e.got ++ [(m.src, m.m)], gs := some (e.gs.getD m.gs), bad := e.bad || (e.gs != none && e.gs != some m.gs) }
        gone (s.modCore k fun co => { co with exch := co.exch.map fun x => if x.tag == m.tag then e' else x })
      | none =>
        if 8 ≤ co.exch.length then s
        else gone (s.modCore k fun co =>
          { co with exch := co.exch ++ [⟨m.tag, some m.gs, none, 0, [(m.src, m.m)], false⟩] }))

end Sys2Proof.Machine
end

