-- ==== Sys2Proof/Machine/Jet.lean ====
section
/-! DEFINITION. Machine/Jet.lean: the eight instructions of the jet group (R166, R167). -/

namespace Sys2Proof.Machine

/-- A jet instruction that writes a whole group: each lane's coefficients 0 to k (R151, R153, R166). -/
def jetOp (i : Instr) (f : Fields) (rounds : Bool) (lane : State → Nat → Nat → List (Nat × Fl)) (s : State) : Res :=
  let x := s.me
  let k := x.jord.toNat
  if rounds && badRound f s then .trap 0x01 (wordHigh i)
  else
    let (ws, fl) := groupWrites k (tyWidth f.ty) f.zr (groupRegs k f.a) ((x.lanes f).map fun e => (e, lane s k e))
    deliver i f (tyWidth f.ty) ws fl true (if rounds then s.drew f else s)

/-- A jet instruction that writes one register. -/
def jetOne (i : Instr) (f : Fields) (r : Fin 32) (lane : Nat → Nat × Fl) (s : State) : Res :=
  let outs := (s.me.lanes f).map fun e => (e, lane e)
  deliver i f (tyWidth f.ty) [elemWrite r (tyWidth f.ty) f.zr (outs.map fun o => (o.1, o.2.1))]
    (orFlags 0 (outs.foldl (fun fl o => fl ||| o.2.2) 0)) true s

/-- A coefficient copied. -/
def bare (x : Nat) : Nat × Fl := (x, 0)
/-- 1.0 of a jet type. -/
def oneOf (ty : BitVec 4) : Nat := if ty == 9 then 0x3F800000 else 0x3F80
/-- n!, exact. -/
def fact : Nat → Nat
  | 0 => 1
  | n + 1 => (n + 1) * fact n

/-- JSEED (R167). -/
def execJseed (f : Fields) (s : State) : Host.Outcome State Fault Refusal :=
  issue (.jseed f) f never (jetOp (.jseed f) f false fun s k e =>
    let y1 := if f.c.isNone then oneOf f.ty else s.me.src f.ty f.c e
    (List.range (k + 1)).map fun i => bare (if i = 0 then s.me.src f.ty f.b e else if i = 1 then y1 else 0)) s

/-- JCONST (R167). -/
def execJconst (f : Fields) (s : State) : Host.Outcome State Fault Refusal :=
  issue (.jconst f) f never (jetOp (.jconst f) f false fun s k e =>
    (List.range (k + 1)).map fun i => bare (if i = 0 then s.me.src f.ty f.b e else 0)) s

/-- JGET (R167): with FACT the n-th derivative, rounded. -/
def execJget (f : Fields) (s : State) : Host.Outcome State Fault Refusal :=
  issue (.jget f) f never (fun s =>
    let x := s.me
    let k := x.jord.toNat
    let n := (s.hart.opd f.c).toNat
    if f.bit 18 then
      if badRound f s then .trap 0x01 (wordHigh (.jget f))
      else
        jetOne (.jget f) f (vIx f.a) (fun e =>
          if n ≤ k then
            let r := s.rnd f e
            let v := fvMul (fvInt (fact n)) (r.val ((x.coefs k f.ty f.b e).getD n 0))
            r.fin 0 v
          else bare 0) (s.drew f)
    else jetOne (.jget f) f (vIx f.a) (fun e => bare (if n ≤ k then (x.coefs k f.ty f.b e).getD n 0 else 0)) s) s

/-- JSET (R167): one coefficient; n > k writes nothing. -/
def execJset (f : Fields) (s : State) : Host.Outcome State Fault Refusal :=
  issue (.jset f) f never (fun s =>
    let x := s.me
    let k := x.jord.toNat
    let n := (s.hart.opd f.c).toNat
    if n ≤ k then jetOne (.jset f) f ((groupRegs k f.a).getD n 0) (fun e => bare (x.src f.ty f.b e)) s
    else deliver (.jset f) f (tyWidth f.ty) [] 0 true s) s

/-- JSHIFT (R167). -/
def execJshift (f : Fields) (s : State) : Host.Outcome State Fault Refusal :=
  issue (.jshift f) f never (jetOp (.jshift f) f false fun s k e =>
    let sh := (s.hart.opd f.c).toInt
    let b := s.me.coefs k f.ty f.b e
    (List.range (k + 1)).map fun (i : Nat) =>
      bare (if 0 ≤ (i : Int) - sh ∧ (i : Int) - sh ≤ k then b.getD ((i : Int) - sh).toNat 0 else 0)) s

/-- JTRUNC (R167). -/
def execJtrunc (f : Fields) (s : State) : Host.Outcome State Fault Refusal :=
  issue (.jtrunc f) f never (jetOp (.jtrunc f) f false fun s k e =>
    let n := (s.hart.opd f.c).toNat
    let b := s.me.coefs k f.ty f.b e
    (List.range (k + 1)).map fun i => bare (if i ≤ n then b.getD i 0 else 0)) s

/-- JDIFF (R167). -/
def execJdiff (f : Fields) (s : State) : Host.Outcome State Fault Refusal :=
  issue (.jdiff f) f never (jetOp (.jdiff f) f true fun s k e =>
    let r := s.rnd f e
    let b := s.me.coefs k f.ty f.b e
    (List.range (k + 1)).map fun (i : Nat) =>
      if i < k then r.fin i (fvMul (fvInt ((i : Int) + 1)) (r.at b (i + 1))) else bare 0) s

/-- JINT (R167). -/
def execJint (f : Fields) (s : State) : Host.Outcome State Fault Refusal :=
  issue (.jint f) f never (jetOp (.jint f) f true fun s k e =>
    let r := s.rnd f e
    let b := s.me.coefs k f.ty f.b e
    (List.range (k + 1)).map fun (i : Nat) =>
      if i = 0 then bare (if f.c.isNone then 0 else s.me.src f.ty f.c e)
      else r.fin i (fvDiv (r.at b (i - 1)) (fvInt i))) s

end Sys2Proof.Machine
end

