-- ==== Sys2Proof/Machine/Loader.lean ====
section
/-! DEFINITION. Machine/Loader.lean: signed images, handler sets and attestation (R419-R422), and the loader of code objects:
the file, its gates, placement, publication and the image cache (R404-R414). -/

namespace Sys2Proof.Machine

/-! ### The object file (R404-R406) -/

/-- The n bytes at an offset, as a number. -/
def le (o : List Byte) (a n : Nat) : Nat := leNat ((o.drop a).take n)

/-- An entry of the section table. -/
structure Sect where
  kind  : Nat
  level : Nat
  group : Nat
  name  : Nat
  foff  : Nat
  fsize : Nat
  align : Nat
  sboff : Nat
  pad   : Nat
deriving DecidableEq, Repr

structure HandRec where
  ty   : Nat
  sect : Nat
  off  : Nat
  name : Nat
  pad  : Nat
deriving DecidableEq, Repr

structure RegReq where
  name   : Nat
  lsz    : Nat
  prot   : Nat
  home   : Nat
  dfmt   : Nat
  dscale : Nat
  pad    : Nat
deriving DecidableEq, Repr

structure LaunchReq where
  ty    : Nat
  req   : Nat
  total : Nat
  pad   : Nat
deriving DecidableEq, Repr

structure Reloc where
  sect   : Nat
  kind   : Nat
  target : Nat
  off    : Nat
  index  : Nat
  addend : Int
  pad    : Nat
deriving DecidableEq, Repr

/-- A parsed object. -/
structure Obj where
  sup      : Bool
  mmrev    : Nat
  needs    : List Nat
  sects    : List Sect
  hands    : List HandRec
  regs     : List RegReq
  launches : List LaunchReq
  relocs   : List Reloc
deriving DecidableEq, Repr

def sectAt (o : List Byte) (a : Nat) : Sect :=
  { kind := le o a 1, level := le o (a + 1) 1, group := le o (a + 2) 1, name := le o (a + 4) 4, foff := le o (a + 8) 4, fsize := le o (a + 12) 4,
    align := le o (a + 16) 4, sboff := le o (a + 20) 4, pad := le o (a + 3) 1 + le o (a + 24) 8 }
def handAt (o : List Byte) (a : Nat) : HandRec := ⟨le o a 2, le o (a + 2) 2, le o (a + 4) 4, le o (a + 8) 4, le o (a + 12) 4⟩
def regAt (o : List Byte) (a : Nat) : RegReq :=
  let w := le o a 16
  let fld := fun (lo n : Nat) => w / 2 ^ lo % 2 ^ n
  { name := le o a 4, lsz := fld 32 6, prot := fld 40 4, home := fld 48 8, dfmt := fld 56 8, dscale := fld 64 8,
    pad := fld 38 2 + fld 44 4 + fld 72 56 }
def launchAt (o : List Byte) (a : Nat) : LaunchReq := ⟨le o a 2, le o (a + 2) 2, le o (a + 4) 5, le o (a + 9) 7⟩
def relocAt (o : List Byte) (a : Nat) : Reloc :=
  { sect := le o a 2, kind := le o (a + 2) 1, target := le o (a + 3) 1, off := le o (a + 4) 4, index := le o (a + 8) 4,
    addend := signExt 64 (le o (a + 12) 8), pad := le o (a + 20) 4 }

/-- The records of one kind. -/
def recs {α : Type} (f : List Byte → Nat → α) (o : List Byte) (base size n : Nat) : List α := (List.range n).map fun i => f o (base + size * i)

/-- The object as the header describes it. -/
def parseObj (o : List Byte) : Obj :=
  { sup := le o 6 2 % 2 == 1, mmrev := le o 0x0A 1, needs := (List.range 4).map fun n => le o (0x10 + 8 * n) 8,
    sects := recs sectAt o (le o 0x30 4) 32 (le o 0x34 2), hands := recs handAt o (le o 0x38 4) 16 (le o 0x36 2),
    regs := recs regAt o (le o 0x3C 4) 16 (le o 0x40 2), launches := recs launchAt o (le o 0x44 4) 16 (le o 0x42 2),
    relocs := recs relocAt o (le o 0x48 4) 24 (le o 0x4C 4) }

def isPow2 (n : Nat) : Bool := n != 0 && n == 2 ^ n.log2

/-- Gate 1 (R404-R407). -/
def wellFormedObj (o : List Byte) (x : Obj) : Bool :=
  let size := le o 0x58 4
  let fits := fun (base n : Nat) => decide (base + n ≤ size)
  decide (128 ≤ o.length) && le o 0 4 == 0x424F4E55 && le o 4 2 == 1 && le o 6 2 / 2 == 0 && le o 0x0B 1 == 0 &&
  ((o.drop 0x5C).take 36).all (· == 0) && decide (size ≤ o.length) && decide (128 ≤ size) && le o 8 1 != 0 &&
  decide (1 ≤ x.sects.length) && decide (x.sects.length ≤ 256) && decide (x.hands.length ≤ 4096) && decide (x.regs.length ≤ 64) &&
  decide (x.launches.length ≤ 64) && fits (le o 0x30 4) (32 * x.sects.length) && fits (le o 0x38 4) (16 * x.hands.length) &&
  fits (le o 0x3C 4) (16 * x.regs.length) && fits (le o 0x44 4) (16 * x.launches.length) &&
  fits (le o 0x48 4) (24 * x.relocs.length) && fits (le o 0x50 4) (le o 0x54 4) &&
  ([le o 0x0C 4] ++ x.sects.map (·.name) ++ x.hands.map (·.name) ++ x.regs.map (·.name)).all (fun n => decide (n < size)) &&
  (x.sects.all fun t => t.pad == 0 && fits t.foff t.fsize && isPow2 t.align &&
    (if t.kind = 1 then t.level != 0 && t.fsize % 12 == 0 && decide (192 ≤ t.align) && t.sboff == 0
     else t.kind == 2 && t.level == 0 && t.group == 0 && (t.sboff == 0 || fits t.sboff (2 * ((t.fsize + 63) / 64))))) &&
  (x.sects.zipIdx.all fun t => t.1.group == 0 ||
    x.sects.zipIdx.all fun u => t.2 == u.2 || t.1.group != u.1.group || t.1.level != u.1.level) &&
  (x.hands.all fun h => h.pad == 0 && decide (h.sect < x.sects.length) && h.off % 12 == 0) &&
  (x.regs.all fun r => r.pad == 0 && decide (21 ≤ r.lsz) && decide (r.lsz ≤ 52) && r.prot != 6 && r.prot != 7 &&
    (decide (r.home ≤ 0x0C) || r.home == 0xFF) && (decide (r.dfmt ≤ 0x0A) || r.dfmt == 0xFF)) &&
  (x.launches.all fun l => l.pad == 0 && decide (l.req < x.regs.length) && l.total != 0) &&
  (x.relocs.all fun r => r.pad == 0 && decide (r.sect < x.sects.length) && decide (1 ≤ r.kind) && decide (r.kind ≤ 8) &&
    (if r.target = 0 then decide (r.index < x.sects.length) else r.target == 1 && decide (r.index < x.regs.length)))

/-! ### Gates (R407, R408) -/

/-- Gate 4: the needed features, implied bits included, are accepted. -/
def needsMet (facc : Vector W64 4) (x : Obj) : Bool :=
  let need (b : Nat) : Nat := 2 ^ b
  let implied : Nat := (if x.regs.any fun r => decide (8 ≤ r.prot) then need 4 else 0) |||
    (if x.regs.any fun r => decide (8 ≤ r.home) && decide (r.home ≤ 0xB) then need 5 else 0) |||
    (if x.regs.any fun r => r.home == 0xC then need 6 else 0) ||| (if x.mmrev = 1 then need 8 else 0)
  (List.range 4).all fun w =>
    let n := x.needs.getD w 0 ||| (if w = 0 then implied else 0)
    n &&& (facc[w]?.getD 0).toNat == n

/-- Section selection (R408): the indexes kept, or none where a group has no section or group 0 one above level 2. -/
def selectSects (x : Obj) : Option (List Nat) :=
  let ix := x.sects.zipIdx
  let fits := fun (e : Sect × Nat) => decide (e.1.level ≤ 2)
  let groups := (ix.map (·.1.group)).eraseDups.filter (· != 0)
  let best := groups.map fun g => (ix.filter fun e => e.1.group == g && fits e).foldl
    (fun (b : Option (Sect × Nat)) e => match b with | some f => if f.1.level < e.1.level then some e else b | none => some e) none
  if (ix.any fun e => e.1.group == 0 && !fits e) || best.any Option.isNone then none
  else some ((ix.filter fun e => e.1.group == 0 || best.any fun b => match b with | some f => f.2 == e.2 | none => false).map (·.2))

/-- A type that an object may name: one of the 4,096, of 0xF00 or above only with SUP = 1. -/
def Obj.mayName (x : Obj) (ty : Nat) : Bool := decide (ty < 0xF00) || (x.sup && decide (ty < 4096))

/-- Gate 6: each type bound once, supervisor types, those of launches among them, only with SUP, offsets inside their sections. -/
def handlersOk (x : Obj) (kept : List Nat) : Bool :=
  let hs := x.hands.filter fun h => kept.contains h.sect
  (hs.map (·.ty)).Nodup && (x.launches.all fun l => x.mayName l.ty) &&
  hs.all fun h => x.mayName h.ty && (match x.sects[h.sect]? with | some t => decide (h.off < t.fsize) | none => false)

/-! ### Relocation (R59) -/

/-- A field of n bytes replaced. -/
def patch (bs : List Byte) (a : Nat) (new : List Byte) : List Byte := bs.take a ++ new ++ bs.drop (a + new.length)

/-- A signed value fits a field of w bits. -/
def fitsS (w : Nat) (v : Int) : Bool := decide (-(2 ^ (w - 1) : Nat) ≤ v) && decide (v < (2 ^ (w - 1) : Nat))

/-- One relocation of section bytes, P being the address of the section's first byte; none where its check fails. -/
def relocate (bs : List Byte) (base : Nat) (r : Reloc) (sv : Nat) : Option (List Byte) :=
  let v : Int := sv + r.addend
  let p : Int := base + r.off
  let put := fun (n : Nat) (v : Int) => some (patch bs r.off (leBytes n (wrap (8 * n) v)))
  let q : Int := (v - p) / 12
  -- the 16-bit immediate of `send` and `sendr` is zero-extended (R267), any other sign-extended (R41)
  let op := leNat ((bs.drop (r.off + 8)).take 4) / 2 ^ 22
  let zext := op == 0x180 || op == 0x181
  if bs.length < r.off + (if r.kind = 1 then 8 else if r.kind = 2 then 4 else 12) then none
  else match r.kind with
  | 1 => put 8 v
  | 2 => if fitsS 32 v || (decide (0 ≤ v) && decide (v < 2 ^ 32)) then put 4 v else none
  | 3 => put 4 v
  | 4 => put 4 (wrap 64 v / 2 ^ 32 : Nat)
  | 5 => if fitsS 24 v then put 3 v else none
  | 6 => if (if zext then decide (0 ≤ v) && decide (v < 2 ^ 16) else fitsS 16 v) then put 2 v else none
  | 7 => if (v - p) % 12 = 0 && fitsS 32 q then put 4 q else none
  | _ => if (v - p) % 12 = 0 && fitsS 16 q then put 2 q else none

/-! ### Memory as the loader sees it (R411, R412) -/

/-- A block as it stands at the last: in the L2 of a die that has written it, or at home. -/
def State.latest (s : State) (blk : Nat) : Buf :=
  match s.dies.find? fun e => match e.2.l2.lookup blk with | some c => c.dirty | none => false with
  | some e => s.dieBuf e.1 blk
  | none => s.homeBuf blk

/-- The n bytes from a physical address on. -/
def State.view (s : State) (a n : Nat) : List Byte :=
  (List.range n).map fun i => (s.latest ((a + i) / 64)).data.extractLsb' (8 * ((a + i) % 64)) 8

/-- Bytes as the loader's stores and its `phase.pkg` leave them: at home, in their region's initial state, and in no L2 as they were
before (R412). -/
def State.supply (s : State) (a : Nat) (bs : List Byte) : State :=
  let has := fun (blk : Nat) => decide (a / 64 ≤ blk) && decide (blk * 64 < a + bs.length)
  let written := (s.dies.flatMap fun e => (e.2.l2.filter fun c => has c.1 && c.2.dirty).map (·.1)).eraseDups
  let s := written.foldl (fun (s : State) b => let x := s.latest b; s.putHome b (BitVec.allOnes 64) x.data (some x.desc)) s
  let s := { s with
    dies := s.dies.map fun (e : Nat × Die) => (e.1, { e.2 with l2 := e.2.l2.filter fun c => !has c.1 }),
    side := s.side.map fun (e : Nat × Side) => if has e.1 then (e.1, { e.2 with tag := none }) else e }
  let fars := s.pkgs.flatMap fun e => e.2.far.map fun x => e.1 + 64 * x.1
  (fars.foldl (fun (s : State) f => s.clearDir f fun pa => has (pa / 64)) s).poke a bs

/-! ### What is in use (R407, R411) -/

/-- A stretch of memory in use: the virtual address it stands behind, 2^57 where none, its physical address, its size. -/
structure Stretch where
  va   : Nat
  pa   : Nat
  size : Nat
deriving DecidableEq, Repr

/-- The tables and the pages of a translation, from a level on. -/
def State.mapped (s : State) : List (Nat × Nat) → Nat → Nat → List Stretch
  | [], _, _ => []
  | (lo, n) :: t, va, base =>
    ⟨2 ^ 57, base, 8 * 2 ^ n⟩ :: (List.range (2 ^ n)).flatMap fun i =>
      let e := leNat (s.view (base + 8 * i) 8)
      if e % 2 = 0 then []
      else if e / 2 % 2 = 1 then [⟨va + i * 2 ^ lo, e / 2 ^ 16 % 2 ^ 42 * 2 ^ 16, 2 ^ lo⟩]
      else s.mapped t (va + i * 2 ^ lo) (e / 4096 % 2 ^ 46 * 4096)

/-- The tables and the pages of the translations of a package's dies. -/
def State.translations (s : State) (p : PkgId) : List Stretch :=
  (List.range 8).flatMap fun n =>
    let root := (s.die (p * 8 + n)).root.toNat
    if root % 2 = 0 then [] else s.mapped walkLevels 0 (root / 2 ^ 14 * 2 ^ 14)

/-- The physical memory of a package that the loader must leave alone: what is mapped, its own pages, the region entries granted to
objects, the tables, the directories, the controller pages and the save areas. -/
def State.usedMem (s : State) (p : PkgId) : List (Nat × Nat) :=
  let x := s.pkg p
  ((s.translations p).map fun e => (e.pa, e.size)) ++ (x.pages.map fun e => (e.pa, 65536)) ++
  (x.granted.map fun i => let r := s.region p i; (r.base, 2 ^ r.lsz)) ++ [(x.htabBase, 32768), (x.rankBase, 4 * x.rankLen)] ++
  (x.far.map fun e => (e.2.slotAt 0, 2 ^ 17 * e.2.fdirn.toNat)) ++
  (List.range 8).flatMap fun n =>
    let d := p * 8 + n
    [(ctlBlk d * 64, 4096), ((s.die d).save.toNat, if (s.die d).save = 0 then 0 else 0xA0000000)]

/-- The virtual space that other objects use. -/
def Pkg.usedSpace (x : Pkg) (key : BitVec 512) : List (Nat × Nat) :=
  ((x.ranges.filter fun r => r.key != key).map fun r => (r.base, 2 ^ r.lsz)) ++
  (x.pages.filter fun e => e.key != key && decide (e.va < 2 ^ 57)).map fun e => (e.va, 65536)

/-- The virtual space in use, whatever maps it. -/
def State.usedVirtual (s : State) (p : PkgId) : List (Nat × Nat) :=
  ((s.pkg p).ranges.map fun r => (r.base, 2 ^ r.lsz)) ++
  ((s.translations p).filter fun e => decide (e.va < 2 ^ 57)).map fun e => (e.va, e.size)

/-- A stretch of addresses meets none of `used` (each a base and a size). -/
def apart (used : List (Nat × Nat)) (base size : Nat) : Bool :=
  used.all fun r => decide (base + size ≤ r.1) || decide (r.1 + r.2 ≤ base)

/-- The n-th number the loader chooses. -/
def pick (seed n : Nat) : Nat := Config.placement (seed + n)

/-- Where a stretch of `size` bytes may go between lo and hi, at a multiple of `align`: a place of the loader's choice (log 13), or else
the first place after lo or after a stretch in use. -/
def freePlace (used : List (Nat × Nat)) (lo hi size align seed : Nat) : Option Nat :=
  let up := fun (a : Nat) => (a + align - 1) / align * align
  let choice := up lo + seed % ((hi - up lo) / align + 1) * align
  (choice :: up lo :: used.map fun r => up (r.1 + r.2)).find? fun a =>
    decide (lo ≤ a) && decide (a + size ≤ hi) && apart used a size

/-! ### Placement (R411) -/

/-- The regions that pages of objects come from: device-owned HBM4 of the package under a protocol that lets every die read and write,
and granted to no object. -/
def State.pageRegions (s : State) (p : PkgId) : List Region :=
  ((s.pkg p).regions.filter fun e => e.2.v && !e.2.own && decide (e.2.home < 8) && homePkg e.2.base == p && decide (e.2.prot.toNat < 3) &&
    !(s.pkg p).granted.contains e.1).map (·.2)

/-- A page that nothing uses, in such a region; it now lies in the range at `va`. None where there is no such page. -/
def State.takePage (s : State) (p : PkgId) (key : BitVec 512) (va : Nat) : Option (Nat × State) :=
  let used := s.usedMem p
  ((s.pageRegions p).findSome? fun r => freePlace used r.base (r.base + 2 ^ r.lsz) 65536 65536 (pick s.fresh 0)).map fun page =>
    (page, State.modPkg { s with fresh := s.fresh + 1 } p fun x => { x with pages := x.pages ++ [⟨page, va, key⟩] })

/-- The page-table levels below the root, with a new table where one is missing. -/
def mapFrom (s : State) (p : PkgId) (key : BitVec 512) (va leaf : Nat) : List (Nat × Nat) → Nat → Option State
  | [], _ => some s
  | [(lo, n)], base => some (s.supply (base + va / 2 ^ lo % 2 ^ n * 8) (leBytes 8 leaf))
  | (lo, n) :: t, base =>
    let at' := base + va / 2 ^ lo % 2 ^ n * 8
    let e := leNat (s.view at' 8)
    if e % 4 = 1 then mapFrom s p key va leaf t (e / 4096 % 2 ^ 46 * 4096)
    else (s.takePage p key (2 ^ 57)).bind fun r =>
      mapFrom ((r.2.supply at' (leBytes 8 (r.1 + 1))).supply r.1 (List.replicate 8192 0)) p key va leaf t r.1

/-- One 64 KiB page mapped under the roots of every die of the package, with W, X and U as given. -/
def State.mapPage (s : State) (p : PkgId) (key : BitVec 512) (va pa : Nat) (w x u : Bool) : Option State :=
  let flags := 3 + (if w then 4 else 0) + (if x then 8 else 0) + (if u then 16 else 0)
  (List.range 8).foldl (fun (o : Option State) n => o.bind fun s =>
    let root := (s.die (p * 8 + n)).root.toNat
    if root % 2 = 0 then some s else mapFrom s p key va (pa + flags) walkLevels (root / 2 ^ 14 * 2 ^ 14)) (some s)

/-- The page behind a virtual page of an object: the one it has there already, or a free one, mapped. -/
def State.pageFor (s : State) (p : PkgId) (key : BitVec 512) (va : Nat) (w x u : Bool) : Option (Nat × State) :=
  match (s.pkg p).pages.find? fun e => e.va == va && e.key == key with
  | some e => some (e.pa, s)
  | none => (s.takePage p key va).bind fun r => (r.2.mapPage p key va r.1 w x u).map fun s => (r.1, s)

/-- A section of a bound object at its place: its pages, filled with its bytes and block descriptions (R411). -/
def State.placeSect (s : State) (p : PkgId) (key : BitVec 512) (sup : Bool) (t : BoundSect) : Option State :=
  let first := t.va / 65536
  (List.range ((t.va + t.bytes.length + 65535) / 65536 - first)).foldl (fun (o : Option State) i => o.bind fun s =>
    let page := (first + i) * 65536
    let lo := max t.va page
    let chunk := (t.bytes.drop (lo - t.va)).take (page + 65536 - lo)
    (s.pageFor p key page (!t.code) t.code (!sup)).map fun r =>
      let pa := r.1 + (lo - page)
      (List.range ((chunk.length + 63) / 64)).foldl (fun (s : State) b =>
        s.setHomeDesc (pa / 64 + b) (t.descs.getD ((lo - t.va) / 64 + b) {})) (r.2.supply pa chunk)) (some s)

/-- What a code section's address is a multiple of: its ALIGN and a bundle (R38). -/
def Sect.step (t : Sect) : Nat := Nat.lcm t.align 192

/-- The kept sections with their indexes. -/
def Obj.kept (x : Obj) (kept : List Nat) : List (Sect × Nat) := x.sects.zipIdx.filter fun e => kept.contains e.2

/-- The code range that the kept code sections need, as the logarithm of its size. -/
def Obj.codeLsz (x : Obj) (kept : List Nat) : Nat :=
  max 16 (Nat.log2 (2 * ((x.kept kept).map fun e => if e.1.kind = 1 then e.1.fsize + e.1.step else 0).sum))

/-- Where each kept section goes: code sections one after another in the code range, each data section in a range of its own; none where
the virtual space has no room (log 13). -/
def placeSects (x : Obj) (kept : List Nat) (used : List (Nat × Nat)) (seed : Nat) : Option (Nat × List (Nat × Nat)) :=
  let size := 2 ^ x.codeLsz kept
  (freePlace used 0 (2 ^ 57) size size (pick seed 200)).bind fun base =>
    ((x.kept kept).foldl (fun (r : Option (List (Nat × Nat) × Nat × List (Nat × Nat))) e => r.bind fun r =>
      if e.1.kind = 1 then
        let at' := (r.2.1 + e.1.step - 1) / e.1.step * e.1.step
        some (r.1 ++ [(e.2, at')], at' + e.1.fsize, r.2.2)
      else
        let n := (e.1.fsize + 65535) / 65536 * 65536
        (freePlace r.2.2 0 (2 ^ 57) n (max 65536 e.1.align) (pick seed (300 + e.2))).map fun a =>
          (r.1 ++ [(e.2, a)], r.2.1, r.2.2 ++ [(a, n)])) (some ([], base, used ++ [(base, size)]))).map fun r => (base, r.1)

/-! ### Regions (R411) -/

/-- The packages that a user object's job spans, p among them; a supervisor object is the groom's, of its package alone (log 95). -/
def State.jobPkgs (s : State) (p : PkgId) (sup : Bool) : List PkgId :=
  if sup then [p]
  else p :: ((s.cores.filter fun e => e.2.memb.getLsbD 4).map fun e => pkgOf e.1).eraseDups.filter (· != p)

/-- The addresses of package p that a HOME code names (R190). -/
def homeSpan (p : PkgId) (home : Nat) : Nat × Nat :=
  let lo := p * 2 ^ 52 + (if home < 8 then home * 0x1E00000000 else if home < 0xC then (home - 7) * 2 ^ 44 else 2 ^ 47)
  (lo, lo + (if home < 8 then 0x1E00000000 else if home < 0xC then 2 ^ 44 else 2 ^ 47))

/-- The region entry of a request (R411), at a place within its home that no other entry and nothing of the loader's uses; with HOME
0xFF the die is the loader's choice. -/
def RegReq.region (r : RegReq) (p : PkgId) (used : List (Nat × Nat)) (seed : Nat) : Option Region :=
  let homes := if r.home = 0xFF then (List.range 8).map fun i => (pick seed 0 + i) % 8 else [r.home]
  homes.findSome? fun home =>
    let span := homeSpan p home
    (freePlace used span.1 span.2 (2 ^ r.lsz) (2 ^ r.lsz) (pick seed 1)).map fun base =>
      { w0 := BitVec.ofNat 64 (1 + r.lsz * 2 + base / 2 ^ 21 * 2 ^ 21),
        w1 := BitVec.ofNat 64 (r.prot + r.prot * 2 ^ 4 + r.dfmt * 2 ^ 12 + r.dscale * 2 ^ 20 + home * 2 ^ 28 + 4096 * 2 ^ 32), w2 := 0 }

/-- The packages of a job that hold an entry: a CXL or host home is its own package's alone (R304). -/
def Region.holders (g : Region) (p : PkgId) (ps : List PkgId) : List PkgId := if g.home < 8 then ps else [p]

/-- One region entry put at the lowest index that is free in every package of the job, with the effects of `rtset` (R304, R411); none
where it cannot be. -/
def State.grantOne (s : State) (p : PkgId) (ps : List PkgId) (g : Region) : Option ((Nat × Region) × State) :=
  ((List.range 4096).find? fun i => ps.all fun q => !(s.region q i).v).bind fun i =>
    if g.illegal || (g.holders p ps).any fun q => s.regionBad q i g then none
    else some ((i, g), (g.holders p ps).foldl (fun (s : State) q =>
      ((s.setRegion q i g).keepTags q g).modPkg q fun x => { x with granted := i :: x.granted.filter (· != i) }) s)

/-- The region entries of an image entered again: one that still stands where it was granted stays (R413). -/
def State.grantAgain (s : State) (p : PkgId) (ps : List PkgId) : List Region → Option (List (Nat × Region) × State)
  | [] => some ([], s)
  | g :: t =>
    let one := match (s.pkg p).granted.find? fun i => s.region p i == g with
      | some i => some ((i, g), s)
      | none => s.grantOne p ps g
    one.bind fun r => (r.2.grantAgain p ps t).map fun q => (r.1 :: q.1, q.2)

/-- Every region request granted (gate 7); none where one cannot be. -/
def State.grant (s : State) (p : PkgId) (ps : List PkgId) (seed : Nat) : List RegReq → Option (List (Nat × Region) × State)
  | [] => some ([], s)
  | r :: t =>
    let valid := ps.flatMap fun q => ((s.pkg q).regions.filter fun e => e.2.v).map fun e => (e.2.base, 2 ^ e.2.lsz)
    (r.region p (valid ++ s.usedMem p) seed).bind fun g =>
      (s.grantOne p ps g).bind fun r => (r.2.grant p ps (seed + 2) t).map fun q => (r.1 :: q.1, q.2)

/-! ### Binding (R409, R411, R413) -/

/-- Every launch window lies within one page (R407, R409). -/
def launchesFit (x : Obj) (regs : List Region) : Bool :=
  x.launches.all fun l => match regs[l.req]? with
    | some g => decide ((l.total + 127) / 128 * 128 ≤ min (2 ^ 26) (2 ^ g.lsz))
    | none => false

/-- The bytes of a section after its relocations; none where a check fails (gate 8). -/
def linkSect (o : List Byte) (x : Obj) (kept : List Nat) (at' : List (Nat × Nat)) (regs : List Region) (n : Nat) :
    Option (List Byte) :=
  match x.sects[n]? with
  | none => none
  | some t =>
    (x.relocs.filter fun r => r.sect == n).foldl (fun (b : Option (List Byte)) r =>
      b.bind fun bs =>
        let sv := if r.target = 0 then (if kept.contains r.index then at'.lookup r.index else none)
          else (regs[r.index]?).map Region.base
        sv.bind fun v => relocate bs ((at'.lookup n).getD 0) r v) (some ((o.drop t.foff).take t.fsize))

/-- The sideband records of a data section (R405). -/
def Sect.descs (t : Sect) (o : List Byte) : List Desc :=
  if t.kind = 1 ∨ t.sboff = 0 then []
  else (List.range ((t.fsize + 63) / 64)).map fun j => ⟨o.getD (t.sboff + 2 * j) 0, o.getD (t.sboff + 2 * j + 1) 0⟩

/-- The word of the handler table that binds a type (R299, R409). -/
def handWord (entry mmrev : Nat) : W64 := BitVec.ofNat 64 (entry + 2 ^ 57 + mmrev * 2 ^ 58)

/-- An object bound at the places given: its sections relocated, its handlers at their addresses; none where a relocation fails. Nothing
in it names a core: ranks count from the job's origin (R413). -/
def Obj.bound (x : Obj) (o : List Byte) (kept : List Nat) (base : Nat) (at' : List (Nat × Nat)) (regs : List Region) : Option Bound :=
  let va := fun (n : Nat) => (at'.lookup n).getD 0
  let sects := kept.map fun n => (linkSect o x kept at' regs n).bind fun bs => (x.sects[n]?).map fun t =>
    ({ va := va n, code := t.kind == 1, bytes := bs, descs := t.descs o } : BoundSect)
  if sects.any Option.isNone then none
  else some
    { base := base, lsz := x.codeLsz kept, sup := x.sup, sects := sects.filterMap id, regs := regs,
      hands := (x.hands.filter fun h => kept.contains h.sect).map fun h => (h.ty, handWord (va h.sect + h.off) x.mmrev),
      launches := x.launches.map fun l => ⟨l.ty, l.req, l.total, 0⟩ }

/-! ### The image store (R413, R414) -/

/-- The key of an object. -/
def State.imageKey (s : State) (p : PkgId) (o : List Byte) : BitVec 512 :=
  let x := s.pkg p
  Config.sha512 (o ++ [0xB1] ++ (x.facc.toList.flatMap fun w => leBytes 8 w.toNat) ++ leBytes 8 (Config.groomVersion x.groom))

/-- The bytes of an image in the store (R414), whose order R413 leaves open (log 13). -/
def Bound.bytes (b : Bound) : List Byte :=
  leBytes 8 b.base ++ leBytes 8 b.lsz ++ [if b.sup then 1 else 0] ++
  (b.sects.flatMap fun t => leBytes 8 t.va ++ leBytes 8 t.bytes.length ++ [if t.code then 1 else 2] ++ t.bytes ++
    t.descs.flatMap fun d => [d.fmt, d.scale]) ++
  (b.regs.flatMap fun r => leBytes 8 r.w0.toNat ++ leBytes 8 r.w1.toNat ++ leBytes 8 r.w2.toNat) ++
  (b.hands.flatMap fun h => leBytes 2 h.1 ++ leBytes 8 h.2.toNat) ++
  b.launches.flatMap fun l => leBytes 2 l.ty ++ leBytes 2 l.req ++ leBytes 5 l.total ++ leBytes 4 l.rank

/-- The image is what was written. -/
def Image.intact (i : Image) : Bool := Config.sha512 i.body.bytes == i.hash

/-- Erase blocks an image may take: not reserved, not retired, in no other image; those with the fewest erases first. -/
def Flash.freeBlocks (f : Flash) : List Nat :=
  ((List.range 65536).filter fun b => decide (Config.flashReserved ≤ b) && decide (fmGet 0 f.erases b < 10000) &&
    !(f.images.any fun i => i.blocks.contains b)).mergeSort fun a b => decide (fmGet 0 f.erases a ≤ fmGet 0 f.erases b)

/-- An image is erased, with one erase more for each of its blocks. -/
def Flash.erase (f : Flash) (i : Image) : Flash :=
  { f with images := f.images.erase i, erases := i.blocks.foldl (fun e b => fmSet e b (fmGet 0 e b + 1)) f.erases }

/-- Images are evicted, least recently instantiated first, until n blocks are free or none is left. -/
def Flash.evict (n : Nat) : Nat → Flash → Flash
  | 0, f => f
  | k + 1, f =>
    if n ≤ f.freeBlocks.length then f
    else match f.images.mergeSort (fun a b => decide (a.used ≤ b.used)) with
      | [] => f
      | i :: _ => Flash.evict n k (f.erase i)

/-- An image is written; whether its directory record has been is `done`. -/
def Flash.keep (f : Flash) (key : BitVec 512) (body : Bound) (done : Bool) : Flash :=
  let n := (body.bytes.length + 2 ^ 20 - 1) / 2 ^ 20
  let f := Flash.evict n f.images.length f
  let blocks := f.freeBlocks.take n
  if blocks.length < n then f
  else
    { f with
      clock := f.clock + 1,
      images := f.images ++
        [{ key := key, body := body, hash := Config.sha512 body.bytes, blocks := blocks, used := f.clock, committed := done }] }

/-- The image is instantiated: it is the last to be evicted. -/
def Flash.touch (f : Flash) (key : BitVec 512) : Flash :=
  { f with clock := f.clock + 1, images := f.images.map fun i => if i.key = key then { i with used := f.clock } else i }

/-- The bound image of a key. One whose bytes do not match its hash is erased, and the object is loaded afresh (R414). -/
def State.findImage (s : State) (p : PkgId) (key : BitVec 512) : Option Bound × State :=
  match (s.pkg p).flash.images.find? fun i => i.key == key && i.committed with
  | none => (none, s)
  | some i =>
    if i.intact then (some i.body, s) else (none, s.modPkg p fun x => { x with flash := x.flash.erase i })

/-! ### Loading (R407, R411, R412) -/

/-- The places of a bound object are free, or its own from a load before (gate 9). -/
def State.roomFor (s : State) (p : PkgId) (key : BitVec 512) (b : Bound) : Bool :=
  let used := (s.pkg p).usedSpace key
  apart used b.base (2 ^ b.lsz) && (b.sects.all fun t => t.code || apart used t.va t.bytes.length) && (s.pkg p).genFree.isSome &&
  decide (b.lsz ≤ 56)

/-- The launch counters (R411), on the regions granted. One that an earlier load of the object armed and that is armed still stays;
none where no counter is free or the window meets an armed one (R364). -/
def State.armLaunch (s : State) (p : PkgId) (sup : Bool) (regs : List (Nat × Region)) (l : BoundLaunch) : Option State :=
  match regs[l.req]? with
  | none => none
  | some g =>
    let pa := g.2.base
    let lines := (l.total + 127) / 128
    let mine := s.dies.flatMap fun e => if e.1 / 8 = homePkg pa then e.2.gctrs.map (·.2) else []
    let a : Arr :=
      { armed := true, act := 1, alloc := true, nlm1 := BitVec.ofNat 24 (lines - 1), base := pa, total := l.total,
        rank := BitVec.ofNat 32 l.rank, ty := BitVec.ofNat 12 l.ty, owner := if sup then .core (dieServer (p * 8)) else .job p }
    if mine.contains a then some s
    else if mine.any fun c => c.meets pa (lines * 128) then none
    else (s.freeCtr (p * 2 ^ 16) (some pa)).map fun h => s.arm h a

/-- A bound object stored in a package (R412 step 1): its code range and every section; none where a page is missing. -/
def State.storeBound (s : State) (p : PkgId) (key : BitVec 512) (b : Bound) : Option State :=
  let s := s.modPkg p fun x =>
    { x with ranges := (x.ranges.filter fun r => r.key != key || r.base != b.base) ++ [⟨b.base, b.lsz, b.sup, key⟩] }
  b.sects.foldl (fun (o : Option State) t => o.bind fun s => s.placeSect p key b.sup t) (some s)

/-- The handlers of a bound object in a package (R412 step 3). -/
def State.bindAll (s : State) (p : PkgId) (b : Bound) : State := b.hands.foldl (fun (s : State) h => s.setHandler p h.1 h.2) s

/-- Placements published, each in its package with its key, in the order of R412; none where something is missing (gate 9). -/
def State.publish (s : State) (p : PkgId) (regs : List (Nat × Region)) (places : List (PkgId × BitVec 512 × Bound)) : Option State :=
  if places.any fun e => !s.roomFor e.1 e.2.1 e.2.2 then none
  else
    let stored := places.foldl (fun (o : Option State) e => o.bind fun s => s.storeBound e.1 e.2.1 e.2.2) (some s)
    let launches := match places with | e :: _ => e.2.2.launches.map fun l => (e.2.2.sup, l) | [] => []
    let armed := launches.foldl (fun (o : Option State) l => o.bind fun s => s.armLaunch p l.1 regs l.2) stored
    armed.map fun s => places.foldl (fun s e => s.bindAll e.1 e.2.2) s

/-- The placement of an object in one package of its job: that of the package's image, where it has the regions granted, or a new one
(R411: each package has its own). The error is a status of R407. -/
def State.placement (s : State) (p : PkgId) (o : List Byte) (x : Obj) (kept : List Nat) (regs : List Region) :
    Except Byte (BitVec 512 × Bound × Bool) :=
  let key := s.imageKey p o
  match (s.findImage p key).1 with
  | some b => if b.regs = regs then .ok (key, b, true) else .error 0x08
  | none =>
    let plan := placeSects x kept (s.usedVirtual p) s.fresh
    match x.bound o kept ((plan.map (·.1)).getD 0) ((plan.map (·.2)).getD []) regs with
    | none => .error 0x06
    | some b => if plan.isNone then .error 0x08 else .ok (key, b, false)

/-- The placements in every package of a job. -/
def State.placements (s : State) (o : List Byte) (x : Obj) (kept : List Nat) (regs : List Region) :
    List PkgId → Except Byte (List (PkgId × BitVec 512 × Bound × Bool))
  | [] => .ok []
  | p :: t =>
    match s.placement p o x kept regs, s.placements o x kept regs t with
    | .ok b, .ok l => .ok ((p, b) :: l)
    | .error e, _ => .error e
    | _, .error e => .error e

/-- The end of a load: the placements published, and each kept as a bound image or, from an image, touched (R412-R414). -/
def State.finishLoad (s : State) (p : PkgId) (regs : List (Nat × Region)) (places : List (PkgId × BitVec 512 × Bound × Bool)) :
    Option State :=
  (s.publish p regs (places.map fun e => (e.1, e.2.1, e.2.2.1))).map fun s =>
    let (l, s) := s.popLag
    places.foldl (fun (s : State) e => s.modPkg e.1 fun x =>
      { x with flash := if e.2.2.2 then x.flash.touch e.2.1 else x.flash.keep e.2.1 e.2.2.1 (l == 0) }) s

/-- Gates 5 to 9 of an object, and its load (R407, R408, R411). -/
def State.loadAfresh (s : State) (p : PkgId) (o : List Byte) (x : Obj) : Byte × State :=
  let ps := s.jobPkgs p x.sup
  match selectSects x with
  | none => (0x02, s)
  | some kept =>
    if !handlersOk x kept then (0x05, s)
    else match { s with fresh := s.fresh + 8192 }.grant p ps (s.fresh + 4096) x.regs with
      | none => (0x07, s)
      | some (regs, s1) =>
        if !launchesFit x (regs.map (·.2)) then (0x07, s)
        else match s1.placements o x kept (regs.map (·.2)) ps with
          | .error st => (st, s)
          | .ok places =>
            match s1.finishLoad p regs places with
            | none => (0x08, s)
            | some s => (0x00, s)

/-- Gate 9 of an object that has a bound image, and its load from it (R413): in the other packages of the job from their images, or
bound afresh to the same regions. -/
def State.loadImage (s : State) (p : PkgId) (o : List Byte) (x : Obj) (b : Bound) : Byte × State :=
  let ps := s.jobPkgs p x.sup
  match s.grantAgain p ps b.regs with
  | none => (0x08, s)
  | some (regs, s1) =>
    match s1.placements o x ((selectSects x).getD []) b.regs ps with
    | .error st => (st, s)
    | .ok places =>
      match s1.finishLoad p regs places with
      | none => (0x08, s)
      | some s => (0x00, s)

/-- The outcome of a load: status, whether it came from a bound image, and the state. A stored image skips gates 5 to 8. -/
def State.load (s : State) (p : PkgId) (o : List Byte) (groomer : Bool) : Byte × Bool × State :=
  let x := parseObj o
  let pk := s.pkg p
  if !wellFormedObj o x then (0x01, false, s)
  else if x.sup && !groomer then (0x01, false, s)
  else if x.mmrev ≠ 2 ∧ ¬ (x.mmrev = 1 ∧ pk.facc[0].getLsbD 8) then (0x03, false, s)
  else if !needsMet pk.facc x then (0x04, false, s)
  else
    let o := o.take (le o 0x58 4)
    match s.findImage p (s.imageKey p o) with
    | (some b, s) => let r := s.loadImage p o x b; (r.1, true, r.2)
    | (none, s) => let r := s.loadAfresh p o x; (r.1, false, r.2)

/-! ### The mailbox (R421) -/

/-- The buffer's first LEN bytes. -/
def Pkg.mail (x : Pkg) : List Byte := memRead x.mbBuf 0 (min x.mbLen.toNat 0x7F000)

/-- A command completes: BUSY falls, the reply is set and vector 0 fires. -/
def State.mailDone (s : State) (p : PkgId) (reply : BitVec 16) : State :=
  (s.modPkg p fun x => { x with mbCmd := none, mbReply := reply }).platEvent p 0 0

/-- A command is in progress. -/
def State.mailIs (s : State) (p : PkgId) (c : Byte) : Bool := (s.pkg p).mbCmd == some c

/-- The status of an image: key, signature, rollback, or none (R418, R421). -/
def State.imageStatus (s : State) (p : PkgId) (img : List Byte) (svn : Bool) : Byte :=
  if Config.sha512 (Config.imageKey img) ≠ Config.fusedKey then 0x02
  else if !Config.verify img then 0x03
  else if svn && decide (Config.imageSvn img < (s.pkg p).fsvn.toNat) then 0x04
  else 0x00

/-- A measurement register extended (R420). -/
def State.extend (s : State) (p : PkgId) (i : Fin 8) (img : List Byte) : State :=
  s.modPkg p fun x =>
    let old := leBytes 64 x.meas[i].toNat
    { x with meas := x.meas.set i.val (Config.sha512 (old ++ leBytes 64 (Config.sha512 img).toNat)) }

/-- UPLOAD_FIRMWARE (R421). -/
def execUploadFirmware (p : PkgId) (s : State) : Host.Outcome State Fault Refusal :=
  .next (
    if !s.mailIs p 0x01 then s
    else
      let img := (s.pkg p).mail
      let st := s.imageStatus p img true
      let s := if st = 0 then s.modPkg p fun x => { x with flash := { x.flash with pending := some img } } else s
      s.mailDone p (st.setWidth 16))

/-- The places in handler memory where a set of n bytes lies beside the other sets, its last instruction no further than 0xFFF0 (R317,
R322). They are multiples of 4, not of 12 alone: R441 places a set at 0x8000 (log 100). -/
def Farrier.room (x : Farrier) (hset n : Nat) : List Nat :=
  ((List.range 16384).map (4 * ·)).filter fun a => decide (a + n ≤ 0xFFFC) &&
    x.sets.all fun e => e.1 == hset || decide (a + n ≤ e.2.start) || decide (e.2.start + e.2.size ≤ a)

/-- The code sections of a set one after another, from an address on: each section's index and address, and the end. -/
def setPlaces (x : Obj) (base : Nat) : List (Nat × Nat) × Nat :=
  (x.sects.zipIdx.filter fun e => e.1.kind == 1).foldl (fun (r : List (Nat × Nat) × Nat) e =>
    (r.1 ++ [(e.2, r.2)], r.2 + e.1.fsize)) ([], base)

/-- A handler set written into every farrier between dispatches, its running handlers keeping the old code, and INIT queued
(R322, R442). -/
def State.loadSet (s : State) (p : PkgId) (hset : Nat) (img : List Byte) (base : Nat) : State :=
  let o := Config.imageObject img
  let x := parseObj o
  let bytes := (x.sects.filter fun t => t.kind == 1).flatMap fun t => (o.drop t.foff).take t.fsize
  let places := (setPlaces x base).1
  let set : FSet :=
    { entries := x.hands.foldl (fun e h => fmSet e h.ty ((places.lookup h.sect).getD base + h.off)) [],
      inittag := BitVec.ofNat 2 ((Config.imageTag img).getD 0), start := base, size := bytes.length }
  let s := { s with fresh := s.fresh + 2 }
  (List.range 85).foldl (fun (s : State) fid =>
    let f := p + 64 * fid
    let s := s.modFar f fun fr =>
      { fr with
        threads := fr.threads.map fun th => if th.busy && th.hset.toNat == hset && th.code.isNone then { th with code := some fr.hmem } else th,
        hmem := memWrite fr.hmem base (bytes.map some), sets := fmSet fr.sets hset set }
    let (id, s) := s.newId
    s.enqueue f p
      { uid := id, ty := 0x38, blk := 0, region := hset, prot := 0, sup := true, acc := false, die := 0, pkg := p, party := .none,
        g12 := BitVec.ofNat 64 (Config.freeNat (s.fresh - 2)), g13 := BitVec.ofNat 64 (Config.freeNat (s.fresh - 1)) }) s

/-- A set number out of range or a full handler memory: the manual states no status (log 13). -/
def State.openStatus (s : State) : Byte × State := let (n, s) := s.freeNat; (BitVec.ofNat 8 n, s)

/-- Where a set goes, of the places the farriers have for it, all of which hold the same sets. -/
def State.setBase (s : State) (p : PkgId) (hset : Nat) (img : List Byte) : Option Nat :=
  let room := (s.far p).room hset (setPlaces (parseObj (Config.imageObject img)) 0).2
  room[Config.placement s.fresh % room.length]?

/-- The image loader on a handler set (R419, R420): its status. -/
def State.takeSet (s : State) (p : PkgId) (hset : Nat) (img : List Byte) : Byte × State :=
  let st := s.imageStatus p img false
  if st ≠ 0 then (st, s)
  else
    match s.setBase p hset img with
    | some base => if hset < 8 ∨ 255 < hset then s.openStatus else (0x00, (s.extend p 3 img).loadSet p hset img base)
    | none => s.openStatus

/-- LOAD_HANDLER_SET (R421). -/
def execLoadHandlerSet (p : PkgId) (s : State) : Host.Outcome State Fault Refusal :=
  .next (
    if !s.mailIs p 0x02 then s
    else
      let r := s.takeSet p (s.pkg p).mbArg.toNat (s.pkg p).mail
      r.2.mailDone p (r.1.setWidth 16))

/-- The directory records of the images written before are in the store by now (R414). -/
def Flash.recorded (f : Flash) : Flash := { f with images := f.images.map fun i => { i with committed := true } }

/-- SUBMIT_CODE_OBJECT (R407, R421): the object in the mailbox; or, where the submission names one, the object of that many bytes at that physical
address, which the groom submits for itself, and whose reply goes to nobody else (R407, R437, log 105). -/
def execSubmitCodeObject (o : Submission) (s : State) : Host.Outcome State Fault Refusal :=
  .next (
    let p := o.pkg
    let s' := s.modPkg p fun x => { x with flash := x.flash.recorded }
    match o.own with
    | some e => if (s.pkg p).bootst = 0 then (s'.load p (s'.view e.1 e.2) true).2.2 else s
    | none =>
      if !s.mailIs p 0x03 then s
      else
        let r := s'.load p (s'.pkg p).mail false
        r.2.2.mailDone p (r.1.setWidth 16 ||| (if r.2.1 then 0x100 else 0)))

/-- The identity word (R389). -/
def ident : W64 := 0x00000C08020002B1

/-- ATTEST (R422). -/
def execAttest (p : PkgId) (s : State) : Host.Outcome State Fault Refusal :=
  .next (
    if !s.mailIs p 0x04 then s
    else
      let x := s.pkg p
      let report :=
        if x.mbLen = 0 then Config.deviceCert
        else
          let body := memRead x.mbBuf 0 64 ++ (x.meas.toList.flatMap fun m => leBytes 64 m.toNat) ++ leBytes 8 ident.toNat ++ leBytes 8 x.fsvn.toNat
          body ++ (Config.sign body).take 132
      (s.modPkg p fun x => { x with mbBuf := memWrite x.mbBuf 0 (report.map some) }).mailDone p 0)

/-- IMAGE_LOAD_REQUEST (R419): message 0xF20 in slot n mod 8 of core n div 8 of the package reaches the loader. -/
def execImageLoadRequest (p : PkgId) (n : Nat) (s : State) : Host.Outcome State Fault Refusal :=
  .next (
    let ref : MRef := ⟨p * 2 ^ 16 + n / 8 % 2 ^ 16, n % 8⟩
    match s.slot ref with
    | none => s
    | some r =>
      if r.msg.ty ≠ 0xF20 ∨ r.st ≠ .sent ∨ s.inFab r.msg.uid then s
      else
        let g := fun (i : Nat) => (r.msg.payload.getD i 0).toNat
        let img := s.peek (g 0) (g 1)
        let (st, s) := (s.setSlot ref (some { r with st := .accepted })).takeSet p (g 2) img
        s.notice p ref.src 0xF21 [st.setWidth 64])

end Sys2Proof.Machine
end

