-- ==== Sys2Proof/Machine/Platform.lean ====
section
/-! DEFINITION. Machine/Platform.lean: boot and reset (R418-R420), power, temperature, assay and platform events (R423-R426),
loss of power (R414). -/

namespace Sys2Proof.Machine

/-! ### Reset (R418) -/

/-- What a package keeps across a reset: the flash store and the fuses; everything else is at its reset value. -/
def Pkg.afterReset (x : Pkg) : Pkg := { flash := x.flash, fsvn := x.fsvn }

/-- What a package keeps when its compute dies lose power: the flash store, the fuses and what the host die holds (R389, R420-R424). -/
def Pkg.hostDie (x : Pkg) : Pkg :=
  { x.afterReset with
    podm := x.podm, pkgn := x.pkgn, port0Host := x.port0Host, servers := x.servers, pools := x.pools, groom := x.groom, wins := x.wins,
    facc := x.facc, faccSet := x.faccSet, msix := x.msix, msixPend := x.msixPend, msixMask := x.msixMask, msixTab := x.msixTab,
    mbLen := x.mbLen, mbArg := x.mbArg, mbCmd := x.mbCmd, mbReply := x.mbReply, mbBuf := x.mbBuf, hostReps := x.hostReps,
    bootst := x.bootst, pwrlim := x.pwrlim, thr := x.thr, meas := x.meas }

/-- What a die keeps across a reset: its assay record and the points the assay removed; its ASSAY register is 0 (R418, R424, R426). -/
def Die.afterReset (x : Die) : Die := { assayRec := x.assayRec, cut := x.cut }

/-- What the host die shows of a die that has lost power: its record, the ASSAY and TEMP registers, its frequency point (R424). -/
def Die.powered (x : Die) : Die :=
  { x.afterReset with assay := x.assay, temp := x.temp, tempIx := x.tempIx, freq := x.freq }

/-- An address lies in the controller page of its die. -/
def inCtlPage (a : Nat) : Bool := let b := ctlBlk (homeDie a) * 64; decide (b ≤ a) && decide (a < b + 4096)

/-- The bytes of HBM4 of a package after a loss of power in its compute dies: the controller pages are at their reset value zero (R379),
and with `all` every other byte that was listed is free, for HBM4 contents are not promised across a reset (log 37). -/
def State.loseMemory (s : State) (p : PkgId) (all : Bool) : State :=
  let lost := s.mem.filter fun c => homePkg c.1 == p && isHbm c.1 && (all || inCtlPage c.1)
  let m := lost.zipIdx.foldl (fun m c =>
    memSet m c.1.1 (if inCtlPage c.1.1 then 0 else BitVec.ofNat 8 (Config.freeNat (s.fresh + c.2)))) s.mem
  { s with
    mem := m, fresh := s.fresh + lost.length,
    side := if all then s.side.filter fun e => homePkg (e.1 * 64) != p else s.side }

/-- The carriers of the other packages toward p go down, and what they carried waits for another (R397, R401). -/
def State.deafen (s : State) (p : PkgId) : State :=
  s.pkgs.foldl (fun (s : State) e =>
    if e.1 = p then s
    else e.2.carriers.foldl (fun (s : State) c => if c.2.dpkg = p ∧ c.2.st ≠ .down then s.carrierDrop e.1 c.1 else s) s) s

/-- Cores, dies, tables and everything in flight of a package are gone; `die` and `pkg` say what is kept of a die and of the package. -/
def State.wipe (s : State) (p : PkgId) (die : Die → Die) (pkg : Pkg → Pkg) : State :=
  let s := s.deafen p
  let mine := fun (o : Option CoreId) => match o with | some k => pkgOf k == p | none => false
  let cores := s.cores.filter fun e => pkgOf e.1 != p
  { s with
    cores := cores.map fun (e : Nat × Core) =>
      (e.1, { e.2 with
        wiq := e.2.wiq.filter fun w => pkgOf (writerOf w.ref) != p,
        ports := e.2.ports.filter fun m => isDevSrc m.ref.src || pkgOf m.ref.src != p,
        refused := e.2.refused.filter fun l => isDevSrc l.msg.src || pkgOf l.msg.src != p }),
    dies := s.dies.map fun (e : Nat × Die) => if e.1 / 8 = p then (e.1, die e.2) else e,
    pkgs := s.pkgs.map fun (e : Nat × Pkg) =>
      if e.1 = p then (e.1, pkg e.2)
      else (e.1, { e.2 with
        tree := e.2.tree.filter fun t => pkgOf t.core != p,
        far := e.2.far.map fun (f : Nat × Farrier) => (f.1, { f.2 with reqs := f.2.reqs.filter fun m => !mine m.party.core }) }),
    fab := s.fab.filter fun x => x.src != p && x.dst != p,
    vq := s.vq.filter fun m => pkgOf m.src != p && pkgOf m.dst != p,
    rets := s.rets.filter fun m => pkgOf m.dst != p && pkgOf m.cons != p,
    recs := s.recs.filter fun m => pkgOf m.src != p && pkgOf m.dst != p }

/-- A reset or a loss of power of the whole package (R418). -/
def State.resetPkg (s : State) (p : PkgId) : State := (s.loseMemory p true).wipe p Die.afterReset Pkg.afterReset

/-- The compute dies of a package lose power with no save; the host die and HBM4 keep what they hold (R423, log 106). -/
def State.powerDown (s : State) (p : PkgId) : State := (s.loseMemory p false).wipe p Die.powered Pkg.hostDie

/-! ### Boot (R418-R420) -/

/-- The default carrier plan (R397), on the packages configured. -/
def defaultPlan (p : PkgId) (podm : BitVec 64) : FMap Carrier :=
  (List.range 2048).filterMap fun i =>
    let q := (p + 1 + i % 63) % 64
    if podm.getLsbD q then some (i, { plan := BitVec.ofNat 8 (q + 64), retune := true }) else none

/-- The default core mask: eight server cores per die, at die-local y 0 and x 0, 16, … 112 (R33). -/
def defaultServers : List Nat :=
  (List.range 8).flatMap fun d => (List.range 8).map fun i => d / 2 * 64 * 256 + d % 2 * 128 + 16 * i

/-- A step of boot fails: the compute dies stay in reset. -/
def State.bootFails (s : State) (p : PkgId) (st : Byte) : State := s.modPkg p fun x => { x with bootst := st }

/-- The boot before failed: the device is in recovery (R418). -/
def Pkg.recovery (x : Pkg) : Bool := decide (1 ≤ x.bootst.toNat) && decide (x.bootst.toNat ≤ 6)

/-- The firmware image that a boot reads (R418 step 1): that of the reserved flash blocks, where an upload has its place by now (R421),
or in recovery that of the mailbox. -/
def Pkg.bootImage (x : Pkg) : Option (List Byte) :=
  let img := if x.recovery then x.mail else x.flash.pending.getD x.flash.firmware
  if img.isEmpty then none else some img

/-- The flash store at a boot: images whose directory record is missing are erased (R414), an uploaded firmware takes its place. -/
def Flash.booted (f : Flash) : Flash :=
  { (f.images.filter fun i => !i.committed).foldl Flash.erase f with firmware := f.pending.getD f.firmware, pending := none }

/-- Handler sets of the boot, one after another, each verified, measured and placed (R419, R420); the answer says that all were. -/
def State.bootSets (s : State) (p : PkgId) : List (Nat × List Byte) → Bool × State
  | [] => (true, s)
  | (n, img) :: t =>
    if s.imageStatus p img false ≠ 0 then (false, s)
    else match s.setBase p n img with
      | none => (false, s)
      | some base => ((s.extend p 2 img).loadSet p n img base).bootSets p t

/-- The groom image placed: its version enters the image keys (R413), and each server core has its part of it in local memory. -/
def State.placeGroom (s : State) (p : PkgId) (img : List Byte) : State :=
  (s.pkg p).servers.foldl (fun (s : State) yx =>
    s.modCore (p * 2 ^ 16 + yx) fun co => { co with loc := memWrite co.loc 0 ((Config.groomLocal img yx).take 0x20000 |>.map some) })
    (s.modPkg p fun x => { x with groom := img })

/-- Step 6: handler sets 0-5, then the groom. -/
def State.bootImages (s : State) (p : PkgId) (cfg : BootCfg) : Bool × State :=
  let r := s.bootSets p (cfg.imgSets.toList.zipIdx.map fun e => (e.2, e.1))
  if !r.1 then r
  else if r.2.imageStatus p cfg.imgGroom false ≠ 0 then (false, r.2)
  else (true, (r.2.extend p 1 cfg.imgGroom).placeGroom p cfg.imgGroom)

/-- What firmware sets once it runs: step 5 after training (R33, R391, R392, R397). -/
def Pkg.setup (cfg : BootCfg) (p : PkgId) (x : Pkg) : Pkg :=
  { x with
    podm := cfg.podm, pkgn := BitVec.ofNat 6 p, port0Host := cfg.port0Host, servers := cfg.servers.getD defaultServers,
    pools := cfg.pools.take 4 |>.zipIdx.map fun e => (e.2, e.1), carriers := defaultPlan p cfg.podm }

/-- The boot sequence (R418-R421). FSVN rises to the version of an image that the flash holds, once it runs (log 104). -/
def State.boot (s : State) (p : PkgId) (cfg : BootCfg) : State :=
  let image := (s.pkg p).bootImage
  let recovery := (s.pkg p).recovery
  let s := (s.resetPkg p).modPkg p fun x => { x with flash := x.flash.booted }
  match image with
  | none => s.bootFails p 0x01
  | some img =>
    let st := s.imageStatus p img true
    if st ≠ 0 then s.bootFails p st
    else
      let svn := Config.imageSvn img
      let s := (s.extend p 0 img).modPkg p fun x => { x with fsvn := if recovery then x.fsvn else BitVec.ofNat 64 (max x.fsvn.toNat svn) }
      if !cfg.trainOk then s.bootFails p 0x05
      else
        let r := (s.modPkg p (Pkg.setup cfg p)).bootImages p cfg
        r.2.bootFails p (if r.1 then 0x00 else 0x06)

/-- DEVICE_RESET (R418). -/
def execDeviceReset (p : PkgId) (cfg : BootCfg) (s : State) : Host.Outcome State Fault Refusal := .next (s.boot p cfg)
/-- FUNCTION_LEVEL_RESET (R387, R418): a device reset. -/
def execFunctionLevelReset (p : PkgId) (cfg : BootCfg) (s : State) : Host.Outcome State Fault Refusal := .next (s.boot p cfg)

/-- POWER_LOSS (R414): what is not kept in flash or fuses is gone, and nothing runs until the next boot. -/
def execPowerLoss (p : PkgId) (s : State) : Host.Outcome State Fault Refusal := .next (s.resetPkg p)

/-! ### Frequency and temperature (R423, R425) -/

/-- WARN and PRE of THR, in 1/16 °C. -/
def Pkg.warn (x : Pkg) : Int := (x.thr.setWidth 16).toNat
def Pkg.pre (x : Pkg) : Int := (x.thr.extractLsb' 16 16).toNat

/-- A temperature is read: TEMP follows (which of the die's sensors is the hottest is open), and an upward crossing is an event. -/
def State.readTemp (s : State) (d : DieId) (t : Int) : State :=
  let p := d / 8
  let old := (s.die d).temp.toInt
  let (n, s) := s.freeNat
  let s := s.modDie d fun x => { x with temp := BitVec.ofInt 16 t, tempIx := BitVec.ofNat 5 n }
  let s := if old ≤ (s.pkg p).warn ∧ (s.pkg p).warn < t then s.platEvent p (d % 8) 1 else s
  if old ≤ (s.pkg p).pre ∧ (s.pkg p).pre < t then s.platEvent p (d % 8) 2 else s

/-- The next point in a direction that the assay has not removed. -/
def Die.nextPoint (x : Die) (slower : Bool) : Fin 5 :=
  let cand := if slower then ((List.range 5).map (Fin.ofNat 5)).filter fun n => decide (x.freq < n)
    else (((List.range 5).map (Fin.ofNat 5)).filter fun n => decide (n < x.freq)).reverse
  (cand.find? fun n => !x.cut.contains n).getD x.freq

/-- FREQUENCY_STEP_DOWN (R423). -/
def execFrequencyStepDown (d : DieId) (power : Nat) (temp : Int) (s : State) : Host.Outcome State Fault Refusal :=
  .next (
    let s := s.readTemp d temp
    let x := s.pkg (d / 8)
    if x.pwrlim.toNat < power ∨ x.warn < temp then s.modDie d fun y => { y with freq := y.nextPoint true } else s)

/-- FREQUENCY_STEP_UP (R423). -/
def execFrequencyStepUp (d : DieId) (power : Nat) (temp : Int) (s : State) : Host.Outcome State Fault Refusal :=
  .next (
    let s := s.readTemp d temp
    let x := s.pkg (d / 8)
    if power ≤ x.pwrlim.toNat ∧ temp ≤ x.warn then s.modDie d fun y => { y with freq := y.nextPoint false } else s)

/-- THERMAL_PREEMPT (R423). -/
def execThermalPreempt (d : DieId) (temp : Int) (s : State) : Host.Outcome State Fault Refusal :=
  .next (
    let s := s.readTemp d temp
    if (s.pkg (d / 8)).pre < temp then s.writeReq d 0x04 else s)

/-- THERMAL_TRIP (R423): at 125 °C the compute dies lose power with no save. -/
def execThermalTrip (p : PkgId) (temp : Int) (s : State) : Host.Outcome State Fault Refusal :=
  .next (
    if temp < 2000 then s else ((s.powerDown p).modPkg p fun x => { x with bootst := 0x07 }))

/-! ### What the host reads (R387, R389, R421, R424) -/

/-- The function's identity in PCI configuration space (R387): vendor, device, class code, revision. -/
structure PciIdentity where
  vendor   : BitVec 16
  device   : BitVec 16
  cls      : BitVec 24
  revision : Byte
deriving DecidableEq, Repr

/-- The vendor ID is Plaquali's, a number the manual does not give (log 76). -/
def pciIdentity : PciIdentity := { vendor := Config.vendorId, device := 0x0C08, cls := 0x120000, revision := 0xB1 }

/-- PSTAT of a fabric port: the carriers that are UP, and those that retry took down (R389, R401). -/
def State.pstat (s : State) (p : PkgId) (port : Nat) : Nat :=
  ((List.range 32).map fun c =>
    let r := s.carrier p (32 * port + c)
    (if r.st = .up then 2 ^ c else 0) + (if r.wentDown then 2 ^ (32 + c) else 0)).sum

/-- The 64 bits that a host read at an offset of the control BAR returns (R389, R421, R424); no field of the machine changes. The
offered words are readable once the boot has ended (R418). -/
def State.barRead (s : State) (p : PkgId) (off : Nat) : W64 :=
  let x := s.pkg p
  let die := fun (base : Nat) => s.die (p * 8 + (off - base) / 8)
  let within := fun (base n : Nat) => decide (base ≤ off) && decide (off < base + 8 * n) && off % 8 == 0
  if off = 0 then ident
  else if within 0x100 4 then (if x.bootst = 0 then x.offered ((off - 0x100) / 8) else 0)
  else if within 0x120 4 then x.facc[(off - 0x120) / 8]?.getD 0
  else if within 0x1000 8 then BitVec.ofNat 64 (leNat (s.peek (ctlBlk (p * 8 + (off - 0x1000) / 8) * 64 + 8) 8))
  else if within 0x2000 64 then fmGet 0 x.wins ((off - 0x2000) / 8)
  else if off = 0x3000 then x.podm
  else if off = 0x3008 then x.pkgn.setWidth 64
  else if within 0x4000 64 then BitVec.ofNat 64 (s.pstat p ((off - 0x4000) / 8))
  else if within 0x5000 64 then
    let o := off - 0x5000
    if o % 16 = 0 then BitVec.ofNat 64 (leNat (memRead x.msixTab o 8))
    else BitVec.ofNat 64 (leNat (memRead x.msixTab o 4)) ||| (if x.msixMask.getLsbD (o / 16) then 0x100000000 else 0)
  else if off = 0x5400 then x.msixPend.setWidth 64
  else if off = 0x6000 then x.bootst.setWidth 64
  else if off = 0x6008 then x.fsvn
  else if off = 0x6010 then x.pwrlim.setWidth 64
  else if off = 0x6018 then BitVec.ofNat 64 ((List.range 8).map fun n => (s.die (p * 8 + n)).freq.val * 16 ^ n).sum
  else if off = 0x6020 then x.thr.setWidth 64
  else if within 0x6100 8 then (die 0x6100).temp.setWidth 64 ||| ((die 0x6100).tempIx.setWidth 64 <<< 16)
  else if within 0x6200 8 then (die 0x6200).assay
  else if within 0x7000 64 then BitVec.ofNat 64 (((x.meas[(off - 0x7000) / 64]?.getD 0).toNat) / 2 ^ (8 * ((off - 0x7000) % 64)))
  else if off = 0x80008 then x.mbLen.setWidth 64
  else if off = 0x80010 then x.mbArg.setWidth 64
  else if off = 0x80018 then (if x.mbCmd.isSome then 1 else 0) ||| (x.mbReply.setWidth 64 <<< 16)
  else if decide (0x81000 ≤ off) && decide (off + 8 ≤ 0x100000) then BitVec.ofNat 64 (leNat (memRead x.mbBuf (off - 0x81000) 8))
  else 0

/-- PLATFORM_EVENT (R425): numbers above 4 are unused. -/
def execPlatformEvent (p : PkgId) (die : Fin 8) (n : BitVec 5) (s : State) : Host.Outcome State Fault Refusal :=
  .next (if n.toNat ≤ 4 then s.platEvent p die.val n else s)

/-- ASSAY_RUN (R424, R426): the run count of the record in flash goes on, the margins and the points removed; ASSAY shows it. -/
def execAssayRun (d : DieId) (margins : List Byte) (removed : List (Fin 5)) (s : State) : Host.Outcome State Fault Refusal :=
  .next (
    let s := s.modDie d fun x =>
      let cut := (x.cut ++ removed).eraseDups
      let m := fun (n : Nat) => if cut.contains (Fin.ofNat 5 n) then 0 else (margins.getD n 0).toNat
      let runs := ((x.assayRec.setWidth 16).toNat + 1) % 65536
      let w := BitVec.ofNat 64 (runs + ((List.range 5).map fun n => m n * 2 ^ (16 + 8 * n)).sum)
      let x := { x with cut := cut, assay := w, assayRec := w }
      -- a point removed under the die is left, for a slower one where there is one
      let slow := { x with freq := if cut.contains x.freq then x.nextPoint true else x.freq }
      { slow with freq := if cut.contains slow.freq then slow.nextPoint false else slow.freq }
    s.platEvent (d / 8) (d % 8) 4)

end Sys2Proof.Machine
end

