-- ==== Sys2Proof/Machine/Scalar.lean ====
section
/-! DEFINITION. Machine/Scalar.lean: the scalar group (R99-R112). -/

namespace Sys2Proof.Machine

/-- The results of the binary mould (R102, R103). -/
def fnMulh (b c : W64) : W64 := BitVec.ofInt 64 (b.toInt * c.toInt / 2 ^ 64)
def fnMulhn (b c : W64) : W64 := BitVec.ofNat 64 (b.toNat * c.toNat / 2 ^ 64)
def fnDiv (b c : W64) : W64 := if c = 0 then -1 else BitVec.ofInt 64 (b.toInt.tdiv c.toInt)
def fnDivn (b c : W64) : W64 := if c = 0 then -1 else b / c
def fnRem (b c : W64) : W64 := if c = 0 then b else BitVec.ofInt 64 (b.toInt.tmod c.toInt)
def fnRemn (b c : W64) : W64 := if c = 0 then b else b % c
def fnShl (b c : W64) : W64 := b <<< (c.extractLsb' 0 6).toNat
def fnShr (b c : W64) : W64 := b >>> (c.extractLsb' 0 6).toNat
def fnSra (b c : W64) : W64 := b.sshiftRight (c.extractLsb' 0 6).toNat
def fnMin (b c : W64) : W64 := if b.slt c then b else c
def fnMax (b c : W64) : W64 := if b.slt c then c else b
def fnMinn (b c : W64) : W64 := if b.ult c then b else c
def fnMaxn (b c : W64) : W64 := if b.ult c then c else b

/-- Leading zero bits, 64 for zero (R104). -/
def fnClz (x : W64) : W64 := BitVec.ofNat 64 (if x = 0 then 64 else 63 - x.toNat.log2)
/-- Trailing zero bits, 64 for zero. -/
def fnCtz (x : W64) : W64 := BitVec.ofNat 64 (((List.range 64).find? fun i => x.getLsbD i).getD 64)
/-- One bits. -/
def fnPopc (x : W64) : W64 := BitVec.ofNat 64 ((List.range 64).countP fun i => x.getLsbD i)

/-- EXT (R105): LO, WM1 and SX of MI. -/
def fnExt (lo wm1 : Nat) (sx : Bool) (x : W64) : W64 :=
  let f := (x >>> lo).toNat % 2 ^ (wm1 + 1)
  if sx then BitVec.ofInt 64 (signExt (wm1 + 1) f) else BitVec.ofNat 64 f

/-- MKADR (R108). -/
def fnMkadr (rel : Bool) (b c : W64) : W64 :=
  BitVec.ofNat 64 (2 ^ 63 + (if rel then 2 ^ 62 else 0) + (b.extractLsb' 16 6).toNat * 2 ^ 56 +
    (b.extractLsb' 8 8).toNat * 2 ^ 48 + (b.extractLsb' 0 8).toNat * 2 ^ 40 + (c.extractLsb' 0 17).toNat)

/-- ADRX (R109). -/
def fnAdrx (part : Nat) (x : W64) : W64 :=
  let lw := x.getLsbD 63
  match part with
  | 0 => if lw then BitVec.ofNat 64 ((x.extractLsb' 56 6).toNat * 2 ^ 16 + (x.extractLsb' 48 8).toNat * 2 ^ 8 +
      (x.extractLsb' 40 8).toNat) else 0
  | 1 => if lw then (x.extractLsb' 0 17).setWidth 64 else (x.extractLsb' 0 57).setWidth 64
  | _ => if lw then (if x.getLsbD 62 then 2 else 1) else 0

/-- An instruction whose effect is on its hart's registers alone. -/
def onHart (i : Instr) (f : Fields) (eff : Hart → Hart) (s : State) : Host.Outcome State Fault Refusal :=
  issue i f never (fun s => .ok (s.modHart eff)) s

/-- The binary mould (R100) with a g destination. -/
def binary (i : Instr) (f : Fields) (fn : W64 → W64 → W64) (s : State) : Host.Outcome State Fault Refusal :=
  onHart i f (fun h => h.dest f.a (fn (h.opd f.b) (h.src2 f))) s
/-- The binary mould with a c destination (R110). -/
def comparison (i : Instr) (f : Fields) (rel : W64 → W64 → Bool) (s : State) : Host.Outcome State Fault Refusal :=
  onHart i f (fun h => h.destC f.a (rel (h.opd f.b) (h.src2 f))) s
/-- One source, one g destination (R104). -/
def unary (i : Instr) (f : Fields) (fn : W64 → W64) (s : State) : Host.Outcome State Fault Refusal :=
  onHart i f (fun h => h.dest f.a (fn (h.opd f.b))) s
/-- The condition operations (R111). -/
def condOp (i : Instr) (f : Fields) (op : Bool → Bool → Bool) (s : State) : Host.Outcome State Fault Refusal :=
  onHart i f (fun h => h.destC f.a (op ((h.opd f.b != 0) != f.bit 17) ((h.opd f.c != 0) != f.bit 18))) s

/-- NOP (R52). -/
def execNop (f : Fields) (s : State) := onHart (.nop f) f id s
/-- ADD (R102). -/
def execAdd (f : Fields) (s : State) := binary (.add f) f (· + ·) s
/-- SUB (R102). -/
def execSub (f : Fields) (s : State) := binary (.sub f) f (· - ·) s
/-- MUL (R102). -/
def execMul (f : Fields) (s : State) := binary (.mul f) f (· * ·) s
/-- MULH (R102). -/
def execMulh (f : Fields) (s : State) := binary (.mulh f) f fnMulh s
/-- MULHN (R102). -/
def execMulhn (f : Fields) (s : State) := binary (.mulhn f) f fnMulhn s
/-- DIV (R103). -/
def execDiv (f : Fields) (s : State) := binary (.div f) f fnDiv s
/-- DIVN (R103). -/
def execDivn (f : Fields) (s : State) := binary (.divn f) f fnDivn s
/-- REM (R103). -/
def execRemI (f : Fields) (s : State) := binary (.remI f) f fnRem s
/-- REMN (R103). -/
def execRemn (f : Fields) (s : State) := binary (.remn f) f fnRemn s
/-- AND (R102). -/
def execAndI (f : Fields) (s : State) := binary (.andI f) f (· &&& ·) s
/-- OR (R102). -/
def execOrI (f : Fields) (s : State) := binary (.orI f) f (· ||| ·) s
/-- XOR (R102). -/
def execXorI (f : Fields) (s : State) := binary (.xorI f) f (· ^^^ ·) s
/-- ANDN (R102). -/
def execAndn (f : Fields) (s : State) := binary (.andn f) f (fun b c => b &&& ~~~c) s
/-- SHL (R102). -/
def execShl (f : Fields) (s : State) := binary (.shl f) f fnShl s
/-- SHR (R102). -/
def execShr (f : Fields) (s : State) := binary (.shr f) f fnShr s
/-- SRA (R102). -/
def execSra (f : Fields) (s : State) := binary (.sra f) f fnSra s
/-- MIN (R102). -/
def execMinI (f : Fields) (s : State) := binary (.minI f) f fnMin s
/-- MAX (R102). -/
def execMaxI (f : Fields) (s : State) := binary (.maxI f) f fnMax s
/-- MINN (R102). -/
def execMinn (f : Fields) (s : State) := binary (.minn f) f fnMinn s
/-- MAXN (R102). -/
def execMaxn (f : Fields) (s : State) := binary (.maxn f) f fnMaxn s
/-- CLZ (R104). -/
def execClz (f : Fields) (s : State) := unary (.clz f) f fnClz s
/-- CTZ (R104). -/
def execCtz (f : Fields) (s : State) := unary (.ctz f) f fnCtz s
/-- POPC (R104). -/
def execPopc (f : Fields) (s : State) := unary (.popc f) f fnPopc s
/-- EXT (R105). -/
def execExtI (f : Fields) (s : State) := unary (.extI f) f (fnExt (f.bits 17 6) (f.bits 23 6) (f.bit 29)) s
/-- LI (R106). -/
def execLi (f : Fields) (s : State) := onHart (.li f) f (fun h => h.dest f.a (f.mi.signExtend 64)) s
/-- LIH (R106). -/
def execLih (f : Fields) (s : State) :=
  onHart (.lih f) f (fun h => h.dest f.a (f.mi ++ (h.opd f.a).extractLsb' 0 32)) s
/-- SEL (R107). -/
def execSel (f : Fields) (s : State) :=
  onHart (.sel f) f (fun h =>
    h.dest f.a (if h.cond (Fin.ofNat 8 (f.bits 17 3)) != f.bit 20 then h.opd f.b else h.opd f.c)) s
/-- MKADR (R108). -/
def execMkadr (f : Fields) (s : State) :=
  onHart (.mkadr f) f (fun h => h.dest f.a (fnMkadr (f.bit 17) (h.opd f.b) (h.opd f.c))) s
/-- ADRX (R109). -/
def execAdrx (f : Fields) (s : State) := unary (.adrx f) f (fnAdrx (f.bits 17 2)) s
/-- CEQ (R110). -/
def execCeq (f : Fields) (s : State) := comparison (.ceq f) f relCeq s
/-- CNE (R110). -/
def execCne (f : Fields) (s : State) := comparison (.cne f) f relCne s
/-- CLT (R110). -/
def execClt (f : Fields) (s : State) := comparison (.clt f) f relClt s
/-- CLE (R110). -/
def execCle (f : Fields) (s : State) := comparison (.cle f) f relCle s
/-- CLTN (R110). -/
def execCltn (f : Fields) (s : State) := comparison (.cltn f) f relCltn s
/-- CLEN (R110). -/
def execClen (f : Fields) (s : State) := comparison (.clen f) f relClen s
/-- CAND (R111). -/
def execCand (f : Fields) (s : State) := condOp (.cand f) f (· && ·) s
/-- COR (R111). -/
def execCor (f : Fields) (s : State) := condOp (.cor f) f (· || ·) s
/-- CXOR (R111). -/
def execCxor (f : Fields) (s : State) := condOp (.cxor f) f (· != ·) s
/-- CSET (R112): one condition from a value, or c1-c7 from the bits of gB; c0 discards. -/
def execCset (f : Fields) (s : State) :=
  onHart (.cset f) f (fun h =>
    if f.a.isNone then { h with c := ((h.opd f.b).setWidth 8 &&& 0xFE) ||| (h.c &&& 1) }
    else h.destC f.a (h.opd f.b != 0)) s
/-- CGET (R112). -/
def execCget (f : Fields) (s : State) :=
  onHart (.cget f) f (fun h =>
    h.dest f.a (if f.b.isNone then (h.c ||| 1).setWidth 64 else h.opd f.b)) s

end Sys2Proof.Machine
end

