-- ==== Sys2Proof/Machine/Dispatch.lean ====
section
/-! DEFINITION. Machine/Dispatch.lean: one arm for each constructor of `Instr`, a direct call of its meaning. -/

namespace Sys2Proof.Machine

def exec (i : Instr) (s : State) : Host.Outcome State Fault Refusal :=
  match i with
  | .nop f => Sys2Proof.Machine.execNop f s
  | .add f => Sys2Proof.Machine.execAdd f s
  | .sub f => Sys2Proof.Machine.execSub f s
  | .mul f => Sys2Proof.Machine.execMul f s
  | .mulh f => Sys2Proof.Machine.execMulh f s
  | .mulhn f => Sys2Proof.Machine.execMulhn f s
  | .div f => Sys2Proof.Machine.execDiv f s
  | .divn f => Sys2Proof.Machine.execDivn f s
  | .remI f => Sys2Proof.Machine.execRemI f s
  | .remn f => Sys2Proof.Machine.execRemn f s
  | .andI f => Sys2Proof.Machine.execAndI f s
  | .orI f => Sys2Proof.Machine.execOrI f s
  | .xorI f => Sys2Proof.Machine.execXorI f s
  | .andn f => Sys2Proof.Machine.execAndn f s
  | .shl f => Sys2Proof.Machine.execShl f s
  | .shr f => Sys2Proof.Machine.execShr f s
  | .sra f => Sys2Proof.Machine.execSra f s
  | .minI f => Sys2Proof.Machine.execMinI f s
  | .maxI f => Sys2Proof.Machine.execMaxI f s
  | .minn f => Sys2Proof.Machine.execMinn f s
  | .maxn f => Sys2Proof.Machine.execMaxn f s
  | .clz f => Sys2Proof.Machine.execClz f s
  | .ctz f => Sys2Proof.Machine.execCtz f s
  | .popc f => Sys2Proof.Machine.execPopc f s
  | .extI f => Sys2Proof.Machine.execExtI f s
  | .li f => Sys2Proof.Machine.execLi f s
  | .lih f => Sys2Proof.Machine.execLih f s
  | .sel f => Sys2Proof.Machine.execSel f s
  | .mkadr f => Sys2Proof.Machine.execMkadr f s
  | .adrx f => Sys2Proof.Machine.execAdrx f s
  | .ceq f => Sys2Proof.Machine.execCeq f s
  | .cne f => Sys2Proof.Machine.execCne f s
  | .clt f => Sys2Proof.Machine.execClt f s
  | .cle f => Sys2Proof.Machine.execCle f s
  | .cltn f => Sys2Proof.Machine.execCltn f s
  | .clen f => Sys2Proof.Machine.execClen f s
  | .cand f => Sys2Proof.Machine.execCand f s
  | .cor f => Sys2Proof.Machine.execCor f s
  | .cxor f => Sys2Proof.Machine.execCxor f s
  | .cset f => Sys2Proof.Machine.execCset f s
  | .cget f => Sys2Proof.Machine.execCget f s
  | .br f => Sys2Proof.Machine.execBr f s
  | .jr f => Sys2Proof.Machine.execJr f s
  | .call f => Sys2Proof.Machine.execCall f s
  | .callr f => Sys2Proof.Machine.execCallr f s
  | .ret f => Sys2Proof.Machine.execRet f s
  | .loopI f => Sys2Proof.Machine.execLoopI f s
  | .lbrk f => Sys2Proof.Machine.execLbrk f s
  | .doneI f => Sys2Proof.Machine.execDoneI f s
  | .waitUnack f => Sys2Proof.Machine.execWaitUnack f s
  | .waitEng f => Sys2Proof.Machine.execWaitEng f s
  | .waitAll f => Sys2Proof.Machine.execWaitAll f s
  | .waitTime f => Sys2Proof.Machine.execWaitTime f s
  | .halt f => Sys2Proof.Machine.execHalt f s
  | .csrr f => Sys2Proof.Machine.execCsrr f s
  | .csrw f => Sys2Proof.Machine.execCsrw f s
  | .csrs f => Sys2Proof.Machine.execCsrs f s
  | .csrc f => Sys2Proof.Machine.execCsrc f s
  | .sysI f => Sys2Proof.Machine.execSysI f s
  | .brk f => Sys2Proof.Machine.execBrk f s
  | .eret f => Sys2Proof.Machine.execEret f s
  | .vadd f => Sys2Proof.Machine.execVadd f s
  | .vsub f => Sys2Proof.Machine.execVsub f s
  | .vmul f => Sys2Proof.Machine.execVmul f s
  | .vfma f => Sys2Proof.Machine.execVfma f s
  | .vfms f => Sys2Proof.Machine.execVfms f s
  | .vfnm f => Sys2Proof.Machine.execVfnm f s
  | .vdiv f => Sys2Proof.Machine.execVdiv f s
  | .vmin f => Sys2Proof.Machine.execVmin f s
  | .vmax f => Sys2Proof.Machine.execVmax f s
  | .vabs f => Sys2Proof.Machine.execVabs f s
  | .vneg f => Sys2Proof.Machine.execVneg f s
  | .vsqrt f => Sys2Proof.Machine.execVsqrt f s
  | .vrcp f => Sys2Proof.Machine.execVrcp f s
  | .vrsq f => Sys2Proof.Machine.execVrsq f s
  | .vexp f => Sys2Proof.Machine.execVexp f s
  | .vlog f => Sys2Proof.Machine.execVlog f s
  | .vsin f => Sys2Proof.Machine.execVsin f s
  | .vcos f => Sys2Proof.Machine.execVcos f s
  | .vtanh f => Sys2Proof.Machine.execVtanh f s
  | .vsigm f => Sys2Proof.Machine.execVsigm f s
  | .vcmp f => Sys2Proof.Machine.execVcmp f s
  | .vsel f => Sys2Proof.Machine.execVsel f s
  | .vbound f => Sys2Proof.Machine.execVbound f s
  | .vwidth f => Sys2Proof.Machine.execVwidth f s
  | .vsplat f => Sys2Proof.Machine.execVsplat f s
  | .vins f => Sys2Proof.Machine.execVins f s
  | .vextr f => Sys2Proof.Machine.execVextr f s
  | .vperm f => Sys2Proof.Machine.execVperm f s
  | .vslide f => Sys2Proof.Machine.execVslide f s
  | .vred f => Sys2Proof.Machine.execVred f s
  | .vcvt f => Sys2Proof.Machine.execVcvt f s
  | .vquant f => Sys2Proof.Machine.execVquant f s
  | .vqmax f => Sys2Proof.Machine.execVqmax f s
  | .vcomp f => Sys2Proof.Machine.execVcomp f s
  | .vexpd f => Sys2Proof.Machine.execVexpd f s
  | .viadd f => Sys2Proof.Machine.execViadd f s
  | .visub f => Sys2Proof.Machine.execVisub f s
  | .vimul f => Sys2Proof.Machine.execVimul f s
  | .vand f => Sys2Proof.Machine.execVand f s
  | .vor f => Sys2Proof.Machine.execVor f s
  | .vxor f => Sys2Proof.Machine.execVxor f s
  | .vshl f => Sys2Proof.Machine.execVshl f s
  | .vshr f => Sys2Proof.Machine.execVshr f s
  | .vmov f => Sys2Proof.Machine.execVmov f s
  | .mand f => Sys2Proof.Machine.execMand f s
  | .mor f => Sys2Proof.Machine.execMor f s
  | .mxor f => Sys2Proof.Machine.execMxor f s
  | .mcnt f => Sys2Proof.Machine.execMcnt f s
  | .jseed f => Sys2Proof.Machine.execJseed f s
  | .jconst f => Sys2Proof.Machine.execJconst f s
  | .jget f => Sys2Proof.Machine.execJget f s
  | .jset f => Sys2Proof.Machine.execJset f s
  | .jshift f => Sys2Proof.Machine.execJshift f s
  | .jdiff f => Sys2Proof.Machine.execJdiff f s
  | .jint f => Sys2Proof.Machine.execJint f s
  | .jtrunc f => Sys2Proof.Machine.execJtrunc f s
  | .amma f => Sys2Proof.Machine.execAmma f s
  | .azero f => Sys2Proof.Machine.execAzero f s
  | .ald f => Sys2Proof.Machine.execAld f s
  | .ast f => Sys2Proof.Machine.execAst f s
  | .arow f => Sys2Proof.Machine.execArow f s
  | .adrain f => Sys2Proof.Machine.execAdrain f s
  | .ascale f => Sys2Proof.Machine.execAscale f s
  | .ld f => Sys2Proof.Machine.execLd f s
  | .st f => Sys2Proof.Machine.execSt f s
  | .vld f => Sys2Proof.Machine.execVld f s
  | .vst f => Sys2Proof.Machine.execVst f s
  | .vldx f => Sys2Proof.Machine.execVldx f s
  | .vstx f => Sys2Proof.Machine.execVstx f s
  | .ldblk f => Sys2Proof.Machine.execLdblk f s
  | .stblk f => Sys2Proof.Machine.execStblk f s
  | .ldmeta f => Sys2Proof.Machine.execLdmeta f s
  | .stmeta f => Sys2Proof.Machine.execStmeta f s
  | .phase f => Sys2Proof.Machine.execPhase f s
  | .fence f => Sys2Proof.Machine.execFence f s
  | .aadd f => Sys2Proof.Machine.execAadd f s
  | .aand f => Sys2Proof.Machine.execAand f s
  | .aor f => Sys2Proof.Machine.execAor f s
  | .axor f => Sys2Proof.Machine.execAxor f s
  | .amin f => Sys2Proof.Machine.execAmin f s
  | .amax f => Sys2Proof.Machine.execAmax f s
  | .axchg f => Sys2Proof.Machine.execAxchg f s
  | .acas f => Sys2Proof.Machine.execAcas f s
  | .afadd f => Sys2Proof.Machine.execAfadd f s
  | .ablk f => Sys2Proof.Machine.execAblk f s
  | .pref f => Sys2Proof.Machine.execPref f s
  | .fset f => Sys2Proof.Machine.execFset f s
  | .fclr f => Sys2Proof.Machine.execFclr f s
  | .send f => Sys2Proof.Machine.execSend f s
  | .sendr f => Sys2Proof.Machine.execSendr f s
  | .hop f => Sys2Proof.Machine.execHop f s
  | .dcopy f => Sys2Proof.Machine.execDcopy f s
  | .dgath f => Sys2Proof.Machine.execDgath f s
  | .dscad f => Sys2Proof.Machine.execDscad f s
  | .slacqP f => Sys2Proof.Machine.execSlacqP f s
  | .slacqC f => Sys2Proof.Machine.execSlacqC f s
  | .slrel f => Sys2Proof.Machine.execSlrel f s
  | .slinit f => Sys2Proof.Machine.execSlinit f s
  | .tjoin f => Sys2Proof.Machine.execTjoin f s
  | .tread f => Sys2Proof.Machine.execTread f s
  | .bar f => Sys2Proof.Machine.execBar f s
  | .qfence f => Sys2Proof.Machine.execQfence f s
  | .carm f => Sys2Proof.Machine.execCarm f s
  | .cdis f => Sys2Proof.Machine.execCdis f s
  | .crdCnt f => Sys2Proof.Machine.execCrdCnt f s
  | .crdStat f => Sys2Proof.Machine.execCrdStat f s
  | .crdStatW f => Sys2Proof.Machine.execCrdStatW f s
  | .crdTot f => Sys2Proof.Machine.execCrdTot f s
  | .crdCons f => Sys2Proof.Machine.execCrdCons f s
  | .crdProd f => Sys2Proof.Machine.execCrdProd f s
  | .crdFab f => Sys2Proof.Machine.execCrdFab f s
  | .crdMon f => Sys2Proof.Machine.execCrdMon f s
  | .cadd f => Sys2Proof.Machine.execCadd f s
  | .pcrd f => Sys2Proof.Machine.execPcrd f s
  | .pccfg f => Sys2Proof.Machine.execPccfg f s
  | .rtset f => Sys2Proof.Machine.execRtset f s
  | .rtget f => Sys2Proof.Machine.execRtget f s
  | .rkset f => Sys2Proof.Machine.execRkset f s
  | .rkmovHold f => Sys2Proof.Machine.execRkmovHold f s
  | .rkmovRel f => Sys2Proof.Machine.execRkmovRel f s
  | .tlbinvPage f => Sys2Proof.Machine.execTlbinvPage f s
  | .tlbinvAll f => Sys2Proof.Machine.execTlbinvAll f s
  | .fbrd f => Sys2Proof.Machine.execFbrd f s
  | .replay f => Sys2Proof.Machine.execReplay f s
  | .replayDeny f => Sys2Proof.Machine.execReplayDeny f s
  | .pgownHost f => Sys2Proof.Machine.execPgownHost f s
  | .pgownDev f => Sys2Proof.Machine.execPgownDev f s
  | .htset f => Sys2Proof.Machine.execHtset f s
  | .genAck f => Sys2Proof.Machine.execGenAck f s
  | .genRd f => Sys2Proof.Machine.execGenRd f s
  | .genRet f => Sys2Proof.Machine.execGenRet f s
  | .genFree f => Sys2Proof.Machine.execGenFree f s
  | .qcfgFuse f => Sys2Proof.Machine.execQcfgFuse f s
  | .qcfgRoot f => Sys2Proof.Machine.execQcfgRoot f s
  | .qcfgMemb f => Sys2Proof.Machine.execQcfgMemb f s
  | .qcfgRankt f => Sys2Proof.Machine.execQcfgRankt f s
  | .qcfgHtab f => Sys2Proof.Machine.execQcfgHtab f s
  | .qcfgCplan f => Sys2Proof.Machine.execQcfgCplan f s
  | .qcfgFeat f => Sys2Proof.Machine.execQcfgFeat f s
  | .frzOn f => Sys2Proof.Machine.execFrzOn f s
  | .frzOff f => Sys2Proof.Machine.execFrzOff f s
  | .pdoneSave f => Sys2Proof.Machine.execPdoneSave f s
  | .pdoneRest f => Sys2Proof.Machine.execPdoneRest f s
  | .fdoneRes f => Sys2Proof.Machine.execFdoneRes f s
  | .fdoneSat f => Sys2Proof.Machine.execFdoneSat f s
  | .fdoneDeny f => Sys2Proof.Machine.execFdoneDeny f s
  | .fdoneHold f => Sys2Proof.Machine.execFdoneHold f s
  | .tagrd f => Sys2Proof.Machine.execTagrd f s
  | .tagwr f => Sys2Proof.Machine.execTagwr f s
  | .dirrd f => Sys2Proof.Machine.execDirrd f s
  | .dirwr f => Sys2Proof.Machine.execDirwr f s
  | .btx f => Sys2Proof.Machine.execBtx f s
  | .frep f => Sys2Proof.Machine.execFrep f s
  | .freq f => Sys2Proof.Machine.execFreq f s
  | .fwake f => Sys2Proof.Machine.execFwake f s
  | .fpoison f => Sys2Proof.Machine.execFpoison f s
  | .fblk f => Sys2Proof.Machine.execFblk f s
  | .fsto f => Sys2Proof.Machine.execFsto f s
  | .gapCountExpiry k c => Sys2Proof.Machine.execGapCountExpiry k c s
  | .messageArrival k arr => Sys2Proof.Machine.execMessageArrival k arr s
  | .hopMessageArrival k arr => Sys2Proof.Machine.execHopMessageArrival k arr s
  | .refusal k slot => Sys2Proof.Machine.execRefusal k slot s
  | .backoffRetry k slot => Sys2Proof.Machine.execBackoffRetry k slot s
  | .contextFreeNotice k slot => Sys2Proof.Machine.execContextFreeNotice k slot s
  | .reservationLapse k c => Sys2Proof.Machine.execReservationLapse k c s
  | .contextFree k c => Sys2Proof.Machine.execContextFree k c s
  | .messageAcceptance k slot => Sys2Proof.Machine.execMessageAcceptance k slot s
  | .forwardedLoadReply k id => Sys2Proof.Machine.execForwardedLoadReply k id s
  | .accessReply k id => Sys2Proof.Machine.execAccessReply k id s
  | .storeAck k id => Sys2Proof.Machine.execStoreAck k id s
  | .tagReply k id => Sys2Proof.Machine.execTagReply k id s
  | .replyFaultEntry k c => Sys2Proof.Machine.execReplyFaultEntry k c s
  | .interruptEntry k => Sys2Proof.Machine.execInterruptEntry k s
  | .releaseComplete k => Sys2Proof.Machine.execReleaseComplete k s
  | .fabricIntervalConfirm p q iv => Sys2Proof.Machine.execFabricIntervalConfirm p q iv s
  | .dflagsUpdate d bits => Sys2Proof.Machine.execDflagsUpdate d bits s
  | .anvilEntryStart k => Sys2Proof.Machine.execAnvilEntryStart k s
  | .anvilEntryComplete k late => Sys2Proof.Machine.execAnvilEntryComplete k late s
  | .drainWakeup k id => Sys2Proof.Machine.execDrainWakeup k id s
  | .drayEntryStart k => Sys2Proof.Machine.execDrayEntryStart k s
  | .drayFaultReport k => Sys2Proof.Machine.execDrayFaultReport k s
  | .remoteWritePerformed k arr => Sys2Proof.Machine.execRemoteWritePerformed k arr s
  | .remoteLoadRequest k id part => Sys2Proof.Machine.execRemoteLoadRequest k id part s
  | .atomicAtHome k id => Sys2Proof.Machine.execAtomicAtHome k id s
  | .countedStore k id part => Sys2Proof.Machine.execCountedStore k id part s
  | .countMessage p n => Sys2Proof.Machine.execCountMessage p n s
  | .counterFire h => Sys2Proof.Machine.execCounterFire h s
  | .launchEnqueue h => Sys2Proof.Machine.execLaunchEnqueue h s
  | .slotFilled k b => Sys2Proof.Machine.execSlotFilled k b s
  | .slotReturn k n => Sys2Proof.Machine.execSlotReturn k n s
  | .slinitRecord k n => Sys2Proof.Machine.execSlinitRecord k n s
  | .treeInject k => Sys2Proof.Machine.execTreeInject k s
  | .treeResult k scope => Sys2Proof.Machine.execTreeResult k scope s
  | .barrierComplete k scope => Sys2Proof.Machine.execBarrierComplete k scope s
  | .vqmaxContribution k n => Sys2Proof.Machine.execVqmaxContribution k n s
  | .translationWalk k id part evict => Sys2Proof.Machine.execTranslationWalk k id part evict s
  | .accessPark k id part => Sys2Proof.Machine.execAccessPark k id part s
  | .farrierDispatch f => Sys2Proof.Machine.execFarrierDispatch f s
  | .gets f t => Sys2Proof.Machine.execGets f t s
  | .getx f t => Sys2Proof.Machine.execGetx f t s
  | .wrI f t => Sys2Proof.Machine.execWrI f t s
  | .atI f t => Sys2Proof.Machine.execAtI f t s
  | .rgets f t => Sys2Proof.Machine.execRgets f t s
  | .rgetx f t => Sys2Proof.Machine.execRgetx f t s
  | .rwr f t => Sys2Proof.Machine.execRwr f t s
  | .inv f t => Sys2Proof.Machine.execInv f t s
  | .fwd f t => Sys2Proof.Machine.execFwd f t s
  | .wbk f t => Sys2Proof.Machine.execWbk f t s
  | .push f t => Sys2Proof.Machine.execPush f t s
  | .upd f t => Sys2Proof.Machine.execUpd f t s
  | .hsnp f t => Sys2Proof.Machine.execHsnp f t s
  | .customRequest f t => Sys2Proof.Machine.execCustomRequest f t s
  | .initI f t => Sys2Proof.Machine.execInitI f t s
  | .rebind f t => Sys2Proof.Machine.execRebind f t s
  | .rcv f t => Sys2Proof.Machine.execRcv f t s
  | .farrierReply f => Sys2Proof.Machine.execFarrierReply f s
  | .curbKill f t => Sys2Proof.Machine.execCurbKill f t s
  | .curbWaitTimeout f t => Sys2Proof.Machine.execCurbWaitTimeout f t s
  | .jobTeardown ks => Sys2Proof.Machine.execJobTeardown ks s
  | .uncorrectableError e => Sys2Proof.Machine.execUncorrectableError e s
  | .preemptRequest d reason => Sys2Proof.Machine.execPreemptRequest d reason s
  | .timeSliceExpiry d => Sys2Proof.Machine.execTimeSliceExpiry d s
  | .preemptLocalCopy k => Sys2Proof.Machine.execPreemptLocalCopy k s
  | .saveEntry k => Sys2Proof.Machine.execSaveEntry k s
  | .preemptImageCopy k => Sys2Proof.Machine.execPreemptImageCopy k s
  | .resumeRequest d => Sys2Proof.Machine.execResumeRequest d s
  | .resumeWriteback k => Sys2Proof.Machine.execResumeWriteback k s
  | .coreResume k => Sys2Proof.Machine.execCoreResume k s
  | .hostWindowRead p off len => Sys2Proof.Machine.execHostWindowRead p off len s
  | .hostWindowWrite r off data relaxed => Sys2Proof.Machine.execHostWindowWrite r off data relaxed s
  | .hostSnoop p snp line => Sys2Proof.Machine.execHostSnoop p snp line s
  | .featureAcceptWrite r w val => Sys2Proof.Machine.execFeatureAcceptWrite r w val s
  | .preqWrite r die val => Sys2Proof.Machine.execPreqWrite r die val s
  | .winWrite r w val => Sys2Proof.Machine.execWinWrite r w val s
  | .barRegisterWrite r off val => Sys2Proof.Machine.execBarRegisterWrite r off val s
  | .uploadFirmware p => Sys2Proof.Machine.execUploadFirmware p s
  | .loadHandlerSet p => Sys2Proof.Machine.execLoadHandlerSet p s
  | .submitCodeObject o => Sys2Proof.Machine.execSubmitCodeObject o s
  | .attest p => Sys2Proof.Machine.execAttest p s
  | .imageLoadRequest p n => Sys2Proof.Machine.execImageLoadRequest p n s
  | .deviceReset p cfg => Sys2Proof.Machine.execDeviceReset p cfg s
  | .functionLevelReset p cfg => Sys2Proof.Machine.execFunctionLevelReset p cfg s
  | .frequencyStepDown d power temp => Sys2Proof.Machine.execFrequencyStepDown d power temp s
  | .frequencyStepUp d power temp => Sys2Proof.Machine.execFrequencyStepUp d power temp s
  | .thermalPreempt d temp => Sys2Proof.Machine.execThermalPreempt d temp s
  | .thermalTrip p temp => Sys2Proof.Machine.execThermalTrip p temp s
  | .platformEvent p die n => Sys2Proof.Machine.execPlatformEvent p die n s
  | .assayRun d margins removed => Sys2Proof.Machine.execAssayRun d margins removed s
  | .carrierRetuneComplete p j => Sys2Proof.Machine.execCarrierRetuneComplete p j s
  | .carrierUp p j => Sys2Proof.Machine.execCarrierUp p j s
  | .fabricFrame p j crcOk => Sys2Proof.Machine.execFabricFrame p j crcOk s
  | .frameNak p j => Sys2Proof.Machine.execFrameNak p j s
  | .carrierDown p j => Sys2Proof.Machine.execCarrierDown p j s
  | .powerLoss p => Sys2Proof.Machine.execPowerLoss p s
  | .correctedSoftError d m => Sys2Proof.Machine.execCorrectedSoftError d m s
  | .waitTimeDeadline k c => Sys2Proof.Machine.execWaitTimeDeadline k c s
  | .instructionCompletion k c id => Sys2Proof.Machine.execInstructionCompletion k c id s
  | .occupancyEnd k c => Sys2Proof.Machine.execOccupancyEnd k c s
  | .tableInstructionComplete k c => Sys2Proof.Machine.execTableInstructionComplete k c s
  | .windowRegistrationComplete k c => Sys2Proof.Machine.execWindowRegistrationComplete k c s

end Sys2Proof.Machine
end

