-- ==== Sys2Proof/Machine/Clock.lean ====
section
/-! DEFINITION. Machine/Clock.lean: a core clock and a farrier clock: readiness, the age order, the boundary of a context,
fetch and decode (R46, R201, R263, R264, R317, R375); one turn of the agenda; where a first instruction is placed. -/

namespace Sys2Proof.Machine

/-- The eight contexts. -/
def ctxIds : List (Fin 8) := [0, 1, 2, 3, 4, 5, 6, 7]

/-! ### Fetch (R38, R201) -/

/-- A fetch of this context's bundle is on its way. -/
def Core.fetching (co : Core) (c : Fin 8) (pc : PcW) : Bool :=
  co.accs.any fun a => a.ctx == c && a.kind == .fetch && decide (a.pc.toNat / 192 = pc.toNat / 192)

/-- A bundle is asked for: three blocks of code (R38); prompt (choice 0) it comes as far as it can at once. -/
def State.startFetch (s : State) (k : CoreId) (c : Fin 8) : State :=
  let x := s.ctx k c
  let va := x.hart.pc.toNat / 192 * 192
  let (id, s) := s.newId
  let part := fun (j : Nat) =>
    let ea : W64 := BitVec.ofNat 64 (va + 64 * j)
    newPart ea (.glob ea) (64 * j) (List.replicate 64 (some 0))
  let a : Access :=
    { id := id, ctx := c, user := !x.sup, kind := .fetch, parts := [part 0, part 1, part 2], pc := x.hart.pc }
  let (l, s) := s.popLag
  let s := s.modCore k fun co => { co with accs := co.accs ++ [a] }
  if l = 0 then (s.drive 6 k id).finish k id else s

/-! ### Readiness (R263, R264) -/

/-- Another context holds a unit of this kind through its occupancy. -/
def Core.unitHeld (co : Core) (c : Fin 8) (hit : FUnit → Bool) : Bool :=
  ctxIds.any fun d => d != c && decide (0 < co.ctxs[d].occ) && (match co.ctxs[d].unit with | some u => hit u | none => false)

/-- A unit the instruction needs is held, or the special-function unit does not accept it yet (R129, R264). -/
def Core.unitBusy (co : Core) (c : Fin 8) (i : Instr) (f : Fields) : Bool :=
  let vec := fun (u : FUnit) => u == .vec || u == .vecSfu
  (match (cost co.ctxs[c].jord.toNat i f).2 with
    | some .muldiv => co.unitHeld c (· == .muldiv)
    | some _ => co.unitHeld c vec
    | none => false) || (usesSfu i && co.sfu != 0)

/-! ### The boundary of a context (R375) -/

/-- A failed fetch of an address the context has left is forgotten. -/
def Core.dropStale (co : Core) (c : Fin 8) : Core :=
  { co with rfaults := co.rfaults.filter fun r => !(r.fetch && r.ctx == c && r.eaddr != co.ctxs[c].hart.pc.setWidth 64) }

/-- The next instruction of context c: its fetch, its decoding, its issue (R375 item 4). The answer's `issued` says that the clock's
issue slot was taken, `went` that an instruction which took it in an earlier clock went on; where neither holds, only a fetch has
begun. -/
def tryIssue (k : CoreId) (c : Fin 8) (s : State) : Host.Outcome State Fault Refusal :=
  let co := s.core k
  let x := s.ctx k c
  let pc := x.hart.pc
  if !x.wait.begun && (s.pkg (pkgOf k)).retired co.gen pc.toNat then
    .next (if x.undone then s else s.trapCtx k c 0x19 pc (pc.setWidth 64) true)
  else
    let s := if (fetchWord co (!x.sup) pc).isSome || co.fetching c pc then s else s.startFetch k c
    match fetchWord (s.core k) (!x.sup) pc with
    | none => .next s
    | some w =>
      match decode w with
      | none => if x.undone then .next s else .next (s.trapCtx k c 0x01 pc (w.extractLsb' 32 64) true)
      | some i =>
        match i.fields with
        | none => .next s
        | some f =>
          if (s.core k).unitBusy c i f then .next s
          else match exec i { s with cur := .ctx k c, went := false } with
            | .next t => .next (if t.issued || t.went then { t with cur := s.cur } else s)
            | o => o

/-- One context at its boundary: a reply fault, an interrupt, or its next instruction (R375). One that has a fault or an interrupt
to take issues nothing before it. -/
def tryCtx (k : CoreId) (c : Fin 8) (s : State) : Host.Outcome State Fault Refusal :=
  let s := s.modCore k (·.dropStale c)
  let co := s.core k
  let x := s.ctx k c
  match (if x.mayTrap then co.boundaryFault c else none) with
  | some r => .next (s.takeFault k c r)
  | none =>
    match (if x.mayTrap then s.boundaryIrq k c else none) with
    | some e => .next (s.takeIrq k c e)
    | none =>
      match x.wait with
      | .finish _ | .halting _ => .next s
      | _ => if s.dueFirst k c && x.undone then .next s else tryIssue k c s

/-- The contexts in the age order: the first that can takes the clock's issue slot; an instruction that took it in an earlier clock
and waits goes on without it (R263). -/
def tryAll (k : CoreId) : List (Fin 8) → State → Host.Outcome State Fault Refusal
  | [], s => .next s
  | c :: t, s =>
    if !s.issued then
      match tryCtx k c s with
      | .next s => tryAll k t s
      | o => o
    else if (s.ctx k c).wait.begun && !((s.ctx k c).mayTrap && s.dueFirst k c) then
      match tryCtx k c { s with issued := false } with
      | .next u => tryAll k t (if u.issued then s else { u with issued := true })
      | o => o
    else tryAll k t s

/-! ### The rest of a clock -/

/-- A gap or an occupancy falls by one; the last cycle of an occupancy frees its unit (R264). -/
def State.tick (s : State) (k : CoreId) (c : Fin 8) : State :=
  let x := s.ctx k c
  if 1 < x.occ then s.modCtx k c fun x => { x with occ := x.occ - 1 }
  else if x.occ = 1 then s.occEnd k c
  else s.modCtx k c fun x => { x with gap := x.gap - 1 }

/-- Counts at the end of a clock (R68, R129, R361). -/
def Core.endClock (co : Core) (idle : Bool) : Core :=
  let co := co.perfEv 0x01 none
  let co := if idle then co.perfEv 0x04 none else co
  let co := if co.anvRun.isSome then co.perfEv 0x08 none else co
  let co := if co.drayRun.isSome then co.perfEv 0x09 none else co
  let co := if co.sfu ≠ 0 then co.perfEv 0x12 (some co.sfuCtx) else co
  { co with cyc := co.cyc + 1, sfu := co.sfu - 1, slots := co.slots.map fun o => o.map (SlotBuf.advance 64) }

/-- Stall counts, by context, are added to the counters of event 0x05 that count the context (R361). -/
def Core.stalled (co : Core) (n : Fin 8 → Nat) : Core :=
  { co with
    perf := co.perf.map fun p =>
      if p.en && p.event == 5 then
        let m := (ctxIds.map fun c => if p.ctxs == 0 || p.ctxs.getLsbD c.val then n c else 0).sum
        { p with count := p.count + BitVec.ofNat 48 m, ovf := p.ovf || decide (2 ^ 48 ≤ p.count.toNat + m) }
      else p }

/-- Bank stalls of a cycle (R192, R361): the model keeps no bank timing, so each context's number is a free value (log 75). -/
def State.stalls (s : State) (k : CoreId) : State :=
  if (s.core k).perf.any fun p => p.en && p.event == 5 then
    let s' : State := { s with fresh := s.fresh + 8 }
    s'.modCore k (·.stalled fun c => Config.freeNat (s.fresh + c.val))
  else s

/-- The switch-away moves of a clock (R263). -/
def Core.moveTail (co : Core) : Core := { co.tail.foldl Core.moveEnd co with tail := [] }

/-- The clock after its issue slot: the switch-away moves, the contexts of `busy` go on through their occupancy or gap, launches of
counters leave, and the die's flags are gathered every 64 cycles (R72, R263, R264, R356). -/
def clockRest (k : CoreId) (busy : List (Fin 8)) (s : State) : Host.Outcome State Fault Refusal :=
  let s := busy.foldl (fun s c => s.tick k c) (s.modCore k (·.moveTail))
  let fires := ((List.range 16).map (Fin.ofNat 16)).filter fun n =>
    (s.core k).ctrs[n].canFire || (s.core k).ctrs[n].pendn != 0
  let s := fires.foldl (fun s n => s.fireLaunch (.loc k n)) s
  let last := (s.core k).cyc.toNat % 64 == 63
  let s := (s.modCore k (·.endClock (!s.issued))).stalls k
  if last then execDflagsUpdate (dieOf k) (BitVec.allOnes 40) s else .next s

/-- The contexts whose occupancy or gap runs. -/
def Core.inGap (co : Core) : List (Fin 8) := ctxIds.filter fun c => co.ctxs[c].occ != 0 || co.ctxs[c].gap != 0

/-- Failing replies that waited at the interface enter the list as it has room (R374). -/
def State.relist (s : State) (k : CoreId) : State :=
  ((s.core k).accs.filter fun a => a.kind != .xlate && a.failure.isSome && a.parts.all (·.stage.settled)).foldl
    (fun s a => s.finish k a.id) s

/-- Elements that stood at a full parking pool are tried again (R261). -/
def State.retryPool (s : State) (k : CoreId) : State :=
  (s.core k).accs.foldl (fun s a => a.parts.zipIdx.foldl (fun s e =>
    match e.1.stage with | .missed => s.movePart k a.id e.2 | _ => s) s) s

/-- What comes before issue in a clock: waiting replies enter the list, elements at a full pool are tried again, activations that are
ending free, fill waits are looked at; the issue slot is free. -/
def State.preClock (s : State) (k : CoreId) : State :=
  { ctxIds.foldl (fun s c => (s.endCtx k c).pollFill k c) ((s.relist k).retryPool k) with issued := false }

/-- One clock of core k: at most one context issues; then the rest. A core of a die in reset or without power has none (R418, R423). -/
def cycle (k : CoreId) (s : State) : Host.Outcome State Fault Refusal :=
  if (s.pkg (pkgOf k)).bootst ≠ 0 then .next s else
  let s := s.preClock k
  let co := s.core k
  match tryAll k (co.order.filter co.ready) s with
  | .next s => clockRest k co.inGap s
  | o => o

/-! ### Farriers (R263, R317) -/

/-- A thread can go on: it is busy and outside its occupancy and its gap. -/
def Thread.ready (th : Thread) : Bool := th.busy && th.occ == 0 && th.gap == 0

/-- The word a thread fetches: its own code, or handler memory (R317, R322). -/
def Farrier.word (x : Farrier) (t : Fin 16) : BitVec 96 :=
  let th := x.threads[t]
  bytesWord (memRead (th.code.getD x.hmem) th.hart.pc.toNat 12)

/-- The next instruction of thread t, or the next act of its standard handler. -/
def tryThread (f : FarId) (t : Fin 16) (s : State) : Host.Outcome State Fault Refusal :=
  let th := s.thread f t
  if th.script.isSome then
    let (l, s) := s.popLag
    .next (if l = 0 then s.nrun f t 24 else s.nstep f t)
  else match decode ((s.far f).word t) with
    | none => .next (s.took.kill f t 0x01)
    | some i =>
      match exec i { s with cur := .thread f t, went := false } with
      | .next u => .next (if u.went then { u with cur := s.cur } else if u.issued || !(u.thread f t).busy then { u.took with cur := s.cur } else s)
      | o => o

/-- The first thread that can takes the farrier's issue slot. -/
def tryThreads (f : FarId) : List (Fin 16) → State → Host.Outcome State Fault Refusal
  | [], s => .next s
  | t :: ts, s =>
    match tryThread f t s with
    | .next s => if s.issued then .next s else tryThreads f ts s
    | o => o

/-- The farrier's clock after its issue slot: occupancies, then gaps, that stood at its start fall, and the clock counts. -/
def fclockRest (f : FarId) (x : Farrier) (s : State) : State :=
  s.modFar f fun y =>
    { y with
      cyc := y.cyc + 1,
      threads := Vector.ofFn fun (t : Fin 16) =>
        let th := y.threads[t]
        if x.threads[t].occ ≠ 0 then { th with occ := th.occ - 1 }
        else if x.threads[t].gap = 0 then th else { th with gap := th.gap - 1 } }

/-- One clock of farrier f: a request is dispatched, and one thread issues. Before the boot has verified what it runs it has none
(R418). -/
def fclock (f : FarId) (s0 : State) : Host.Outcome State Fault Refusal :=
  if (s0.pkg (f % 64)).bootst ≠ 0 then .next s0 else
  let s := State.dispatchRun { s0 with issued := false } f
  let x := s.far f
  match tryThreads f (x.order.filter fun t => x.threads[t].ready) s with
  | .next s => .next (fclockRest f x s)
  | o => o

/-! ### Turns (log 6) -/

/-- A word of the opcode table is an instruction, not an event. -/
def isEvent (i : Instr) : Bool := i.fields.isNone

/-- One turn of the agenda. An event leaves `cur` as it was. -/
def turn (t : Turn) (s : State) : Host.Outcome State Fault Refusal :=
  match t with
  | .cycle k => cycle k s
  | .fclock f => fclock f s
  | .event i =>
    if isEvent i then
      match exec i s with
      | .next u => .next { u with cur := s.cur }
      | o => o
    else .fault .notAnEvent

/-- The clock of the agent whose turn it is when no turn is listed. -/
def ownClock (s : State) : Host.Outcome State Fault Refusal :=
  match s.cur with
  | .ctx k _ => cycle k s
  | .thread f _ => fclock f s

/-! ### Placing a first instruction (log 5) -/

/-- A word of the farrier group, which only a farrier decodes (R51). -/
def farWord (w : BitVec 96) : Bool := decide (0x200 ≤ (w.extractLsb' 86 10).toNat)

/-- The context made busy and first in the age order, with a bundle that holds the word at its pc. -/
def State.placeCtx (s : State) (k : CoreId) (c : Fin 8) (w : BitVec 96) : State :=
  let pc := (s.ctx k c).hart.pc.toNat
  let va := pc / 192 * 192
  let code := List.replicate (pc - va) 0 ++ wordBytes w ++ List.replicate (180 - (pc - va)) 0
  let s := { s with agenda := [], cur := .ctx k c }.modPkg (pkgOf k) fun x => { x with bootst := 0 }
  s.modCore k fun co =>
    { co.modCtx c fun x =>
        { x with pool := .busy, occ := 0, gap := 0, unit := none, wait := .none, flight := [], fwdIn := 0, inEntry := false } with
      ic := ⟨va, true, code⟩ :: co.ic.filter fun l => l.va != va,
      order := c :: co.order.erase c, pre := {}, sfu := 0,
      rfaults := co.rfaults.filter fun r => r.ctx != c }

/-- The thread made busy with a message, first in the order, with the word at its pc in handler memory. -/
def State.placeThread (s : State) (f : FarId) (t : Fin 16) (w : BitVec 96) : State :=
  let pc := (s.thread f t).hart.pc.toNat
  let s := { s with agenda := [], cur := .thread f t }.modPkg (f % 64) fun x => { x with bootst := 0 }
  let m : FMsg := { uid := 0, ty := 0x00, blk := 0, region := 0, prot := 0, sup := true, acc := true, die := 0, pkg := f % 64, party := .none }
  let s := s.modFar f fun x =>
    { x with
      hmem := memWrite x.hmem pc ((wordBytes w).map some), order := t :: x.order.erase t, reqs := [] }
  s.modThread f t fun th =>
    { th with busy := true, msg := some (th.msg.getD m), fcurb := max 1 th.fcurb, gap := 0, script := none, code := none, flight := [] }

/-- The word placed where the next step fetches: at the context or thread of `cur`, or, for a word of the other kind of
processor, at context 0 of core 1 or thread 0 of farrier 0. -/
def State.placeWord (s : State) (w : BitVec 96) : State :=
  match s.cur, farWord w with
  | .ctx k c, false => s.placeCtx k c w
  | .ctx _ _, true => s.placeThread 0 0 w
  | .thread _ _, false => s.placeCtx 1 0 w
  | .thread f t, true => s.placeThread f t w

end Sys2Proof.Machine
end

