-- ==== Sys2Proof/Safety.lean ====
section
/-! DEFINITION. Safety.lean: what a run of the device counts as safe, and the terms in which the statements say what one
instruction leaves: `Ready`, `RunsTo`, `Traps` and their kin for a farrier's thread. -/

namespace Sys2Proof.Machine

/-- A step that ends in a state, and not in a fault or a refusal. -/
def Proceeds (s : State) : Prop := ∃ t, step s = .next t

/-! ### One instruction of a core context -/

/-- Nothing holds the instruction `i`, with fields `f`, of context `c` of core `k` in `s`: it is this context's turn, no window that
has run out and no forwarded load holds it (R31, R25), no check of its word fails (R46, R48), its guard holds (R47), and, where it
issues only after every earlier instruction, they are complete (R48). -/
structure Eligible (k : CoreId) (c : Fin 8) (i : Instr) (f : Fields) (s : State) : Prop where
  turn      : s.cur = .ctx k c
  window    : (s.ctx k c).windowWait = false
  forwarded : (s.ctx k c).fwdIn = 0
  word      : wordCause i f s = none
  lookahead : (s.ctx k c).lkchk = true →
    lkBroken (s.ctx k c) (.c f.hd.gc :: readsOf (s.ctx k c).jord.toNat i f) (writesOf (s.ctx k c).jord.toNat i f) = none
  guarded   : (s.ctx k c).hart.guard f.hd = true
  alone     : serial i = true → (s.ctx k c).undone = false

/-- The instruction has its effect in `s`, and its context is in no instruction that waits: it issues. -/
structure Ready (k : CoreId) (c : Fin 8) (i : Instr) (f : Fields) (s : State) : Prop extends Eligible k c i f s where
  anew : (s.ctx k c).wait = .none

/-- A context without what issue alone counts: windows, gap and occupancy (R31, R264). -/
def Ctx.arch (x : Ctx) : Ctx := { x with flight := [], gap := 0, occ := 0, unit := none, swEnd := false }

/-- A core without its contexts and what issue alone counts: the age order, the performance counters and the acceptance
interval of the special-function unit (R263, R361, R129). -/
def Core.apart (co : Core) : Core :=
  { co with ctxs := Vector.replicate 8 {}, order := [], tail := [], perf := Vector.replicate 8 {}, sfu := 0, sfuCtx := 0 }

/-- A state without its cores and the model's own counters. -/
def State.around (s : State) : State := { s with cores := [], issued := false, went := false, lag := [], ids := 0, fresh := 0 }

/-- Nothing differs outside context `c` of core `k`, but for what issue counts. -/
structure OnlyCtx (k : CoreId) (c : Fin 8) (s t : State) : Prop where
  cores : ∀ j, j ≠ k → t.core j = s.core j
  core  : (t.core k).apart = (s.core k).apart
  ctxs  : ∀ d, d ≠ c → t.ctx k d = s.ctx k d
  rest  : t.around = s.around

/-- The outcome is a next state in which the context is `x` and all else is as in `s`. -/
def RunsTo (k : CoreId) (c : Fin 8) (x : Ctx) (s : State) (o : Host.Outcome State Fault Refusal) : Prop :=
  ∃ t, o = .next t ∧ t.issued = true ∧ (t.ctx k c).arch = x.arch ∧ OnlyCtx k c s t

/-- The outcome is a next state: `s` with the context gone on to its next instruction. -/
def GoesOn (k : CoreId) (c : Fin 8) (s : State) (o : Host.Outcome State Fault Refusal) : Prop :=
  RunsTo k c (s.ctx k c).advance s o

/-- An instruction that issued in an earlier clock completes, outside the issue slot: the context is `x`, and all else as in `s`. -/
def Resumes (k : CoreId) (c : Fin 8) (x : Ctx) (s : State) (o : Host.Outcome State Fault Refusal) : Prop :=
  ∃ t, o = .next t ∧ t.went = true ∧ (t.ctx k c).arch = x.arch ∧ OnlyCtx k c s t

/-- A context with other general and condition registers. -/
def Ctx.withHart (x : Ctx) (h : Hart) : Ctx := { x with hart := h }
/-- A context at another address. -/
def Ctx.at (x : Ctx) (pc : PcW) : Ctx := { x with hart := { x.hart with pc := pc } }

/-- No entry here is a double fault (R372): the context is outside its core's entry bundles, or in user mode, and not between a
save or restore entry and its `pdone`. -/
def State.faultsOnce (s : State) (k : CoreId) (c : Fin 8) : Prop := s.doubleFault k c = false

/-- The state after the normal entry of a trap (R371), as fields: the record, the mode, the vector. -/
structure Entered (x : Ctx) (evec : PcW) (cause : Cause) (epc : PcW) (eaddr : W64) (y : Ctx) : Prop where
  epc    : y.epc = epc
  ecause : y.ecause = cause
  eaddr  : y.eaddr = eaddr
  pmode  : y.pmode = x.sup
  pien   : y.pien = x.ien
  ien    : y.ien = false
  sup    : y.sup = true
  pc     : y.hart.pc = evec
  g      : y.hart.g = x.hart.g
  c      : y.hart.c = x.hart.c
  v      : y.v = x.v ∧ y.vs = x.vs ∧ y.m = x.m ∧ y.z = x.z
  loops  : y.lc = x.lc ∧ y.ls = x.ls ∧ y.le = x.le
  csrs   : y.jord = x.jord ∧ y.fround = x.fround ∧ y.fflags = x.fflags ∧ y.mmrev = x.mmrev ∧ y.srctr = x.srctr ∧
    y.escratch = x.escratch ∧ y.lkchk = x.lkchk

/-- The outcome is a next state in which the context has taken a trap; every other context, the core's memory and everything
outside the core is as before. -/
def Traps (k : CoreId) (c : Fin 8) (cause : Cause) (epc : PcW) (eaddr : W64) (s : State)
    (o : Host.Outcome State Fault Refusal) : Prop :=
  ∃ t, o = .next t ∧ t.issued = true ∧ Entered (s.ctx k c) (s.core k).evec cause epc eaddr (t.ctx k c) ∧
    (∀ d, d ≠ c → t.ctx k d = s.ctx k d) ∧ (∀ j, j ≠ k → t.core j = s.core j) ∧ (t.core k).loc = (s.core k).loc ∧
    t.mem = s.mem ∧ t.pkgs = s.pkgs

/-- The next choice of the stream is prompt: the act is performed at once (log 7). -/
def State.prompt (s : State) : Prop := s.lag.headD 0 = 0

/-! ### One instruction of a farrier's thread -/

/-- The instruction of thread `t` of farrier `fr` has its effect in `s` (R317, R326): its budget is not used up, no long-latency
result is due, its word and its guard allow it, and the next address lies in handler memory. -/
structure FarReady (fr : FarId) (t : Fin 16) (i : Instr) (f : Fields) (s : State) : Prop where
  turn    : s.cur = .thread fr t
  budget  : (s.thread fr t).fcurb ≠ 0
  landed  : (s.thread fr t).flight = []
  word    : wordCause i f s = none
  guarded : (s.thread fr t).hart.guard f.hd = true

/-- A thread after it has retired one instruction and stands at `pc` (R317). -/
def Thread.retire (x : Thread) (gap : Nat) (pc : PcW) : Thread :=
  { x with fcurb := x.fcurb - 1, retired := x.retired + 1, gap := gap, hart := { x.hart with pc := pc } }

/-- A thread without what issue alone counts: results in flight and occupancy (R101, R317). -/
def Thread.arch (x : Thread) : Thread := { x with flight := [], occ := 0 }

/-- Nothing differs outside thread `t` of farrier `fr`, but for the farrier's age order. -/
structure OnlyThread (fr : FarId) (t : Fin 16) (s u : State) : Prop where
  cores   : u.cores = s.cores
  mem     : u.mem = s.mem
  side    : u.side = s.side
  dies    : u.dies = s.dies
  threads : ∀ q, q ≠ t → u.thread fr q = s.thread fr q
  far     : (u.far fr).dir = (s.far fr).dir ∧ (u.far fr).scratch = (s.far fr).scratch ∧ (u.far fr).hmem = (s.far fr).hmem ∧
    (u.far fr).reqs = (s.far fr).reqs ∧ (u.far fr).reps = (s.far fr).reps ∧ (u.far fr).holds = (s.far fr).holds ∧
    (u.far fr).killed = (s.far fr).killed ∧ (u.far fr).owed = (s.far fr).owed ∧ (u.far fr).sets = (s.far fr).sets ∧ (u.far fr).fdirb = (s.far fr).fdirb ∧
    (u.far fr).fdirn = (s.far fr).fdirn ∧ (u.far fr).cyc = (s.far fr).cyc
  fars    : ∀ q, q ≠ fr → u.far q = s.far q
  regions : ∀ p, (u.pkg p).regions = (s.pkg p).regions

/-- The outcome is a next state in which the thread is `x` and all else is as in `s`. -/
def FarRunsTo (fr : FarId) (t : Fin 16) (x : Thread) (s : State) (o : Host.Outcome State Fault Refusal) : Prop :=
  ∃ u, o = .next u ∧ u.issued = true ∧ (u.thread fr t).arch = x.arch ∧ OnlyThread fr t s u

/-- The outcome is a next state: `s` with the thread gone on to the next word (R317); that word lies in handler memory. -/
def FarGoesOn (fr : FarId) (t : Fin 16) (f : Fields) (s : State) (o : Host.Outcome State Fault Refusal) : Prop :=
  ((s.thread fr t).hart.pc + 12).toNat ≤ 0xFFF0 →
    FarRunsTo fr t ((s.thread fr t).retire f.hd.gap.toNat ((s.thread fr t).hart.pc + 12)) s o

/-- The outcome is a next state in which the handler has been killed with a cause (R327): its thread is free, and where it ran for a
block the block is HELD, its message is kept, and notice 0xF11 names the farrier, the cause and the block. -/
def Kills (fr : FarId) (t : Fin 16) (cause : Cause) (s : State) (o : Host.Outcome State Fault Refusal) : Prop :=
  ∃ u, o = .next u ∧ (u.thread fr t).busy = false ∧ ∀ m, (s.thread fr t).msg = some m → (u.thread fr t).msg = none ∧
    (m.ty ≠ 0x38 → (u.dirOf fr m.blk).held = true ∧ ∃ e ∈ (u.far fr).killed, e.blk = m.blk ∧ e.ty = m.ty) ∧
    ∃ n : Nat, ∃ r : RSlot, (n, r) ∈ (u.pkg (fr % 64)).notices ∧ r.msg.ty = 0xF11 ∧ r.msg.target = dieServer (farDie fr) ∧
      r.msg.payload.take 3 = [BitVec.ofNat 64 fr, cause.setWidth 64, BitVec.ofNat 64 (m.blk * 64)]

/-! ### Tables of the scalar group, as the manual's -/

/-- The instructions of the binary mould and their results from the two sources (R102, R103). -/
def binaryTable : List ((Fields → Instr) × (W64 → W64 → W64)) :=
  [(Instr.add, fun b c => b + c), (Instr.sub, fun b c => b - c), (Instr.mul, fun b c => b * c),
   (Instr.mulh, fun b c => (b.signExtend 128 * c.signExtend 128).extractLsb' 64 64),
   (Instr.mulhn, fun b c => (b.setWidth 128 * c.setWidth 128).extractLsb' 64 64),
   (Instr.div, fun b c => if c = 0 then BitVec.allOnes 64 else b.sdiv c),
   (Instr.divn, fun b c => if c = 0 then BitVec.allOnes 64 else b.udiv c),
   (Instr.remI, fun b c => if c = 0 then b else b.srem c), (Instr.remn, fun b c => if c = 0 then b else b.umod c),
   (Instr.andI, fun b c => b &&& c), (Instr.orI, fun b c => b ||| c), (Instr.xorI, fun b c => b ^^^ c),
   (Instr.andn, fun b c => b &&& ~~~c), (Instr.shl, fun b c => b <<< (c.toNat % 64)),
   (Instr.shr, fun b c => b >>> (c.toNat % 64)), (Instr.sra, fun b c => b.sshiftRight (c.toNat % 64)),
   (Instr.minI, fun b c => if b.toInt ≤ c.toInt then b else c), (Instr.maxI, fun b c => if b.toInt ≤ c.toInt then c else b),
   (Instr.minn, fun b c => if b.toNat ≤ c.toNat then b else c), (Instr.maxn, fun b c => if b.toNat ≤ c.toNat then c else b)]

/-- The compares and their relations (R110). -/
def compareTable : List ((Fields → Instr) × (W64 → W64 → Bool)) :=
  [(Instr.ceq, fun b c => decide (b = c)), (Instr.cne, fun b c => decide (b ≠ c)),
   (Instr.clt, fun b c => decide (b.toInt < c.toInt)), (Instr.cle, fun b c => decide (b.toInt ≤ c.toInt)),
   (Instr.cltn, fun b c => decide (b.toNat < c.toNat)), (Instr.clen, fun b c => decide (b.toNat ≤ c.toNat))]

/-- The condition operations (R111). -/
def conditionTable : List ((Fields → Instr) × (Bool → Bool → Bool)) :=
  [(Instr.cand, fun b c => b && c), (Instr.cor, fun b c => b || c), (Instr.cxor, fun b c => xor b c)]

/-- What each instruction on the registers of its hart alone leaves there (R52, R102-R112), by the tables above and the named
functions of the rules. -/
def hartEffects : List ((Fields → Instr) × (Fields → Hart → Hart)) :=
  (binaryTable.map fun p => (p.1, fun f h => h.dest f.a (p.2 (h.opd f.b) (h.src2 f)))) ++
  (compareTable.map fun p => (p.1, fun f h => h.destC f.a (p.2 (h.opd f.b) (h.src2 f)))) ++
  (conditionTable.map fun p =>
    (p.1, fun f h => h.destC f.a (p.2 (xor (h.opd f.b != 0) (f.bit 17)) (xor (h.opd f.c != 0) (f.bit 18))))) ++
  [(Instr.nop, fun _ h => h), (Instr.clz, fun f h => h.dest f.a (fnClz (h.opd f.b))),
   (Instr.ctz, fun f h => h.dest f.a (fnCtz (h.opd f.b))), (Instr.popc, fun f h => h.dest f.a (fnPopc (h.opd f.b))),
   (Instr.extI, fun f h => h.dest f.a (fnExt (f.bits 17 6) (f.bits 23 6) (f.bit 29) (h.opd f.b))),
   (Instr.li, fun f h => h.dest f.a (f.mi.signExtend 64)),
   (Instr.lih, fun f h => h.dest f.a (f.mi ++ (h.opd f.a).extractLsb' 0 32)),
   (Instr.sel, fun f h =>
     h.dest f.a (if xor (h.cond (Fin.ofNat 8 (f.bits 17 3))) (f.bit 20) then h.opd f.b else h.opd f.c)),
   (Instr.mkadr, fun f h => h.dest f.a (fnMkadr (f.bit 17) (h.opd f.b) (h.opd f.c))),
   (Instr.adrx, fun f h => h.dest f.a (fnAdrx (f.bits 17 2) (h.opd f.b))),
   (Instr.cset, fun f h =>
     if f.a.isNone then { h with c := ((h.opd f.b).setWidth 8 &&& 0xFE) ||| (h.c &&& 1) } else h.destC f.a (h.opd f.b != 0)),
   (Instr.cget, fun f h => h.dest f.a (if f.b.isNone then (h.c ||| 1).setWidth 64 else h.opd f.b))]

/-! ### Vector registers -/

/-- The outcome of a masked instruction with one result element per lane (R128): destination `f.a` of the context `x`, elements
`g`, their flags; a disabled element is zero with ZR and unchanged without. -/
def LanesRun (k : CoreId) (c : Fin 8) (f : Fields) (x : Ctx) (g : Nat → Nat × Fl) (s : State)
    (o : Host.Outcome State Fault Refusal) : Prop :=
  let w := tyWidth f.ty
  let d := vIx f.a
  let fl := (x.lanes f).foldl (fun (a : Fl) e => a ||| (g e).2) 0
  ∃ y : V1024, RunsTo k c (({ x with v := x.v.set d.val y }).raiseFlags (orFlags 0 fl)).advance s o ∧
    ∀ e < 1024 / w, elemAt y w e = if enabled (x.mask f.mkn) w e then (g e).1 else if f.zr then 0 else elemAt x.v[d] w e

/-- The outcome of a masked instruction on jet groups (R65, R151, R153): coefficients 0 to K of every enabled lane, zero in the
registers above, the flags of coefficient n in group n of fflags, and nothing else of the context but srctr, which `x` gives. -/
def GroupRuns (k : CoreId) (c : Fin 8) (f : Fields) (x : Ctx) (g : Nat → List (Nat × Fl)) (s : State)
    (o : Host.Outcome State Fault Refusal) : Prop :=
  let w := tyWidth f.ty
  let K := x.jord.toNat
  let regs := groupRegs K f.a
  ∃ y : Ctx, RunsTo k c y.advance s o ∧ y = { x with v := y.v, fflags := y.fflags } ∧
    (∀ r : Fin 32, r ∉ regs → y.v[r] = x.v[r]) ∧
    (∀ n < jetG K, ∀ e < 1024 / w, elemAt y.v[regs.getD n 0] w e =
      if K < n then 0 else if enabled (x.mask f.mkn) w e then ((g e).getD n (0, 0)).1
      else if f.zr then 0 else elemAt x.v[regs.getD n 0] w e) ∧
    ∀ j < 40, y.fflags.getLsbD j = (x.fflags.getLsbD j || (x.lanes f).any fun e =>
      (g e).zipIdx.any fun r => (orFlags r.2 r.1.2).getLsbD j)

/-- A context after an instruction that rounds has drawn (R93). -/
def Ctx.drawn (x : Ctx) (f : Fields) : Ctx := if effRnd f.rnd x.fround = 5 then { x with srctr := x.srctr + 1 } else x

/-- The series instructions, with their rules and whether their form rounds (R131-R135, R158-R163). -/
def seriesTable : List ((Fields → Instr) × Bool × Rule) :=
  [(Instr.vadd, true, ruleAdd), (Instr.vsub, true, ruleSub), (Instr.vmul, true, ruleMul), (Instr.vfma, true, ruleFma),
   (Instr.vfms, true, ruleFms), (Instr.vfnm, true, ruleFnm), (Instr.vdiv, true, ruleDiv), (Instr.vmin, false, ruleMinMax false),
   (Instr.vmax, false, ruleMinMax true),
   (Instr.vabs, false, fun r k a b c => if k = 0 then [(absCode r.t (b.getD 0 0), 0)] else ruleAbs r k a b c),
   (Instr.vneg, false, ruleNeg), (Instr.vsqrt, true, ruleSqrt), (Instr.vrcp, true, ruleRcp), (Instr.vrsq, true, ruleRsq),
   (Instr.vexp, true, ruleExp), (Instr.vlog, true, ruleLog), (Instr.vsin, true, ruleSinCos false),
   (Instr.vcos, true, ruleSinCos true), (Instr.vtanh, true, ruleAux .tanh), (Instr.vsigm, true, ruleAux .sigm)]

/-- The value of a lane of an integer source, and the element an exact integer becomes (R136): wrapped, or saturated with SAT. -/
def Ctx.intAt (x : Ctx) (f : Fields) (o : Opd) (e : Nat) : Int := decodeInt f.ty.toNat (tyWidth f.ty) (x.src f.ty o e)
def intElem (f : Fields) (n : Int) : Nat × Fl :=
  if f.bit 18 then
    let r := intRange f.ty.toNat
    (wrap (tyWidth f.ty) (max r.1 (min r.2 n)), if n < r.1 ∨ r.2 < n then flOF else 0)
  else (wrap (tyWidth f.ty) n, 0)

/-- The integer, bitwise and moving instructions lane by lane (R136, R143). -/
def laneTable : List ((Fields → Instr) × (Ctx → Fields → Nat → Nat × Fl)) :=
  let bits := fun (op : Nat → Nat → Nat) (x : Ctx) (f : Fields) (e : Nat) => (op (x.src f.ty f.b e) (x.src f.ty f.c e), (0 : Fl))
  [(Instr.viadd, fun x f e => intElem f (x.intAt f f.b e + x.intAt f f.c e)),
   (Instr.visub, fun x f e => intElem f (x.intAt f f.b e - x.intAt f f.c e)),
   (Instr.vimul, fun x f e => intElem f (x.intAt f f.b e * x.intAt f f.c e)),
   (Instr.vand, bits (· &&& ·)), (Instr.vor, bits (· ||| ·)), (Instr.vxor, bits (· ^^^ ·)),
   (Instr.vshl, fun x f e => (x.src f.ty f.b e * 2 ^ (x.src f.ty f.c e % tyWidth f.ty) % 2 ^ tyWidth f.ty, 0)),
   (Instr.vshr, fun x f e =>
     let sh := x.src f.ty f.c e % tyWidth f.ty
     (if f.ty = 2 ∨ f.bit 19 then x.src f.ty f.b e / 2 ^ sh
      else wrap (tyWidth f.ty) (signExt (tyWidth f.ty) (x.src f.ty f.b e) / (2 ^ sh : Nat)), 0)),
   (Instr.vperm, fun x f e =>
     (elemAt x.v[vIx f.b] (tyWidth f.ty) (elemAt x.v[vIx f.c] (tyWidth f.ty) e % (1024 / tyWidth f.ty)), 0)),
   (Instr.vslide, fun x f e =>
     let j := (e : Int) + (x.hart.opd f.c).toInt
     (if 0 ≤ j ∧ j < (1024 / tyWidth f.ty : Nat) then elemAt x.v[vIx f.b] (tyWidth f.ty) j.toNat else 0, 0))]

/-- The jet instructions that write a whole group: whether their form rounds, and the coefficients of a lane (R167). -/
def jetTable : List ((Fields → Instr) × Bool × (State → Ctx → Fields → Nat → List (Nat × Fl))) :=
  let upTo := fun (x : Ctx) (g : Nat → Nat) => (List.range (x.jord.toNat + 1)).map fun n => (g n, (0 : Fl))
  let cf := fun (x : Ctx) (f : Fields) (e n : Nat) => (x.coefs x.jord.toNat f.ty f.b e).getD n 0
  [(Instr.jseed, false, fun _ x f e => upTo x fun n =>
      if n = 0 then x.src f.ty f.b e else if n = 1 then (if f.c.isNone then oneOf f.ty else x.src f.ty f.c e) else 0),
   (Instr.jconst, false, fun _ x f e => upTo x fun n => if n = 0 then x.src f.ty f.b e else 0),
   (Instr.jshift, false, fun _ x f e => upTo x fun n =>
      let j := (n : Int) - (x.hart.opd f.c).toInt
      if 0 ≤ j ∧ j ≤ x.jord.toNat then cf x f e j.toNat else 0),
   (Instr.jtrunc, false, fun _ x f e => upTo x fun n => if n ≤ (x.hart.opd f.c).toNat then cf x f e n else 0),
   (Instr.jdiff, true, fun s x f e => (List.range (x.jord.toNat + 1)).map fun (n : Nat) =>
      if n < x.jord.toNat then (s.rnd f e).fin n (fvMul (fvInt ((n : Int) + 1)) ((s.rnd f e).val (cf x f e (n + 1)))) else (0, 0)),
   (Instr.jint, true, fun s x f e => (List.range (x.jord.toNat + 1)).map fun (n : Nat) =>
      if n = 0 then (if f.c.isNone then 0 else x.src f.ty f.c e, 0)
      else (s.rnd f e).fin n (fvDiv ((s.rnd f e).val (cf x f e (n - 1))) (fvInt n)))]

/-! ### A core at rest, and its local memory -/

/-- Nothing of core `k` is under way and every choice is prompt: an access of context `c` is performed within its issue. -/
structure Quiet (k : CoreId) (c : Fin 8) (s : State) : Prop where
  lag     : s.lag = []
  wait    : (s.ctx k c).wait = .none
  flight  : (s.ctx k c).flight = []
  fences  : (s.ctx k c).fences = []
  pend    : (s.ctx k c).pend = []
  accs    : (s.core k).accs = []
  rels    : (s.core k).rels = []
  l1      : (s.core k).l1 = []
  wbs     : (s.core k).wbs = []
  anvil   : (s.core k).anvil = [] ∧ (s.core k).anvRun = none ∧ (s.core k).drains = []
  dray    : (s.core k).dray = [] ∧ (s.core k).drayRun = none ∧ (s.core k).drayOut = [] ∧ (s.core k).drayBad = []
  queues  : (s.core k).wiq = [] ∧ (s.core k).ports = [] ∧ (s.core k).refused = [] ∧ (s.core k).rfaults = []
  retry   : (s.core k).retry = Vector.replicate 8 none
  pre     : (s.core k).pre.step = 0
  plain   : (s.core k).frozen = false ∧ (s.core k).fused = false
  fab     : s.fab = []
  form    : memWf s.mem = true ∧ memWf (s.core k).loc = true

/-- The stored bytes of a list of writes from `off` on, as one line after another counts them. -/
def storedLines (off : Nat) (bs : List (Option Byte)) : List (List Nat) :=
  if bs.isEmpty then [[]]
  else ((List.range ((bs.length + 127) / 128)).map fun p => writtenOffs (off + 128 * p) ((bs.drop (128 * p)).take 128)).filter
    fun l => !l.isEmpty

/-- What a store to the core's own local memory leaves: the bytes and descriptions given, every other byte and description as
before, the window counts, and the context `y`. -/
structure Stored (k : CoreId) (c : Fin 8) (y : Ctx) (off : Nat) (bs : List (Option Byte)) (descs : Nat → Option Desc)
    (s t : State) : Prop where
  ctx    : (t.ctx k c).arch = y.arch
  bytes  : ∀ a, memGet (t.core k).loc a = match (if off ≤ a then bs[a - off]? else none) with
    | some (some b) => b
    | _ => memGet (s.core k).loc a
  descs  : ∀ j, (t.core k).locDesc (64 * j) = (descs j).getD ((s.core k).locDesc (64 * j))
  counts : (t.core k).ctrs = ((storedLines off bs).foldl Core.countLoc (s.core k)).ctrs
  core   : (t.core k).apart = { (s.core k).apart with
    loc := (t.core k).loc, side := (t.core k).side, ctrs := (t.core k).ctrs, slots := (t.core k).slots }
  ctxs   : ∀ d, d ≠ c → t.ctx k d = s.ctx k d
  cores  : ∀ j, j ≠ k → t.core j = s.core j
  rest   : t.around = s.around

/-- The outcome is a next state that `Stored` describes. -/
def StoresTo (k : CoreId) (c : Fin 8) (y : Ctx) (off : Nat) (bs : List (Option Byte)) (descs : Nat → Option Desc) (s : State)
    (o : Host.Outcome State Fault Refusal) : Prop :=
  ∃ t, o = .next t ∧ t.issued = true ∧ Stored k c y off bs descs s t

/-- The atomics on one word: the value left from the word `m`, the operand `x` and the comparand `d`, at width `w` (R247). -/
def atomicTable : List ((Fields → Instr) × (Nat → Nat → Nat → Nat → Option Nat)) :=
  [(Instr.aadd, fun w m x _ => some ((m + x) % 2 ^ w)), (Instr.aand, fun _ m x _ => some (m &&& x)),
   (Instr.aor, fun _ m x _ => some (m ||| x)), (Instr.axor, fun _ m x _ => some (m ^^^ x)),
   (Instr.amin, fun w m x _ => some (if signExt w m < signExt w x then m else x)),
   (Instr.amax, fun w m x _ => some (if signExt w m < signExt w x then x else m)),
   (Instr.axchg, fun _ _ x _ => some x), (Instr.acas, fun _ m x d => if m = d then some x else none)]

/-! ### Events -/

/-- No register of a hart and no byte of a memory differs. -/
structure Still (s t : State) : Prop where
  harts : ∀ k c, (t.ctx k c).hart = (s.ctx k c).hart
  locs  : ∀ k, (t.core k).loc = (s.core k).loc
  mem   : t.mem = s.mem

/-- An event ends in a state in which no hart and no memory has changed and of which `p` holds. -/
def Quietly (s : State) (i : Instr) (p : State → Prop) : Prop := ∃ t, exec i s = .next t ∧ Still s t ∧ p t

/-- The events of the handlers and the message types they stand for (R321, R322, R328, R349, R350). -/
def HandlerEvent (h : (FarId → Fin 16 → Instr) × List Nat) : Prop :=
  h ∈ [(Instr.gets, [0x00]), (Instr.getx, [0x01]), (Instr.wrI, [0x02]), (Instr.atI, [0x03]), (Instr.rgets, [0x04]),
   (Instr.rgetx, [0x05]), (Instr.rwr, [0x06]), (Instr.inv, [0x07]), (Instr.fwd, [0x08]), (Instr.wbk, [0x09]),
   (Instr.push, [0x0A]), (Instr.upd, [0x0B]), (Instr.hsnp, [0x0C]), (Instr.customRequest, (List.range 40).map (· + 0x10)),
   (Instr.initI, [0x38]), (Instr.rebind, [0x3E]), (Instr.rcv, [0x3F])]

end Sys2Proof.Machine
end

