-- ==== Sys2Proof/Certificates/Slice0/Obligations.lean ====
section
/-! DEFINITION. Certificates/Slice0/Obligations.lean: the statements. Each says of which rules of the manual it is. -/

open Sys2Proof Sys2Proof.Machine

/-! ### Scalar group -/

/-- R102, R103, R110, R111, R52, R106, R107, R112: every instruction of the scalar group, ready on a core context, writes its
destination as its rule says, from the operands as they stood, and the context goes on; c0 discards, and nothing else changes. -/
def Clause.ScalarResults : Prop :=
  ∀ p ∈ hartEffects, ∀ (k : CoreId) (c : Fin 8) (f : Fields) (s : State), Ready k c (p.1 f) f s →
    RunsTo k c ((s.ctx k c).withHart (p.2 f (s.ctx k c).hart)).advance s (exec (p.1 f) s)

/-- The same on a farrier's thread (R51, R317). -/
def Clause.ScalarResultsOnFarrier : Prop :=
  ∀ p ∈ hartEffects, ∀ (fr : FarId) (t : Fin 16) (f : Fields) (s : State), FarReady fr t (p.1 f) f s →
    FarGoesOn fr t f (s.modThread fr t fun x => { x with hart := p.2 f x.hart }) (exec (p.1 f) s)

/-- R103, R104, R111, as the rules have them: division truncates toward zero, the remainder has the sign of the dividend, and the two
borderline cases give their results and never trap; the counts of leading zeros, trailing zeros and ones, 64 for a zero operand;
the conditions combined under NB and NC. -/
def Obligations.ScalarRules : Prop :=
  ∀ (k : CoreId) (c : Fin 8) (f : Fields) (s : State),
    let x := s.ctx k c
    let b := x.hart.opd f.b
    let d := x.hart.src2 f
    let corner := b = 0x8000000000000000 ∧ d = BitVec.allOnes 64
    let gives := fun (i : Instr) (p : W64 → Prop) =>
      Ready k c i f s → ∃ v, p v ∧ RunsTo k c (x.withHart (x.hart.dest f.a v)).advance s (exec i s)
    let joins := fun (i : Instr) (op : Bool → Bool → Bool) => Ready k c i f s →
      (WellFormed i → ∃ ra rb rc, f.a = .c ra ∧ f.b = .c rb ∧ f.c = .c rc ∧ f.mi &&& ~~~(0x60000#32) = 0) ∧
      ∀ ra rb rc, f.a = .c ra → f.b = .c rb → f.c = .c rc → RunsTo k c
        (x.withHart (x.hart.setC ra (op (xor (x.hart.cond rb) (f.bit 17)) (xor (x.hart.cond rc) (f.bit 18))))).advance s (exec i s)
    gives (.div f) (fun v => (d = 0 → v = 0xFFFFFFFFFFFFFFFF) ∧ (corner → v = 0x8000000000000000) ∧
      (d ≠ 0 → ¬corner → v.toInt = b.toInt.tdiv d.toInt)) ∧
    gives (.divn f) (fun v => (d = 0 → v = 0xFFFFFFFFFFFFFFFF) ∧ (d ≠ 0 → v.toNat = b.toNat / d.toNat)) ∧
    gives (.remI f) (fun v => (d = 0 → v = b) ∧ (corner → v = 0) ∧
      (d ≠ 0 → v.toInt = b.toInt - b.toInt.tdiv d.toInt * d.toInt ∧ v.toInt.natAbs < d.toInt.natAbs ∧
        (0 ≤ b.toInt → 0 ≤ v.toInt) ∧ (b.toInt ≤ 0 → v.toInt ≤ 0))) ∧
    gives (.remn f) (fun v => (d = 0 → v = b) ∧ (d ≠ 0 → v.toNat = b.toNat % d.toNat)) ∧
    (∀ i ∈ [Instr.clz f, .ctz f, .popc f], WellFormed i → (∃ r, f.a = .g r) ∧ (∃ r, f.b = .g r) ∧ f.c = .none ∧ f.mi = 0) ∧
    gives (.clz f) (fun v => v.toNat ≤ 64 ∧ (∀ j < v.toNat, b.getLsbD (63 - j) = false) ∧
      (v.toNat < 64 → b.getLsbD (63 - v.toNat) = true) ∧ (b = 0 → v = 64)) ∧
    gives (.ctz f) (fun v => v.toNat ≤ 64 ∧ (∀ j < v.toNat, b.getLsbD j = false) ∧ (v.toNat < 64 → b.getLsbD v.toNat = true) ∧
      (b = 0 → v = 64)) ∧
    gives (.popc f) (fun v => v.toNat = ((List.range 64).filter fun j => b.getLsbD j).length) ∧
    joins (.cand f) (fun y z => y && z) ∧ joins (.cor f) (fun y z => y || z) ∧ joins (.cxor f) fun y z => xor y z

/-- R105, R108, R109: the values of the bit field and of the address functions, bit by bit. -/
def Clause.ScalarFunctions : Prop :=
  (∀ (lo wm1 : Nat) (sx : Bool) (x : W64) (j : Nat), j < 64 →
    (fnExt lo wm1 sx x).getLsbD j = if j ≤ wm1 then x.getLsbD (lo + j) else sx && x.getLsbD (lo + wm1)) ∧
  (∀ (rel : Bool) (b c : W64),
    (fnMkadr rel b c).getLsbD 63 = true ∧ (fnMkadr rel b c).getLsbD 62 = rel ∧
    (fnMkadr rel b c).extractLsb' 56 6 = b.extractLsb' 16 6 ∧ (fnMkadr rel b c).extractLsb' 48 8 = b.extractLsb' 8 8 ∧
    (fnMkadr rel b c).extractLsb' 40 8 = b.extractLsb' 0 8 ∧ (fnMkadr rel b c).extractLsb' 17 23 = 0 ∧
    (fnMkadr rel b c).extractLsb' 0 17 = c.extractLsb' 0 17) ∧
  (∀ (rel : Bool) (b c : W64), fnAdrx 0 (fnMkadr rel b c) = (b.extractLsb' 0 22).setWidth 64 ∧
    fnAdrx 1 (fnMkadr rel b c) = (c.extractLsb' 0 17).setWidth 64 ∧ fnAdrx 2 (fnMkadr rel b c) = if rel then 2 else 1) ∧
  (∀ x : W64, x.getLsbD 63 = false → fnAdrx 0 x = 0 ∧ fnAdrx 1 x = (x.extractLsb' 0 57).setWidth 64 ∧ fnAdrx 2 x = 0)

/-- R52, R102, R103, R105, R106, R107, R108, R109, R110, R111, R112: the scalar group on a core context and on a farrier's thread. -/
def Obligations.ScalarResults : Prop := Clause.ScalarResults ∧ Clause.ScalarResultsOnFarrier ∧ Clause.ScalarFunctions

/-! ### Encoding -/

/-- R36, R39, R40, R50: the decoder gives back every legal instruction whose word the encoder writes, with every operand at every
value its encoding admits. -/
def Obligations.DecodeEncode : Prop :=
  ∀ (i : Instr) (f : Fields), i.fields = some f → WellFormed i → decode (encode i) = some i

/-- R36, R42, R46: a word that decodes is the word of a legal instruction, bit for bit; so every other word is refused. -/
def Clause.EncodeDecode : Prop :=
  ∀ (w : BitVec 96) (i : Instr), decode w = some i → WellFormed i ∧ encode i = w ∧ i.fields.isSome

/-- R37: the twelve bytes of a word give the word back, and the low 32 bits come first. -/
def Clause.WordBytes : Prop :=
  ∀ w : BitVec 96, bytesWord (wordBytes w) = w ∧ (wordBytes w).length = 12 ∧
    ∀ j < 12, (wordBytes w)[j]? = some (w.extractLsb' (8 * j) 8)

/-- R36, R37, R42, R46: a word that decodes is the word of one legal instruction, bit for bit and byte for byte. -/
def Obligations.WordsOfInstructions : Prop := Clause.EncodeDecode ∧ Clause.WordBytes

/-- R36, R166, R176, R242, R247, R275, R307, R312, R331, R364: words written out from the manual's encodings decode to the
instructions they stand for. -/
def Obligations.DecodedWords : Prop :=
  decode 0x3000000200210E0000000079#96 = some (.jseed ⟨⟨false, 0, 0, false, 0, 0⟩, .v 0, .v 16, .none, 0x79⟩) ∧
  decode 0x4000400800002004001C0007#96 = some (.amma ⟨⟨false, 0, 1, false, 0, 0⟩, .z 0, .g 2, .g 4, 0x1C0007⟩) ∧
  decode 0x6100000002004E0002000009#96 = some (.dgath ⟨⟨false, 0, 0, false, 0, 0⟩, .g 2, .g 4, .none, 0x2000009⟩) ∧
  decode 0x680000000100400800080000#96 = some (.carm ⟨⟨false, 0, 0, false, 0, 0⟩, .g 1, .g 4, .g 8, 0x80000⟩) ∧
  decode 0x7180000001E00E0000000C00#96 = some (.replay ⟨⟨false, 0, 0, false, 0, 0⟩, .g 1, .none, .none, 0xC00⟩) ∧
  decode 0x8080000E00000C0300020000#96 = some (.tagwr ⟨⟨false, 0, 0, false, 0, 0⟩, .none, .g 0, .imm 3, 0x20000⟩) ∧
  decode 0x7280000001CAAC70000A0000#96 = some (.qcfgCplan ⟨⟨false, 0, 0, false, 0, 0⟩, .g 1, .imm 0xAA, .imm 0x70, 0xA0000⟩) ∧
  decode 0x550080000500200300020009#96 = some (.afadd ⟨⟨false, 0, 2, false, 0, 0⟩, .g 5, .g 2, .g 3, 0x20009⟩) ∧
  decode 0x2000014203201202000000F9#96 = some (.vadd ⟨⟨false, 0, 0, false, 0, 5⟩, .v 3, .v 1, .v 2, 0xF9⟩) ∧
  -- EXT is not zero; an index past its class; opcode 0x029 is reserved
  decode 0x000000100E00E00E00000000#96 = none ∧ decode 0x0040000014001002000000000#96 = none ∧
  decode 0x0A4000000000100200000000#96 = none

/-! ### Steps -/

/-- R201, R263, R264, R375: where, on a package that has booted and after what comes before issue in a clock, the instruction cache holds a word that decodes to `i` at
the program counter of the first ready context of the core, and no reply fault, interrupt, retired range or unit stands before
it, a step is `exec i` at that context, and then the rest of the clock: instructions of the other ready contexts that wait since an
earlier clock go on, where there are any, and counts, gaps and occupancies follow. -/
def Obligations.StepRunsDecoded : Prop :=
  ∀ (k : CoreId) (c d : Fin 8) (cs : List (Fin 8)) (w : BitVec 96) (i : Instr) (f : Fields) (s0 s t : State),
    s0.agenda = [] → s0.cur = .ctx k d → (s0.pkg (pkgOf k)).bootst = 0 → s = s0.preClock k → (∀ r, (s.ctx k c).wait ≠ .finish r ∧ (s.ctx k c).wait ≠ .halting r) →
    (s.core k).order.filter (s.core k).ready = c :: cs → (s.core k).rfaults = [] → s.irqOf k = none →
    ((s.ctx k c).wait.begun = true ∨ (s.pkg (pkgOf k)).retired (s.core k).gen (s.ctx k c).hart.pc.toNat = false) →
    fetchWord (s.core k) (!(s.ctx k c).sup) (s.ctx k c).hart.pc = some w → decode w = some i → i.fields = some f →
    (s.core k).unitBusy c i f = false →
    exec i { s.modCore k (·.dropStale c) with cur := .ctx k c, went := false } = .next t → t.issued = true →
    (∀ u, tryAll k cs { t with cur := s.cur } = .next u → step s0 = clockRest k (s.core k).inGap u) ∧
    ((∀ e ∈ cs, (t.ctx k e).wait.begun = false) → step s0 = clockRest k (s.core k).inGap { t with cur := s.cur })

/-- R320, R317: where the word at the program counter of the first ready thread of a farrier decodes to `i`, a step is `exec i`
at that thread, after the dispatch of this clock, and then the rest of the clock. -/
def Obligations.FarrierStepRunsDecoded : Prop :=
  ∀ (fr : FarId) (t : Fin 16) (ts : List (Fin 16)) (i : Instr) (s s1 u : State),
    s.agenda = [] → (∃ q, s.cur = .thread fr q) → (s.pkg (fr % 64)).bootst = 0 → s1 = State.dispatchRun { s with issued := false } fr →
    (s1.far fr).order.filter (fun q => (s1.far fr).threads[q].ready) = t :: ts → (s1.thread fr t).script = none →
    decode ((s1.far fr).word t) = some i → exec i { s1 with cur := .thread fr t, went := false } = .next u → u.went = false →
    (u.issued = true ∨ (u.thread fr t).busy = false) →
    step s = .next (fclockRest fr (s1.far fr) { u.took with cur := s1.cur })

/-- A turn of the agenda that names an event is that event, on whichever agent's turn it falls; a word of the opcode table is no
event, and the run stops there (the model's own agenda, log 6). -/
def Clause.StepRunsEvent : Prop :=
  (∀ (i : Instr) (l : List Turn) (s t : State), s.agenda = .event i :: l → i.fields = none →
    exec i { s with agenda := l } = .next t → step s = .next { t with cur := s.cur }) ∧
  (∀ (i : Instr) (f : Fields) (l : List Turn) (s : State), s.agenda = .event i :: l → i.fields = some f →
    step s = .fault .notAnEvent) ∧
  (∀ (k : CoreId) (l : List Turn) (s : State), s.agenda = .cycle k :: l → step s = cycle k { s with agenda := l }) ∧
  (∀ (fr : FarId) (l : List Turn) (s : State), s.agenda = .fclock fr :: l → step s = fclock fr { s with agenda := l })

/-- R418, R423: while BOOTST is not 0 the dies of a package are in reset or without power: a clock of a core or a farrier changes
nothing. -/
def Clause.HeldInReset : Prop :=
  ∀ s : State, s.agenda = [] →
    (∀ (k : CoreId) (c : Fin 8), s.cur = .ctx k c → (s.pkg (pkgOf k)).bootst ≠ 0 → step s = .next s) ∧
    (∀ (fr : FarId) (t : Fin 16), s.cur = .thread fr t → (s.pkg (fr % 64)).bootst ≠ 0 → step s = .next s)

/-- R38, R201: where no block of the bundle is in the instruction cache and no fetch of it is on its way, a clock of the core asks
for its three blocks and issues nothing. -/
def Clause.FetchMiss : Prop :=
  ∀ (k : CoreId) (c : Fin 8) (s : State),
    (s.ctx k c).wait = .none → (s.pkg (pkgOf k)).retired (s.core k).gen (s.ctx k c).hart.pc.toNat = false →
    fetchWord (s.core k) (!(s.ctx k c).sup) (s.ctx k c).hart.pc = none → (s.core k).fetching c (s.ctx k c).hart.pc = false →
    s.lag.headD 0 ≠ 0 →
    ∃ a : Access, ∃ t, tryIssue k c s = .next t ∧ (t.core k).accs = (s.core k).accs ++ [a] ∧ a.ctx = c ∧ a.kind = .fetch ∧
      a.user = !(s.ctx k c).sup ∧
      a.parts.map (·.ea) = ([0, 64, 128].map fun j => BitVec.ofNat 64 ((s.ctx k c).hart.pc.toNat / 192 * 192 + j)) ∧
      (t.ctx k c).hart = (s.ctx k c).hart ∧ t.issued = s.issued

/-- R38, R201, R418, R423: the turns of the agenda, the clocks of a package in reset, and the clock of a context whose bundle is not in
the instruction cache. -/
def Obligations.StepTurns : Prop := Clause.StepRunsEvent ∧ Clause.HeldInReset ∧ Clause.FetchMiss

/-! ### Reset and memory -/

/-- R33, R62, R256, R389, R418: right after power-good nothing is listed in any memory, every context of every core is free, BOOTST
is 0xFF, PWRLIM 5,000 W and no host window valid. The registers for which the spec states no reset value are zero, and the mode and
mmrev of a free context are supervisor and 2: these are the model's choice (log 1 and 2). -/
def Obligations.ResetState : Prop :=
  State.reset.mem = [] ∧ memWf State.reset.mem = true ∧
  (∀ k, (State.reset.core k).loc = [] ∧ (State.reset.core k).l1 = [] ∧ (State.reset.core k).tlb = [] ∧
    (State.reset.core k).memb = 0 ∧ (State.reset.core k).rank = 0xFFFFFFFF ∧ (State.reset.core k).cyc = 0) ∧
  (∀ k c, let x := State.reset.ctx k c
    x.pool = .free ∧ x.pend = [] ∧ x.hart.g = Vector.replicate 16 0 ∧ x.hart.c = 1 ∧ x.hart.pc = 0 ∧ x.v = Vector.replicate 32 0 ∧
    x.vs = Vector.replicate 32 0 ∧ x.m = Vector.replicate 8 0 ∧ x.z = Vector.replicate 4 (Vector.replicate 256 0) ∧
    x.lc = Vector.replicate 2 0 ∧ x.ls = Vector.replicate 2 0 ∧ x.le = Vector.replicate 2 0 ∧ x.jord = 0 ∧ x.fround = 0 ∧
    x.fflags = 0 ∧ x.srctr = 0 ∧ x.epc = 0 ∧ x.ecause = 0 ∧ x.eaddr = 0 ∧ x.escratch = 0 ∧ x.pmode = false ∧ x.ien = false ∧
    x.pien = false ∧ x.lkchk = false ∧ x.sup = true ∧ x.mmrev = 2) ∧
  (∀ p, (State.reset.pkg p).bootst = 0xFF ∧ (State.reset.pkg p).pwrlim = 5000 ∧ (State.reset.pkg p).wins = [] ∧
    (State.reset.pkg p).regions = [] ∧ (State.reset.pkg p).facc = Vector.replicate 4 0) ∧
  (∀ d, (State.reset.die d).root = 0 ∧ (State.reset.die d).fbuf = [] ∧ (State.reset.die d).state = 0)

/-- R2: bytes written are read back at their addresses, every other byte is as before, and the list keeps its canonical form. -/
def Obligations.MemoryReadsBack : Prop :=
  ∀ (m : Memory) (a x : Nat) (bs : List (Option Byte)), memWf m = true →
    memWf (memWrite m a bs) = true ∧
    memGet (memWrite m a bs) x =
      match (if a ≤ x then bs[x - a]? else none) with
      | some (some b) => b
      | _ => memGet m x

/-! ### Issue (R31, R46-R48, R116) -/

/-- R47, R48: an instruction whose guard is false does nothing but go on, whatever instruction it is; one that waits for every earlier
instruction does so first. -/
def Clause.GuardFalse : Prop :=
  ∀ (k : CoreId) (c : Fin 8) (i : Instr) (f : Fields) (s : State), i.fields = some f → s.cur = .ctx k c →
    (s.ctx k c).wait = .none → (s.ctx k c).windowWait = false → (s.ctx k c).fwdIn = 0 → wordCause i f s = none →
    ((s.ctx k c).lkchk = true → lkBroken (s.ctx k c) [.c f.hd.gc] [] = none) → (s.ctx k c).hart.guard f.hd = false →
    (serial i = true → (s.ctx k c).undone = false) → GoesOn k c s (exec i s)

/-- R31, R46, R48, R51, R370, R371: a word a core context may not execute traps at its own address with bits [95:32] as fault
address: the farrier group with 0x01, a privileged instruction in user mode with 0x02; and an instruction that breaks a lookahead
window traps with 0x04 and the address of the instruction whose window it is. -/
def Clause.WordTraps : Prop :=
  ∀ (k : CoreId) (c : Fin 8) (i : Instr) (f : Fields) (s : State), i.fields = some f → s.cur = .ctx k c →
    (s.ctx k c).windowWait = false → (s.ctx k c).fwdIn = 0 → (s.ctx k c).undone = false → (s.ctx k c).wait = .none →
    s.faultsOnce k c →
    (∀ cause, wordCause i f s = some cause →
      Traps k c cause (s.ctx k c).hart.pc ((encode i).extractLsb' 32 64) s (exec i s)) ∧
    (0x200 ≤ i.opcode.toNat → wordCause i f s = some 0x01) ∧
    ((s.ctx k c).sup = false → privileged i = true → wordCause i f s = some 0x02) ∧
    (∀ p, wordCause i f s = none → (s.ctx k c).lkchk = true → (s.ctx k c).hart.guard f.hd = true →
      lkBroken (s.ctx k c) (.c f.hd.gc :: readsOf (s.ctx k c).jord.toNat i f) (writesOf (s.ctx k c).jord.toNat i f) = some p →
      Traps k c 0x04 (s.ctx k c).hart.pc (p.setWidth 64) s (exec i s))

/-- R326, R327: a word a farrier may not execute kills the handler with cause 0x01: its thread is free, its dispatcher is kept in
the list of killed handlers, and its block is HELD. -/
def Clause.FarrierKills : Prop :=
  ∀ (fr : FarId) (t : Fin 16) (i : Instr) (f : Fields) (s : State) (m : FMsg), i.fields = some f → s.cur = .thread fr t →
    (s.thread fr t).fcurb ≠ 0 → (s.thread fr t).flight = [] → (s.thread fr t).msg = some m → m.ty ≠ 0x38 →
    wordCause i f s ≠ none →
    wordCause i f s = some 0x01 ∧
    ∃ u, exec i s = .next u ∧ (u.thread fr t).busy = false ∧ (u.thread fr t).msg = none ∧ (u.dirOf fr m.blk).held = true ∧
      (∃ e ∈ (u.far fr).killed, e.blk = m.blk ∧ e.ty = m.ty) ∧
      ∃ n : Nat, ∃ r : RSlot, (n, r) ∈ (u.pkg (fr % 64)).notices ∧ r.msg.ty = 0xF11 ∧ r.msg.target = dieServer (farDie fr) ∧
        r.msg.payload.take 3 = [BitVec.ofNat 64 fr, 0x01, BitVec.ofNat 64 (m.blk * 64)]

/-- R31, R46, R47, R48, R51, R326, R327, R370, R371: a word the processor may not execute: a trap on a core, a kill on a farrier. -/
def Obligations.IssueChecks : Prop := Clause.GuardFalse ∧ Clause.WordTraps ∧ Clause.FarrierKills

/-- R115, R116, R118: at the end of a loop body the count falls by one and the program counter returns to the start; a body whose
count is one falls through; elsewhere the program counter moves on by twelve. -/
def Clause.EndOfBody : Prop :=
  ∀ x : Ctx,
    ((∀ l : Fin 2, x.lc[l] = 0 ∨ (x.pair l).2 ≠ x.hart.pc) →
      x.advance = { x with hart := { x.hart with pc := x.hart.pc + 12 } }) ∧
    ((x.pair 1).2 = x.hart.pc → 1 < x.lc[(1 : Fin 2)].toNat →
      x.advance.hart.pc = x.ls[(1 : Fin 2)] ∧ x.advance.lc[(1 : Fin 2)] = x.lc[(1 : Fin 2)] - 1 ∧
      x.advance.lc[(0 : Fin 2)] = x.lc[(0 : Fin 2)]) ∧
    ((x.pair 0).2 = x.hart.pc → 1 < x.lc[(0 : Fin 2)].toNat → (x.lc[(1 : Fin 2)] = 0 ∨ (x.pair 1).2 ≠ x.hart.pc) →
      x.advance.hart.pc = x.ls[(0 : Fin 2)] ∧ x.advance.lc[(0 : Fin 2)] = x.lc[(0 : Fin 2)] - 1 ∧
      x.advance.lc[(1 : Fin 2)] = x.lc[(1 : Fin 2)]) ∧
    ((x.pair 1).2 = x.hart.pc → x.lc[(1 : Fin 2)] = 1 → (x.lc[(0 : Fin 2)] = 0 ∨ (x.pair 0).2 ≠ x.hart.pc) →
      x.advance.hart.pc = x.hart.pc + 12 ∧ x.advance.lc[(1 : Fin 2)] = 0) ∧
    x.advance.hart.g = x.hart.g ∧ x.advance.hart.c = x.hart.c ∧ x.advance.v = x.v ∧ x.advance.fflags = x.fflags

/-- R371, R372: a trap taken in the entry bundles in supervisor mode, or between an entry and its `pdone`, is a double fault: the
context ends, the core's local memory is frozen, the groom gets notice 0xF12, and during pre-emption FAIL is set. -/
def Obligations.DoubleFault : Prop :=
  ∀ (k : CoreId) (c : Fin 8) (cause : Cause) (epc : PcW) (eaddr : W64) (s : State), s.doubleFault k c = true →
    (s.ctx k c).wait = .none →
    let t := s.trapCtx k c cause epc eaddr true
    (t.ctx k c).wait = .finish 0 ∧ (t.core k).frozen = true ∧ (t.ctx k c).hart = (s.ctx k c).hart ∧
    ((s.core k).pre.step ≠ 0 → (t.die (dieOf k)).fail = true) ∧
    (∃ n : Nat, ∃ r : RSlot, (n, r) ∈ (t.pkg (pkgOf k)).notices ∧ r.msg.ty = 0xF12 ∧ r.msg.target = dieServer (dieOf k) ∧
      r.msg.payload = [s.coord k, BitVec.ofNat 64 c.val, cause.setWidth 64, epc.setWidth 64, eaddr])

/-! ### Control group -/

/-- A program counter that goes to the code address `n`: `n` itself where the 57-bit space holds it; an address outside it is, the model's
choice, some multiple of 12 (R37, log 86). -/
def Aims (n : Int) (p : PcW) : Prop :=
  (0 ≤ n → n < 2 ^ 57 → (p.toNat : Int) = n) ∧ (n < 0 ∨ 2 ^ 57 ≤ n → p.toNat % 12 = 0)

/-- R38, R113, R114: `br`, `jr`, `call`, `callr` and `ret` continue at their target: the offset counts instructions from the branch
itself (where it leaves the address space: log 86, the model's choice); a register target is read before the link is written; the
end-of-body test does not fire. -/
def Clause.Branches : Prop :=
  ∀ (k : CoreId) (c : Fin 8) (f : Fields) (s : State),
    let x := s.ctx k c
    let link := fun (h : Hart) => h.dest f.a ((h.pc + 12).setWidth 64)
    let r := x.hart.opd f.b
    (∃ aim, Aims (x.hart.pc.toNat + 12 * f.mi.toInt) aim ∧
      (Ready k c (.br f) f s → RunsTo k c (x.at aim) s (exec (.br f) s)) ∧
      (Ready k c (.call f) f s → RunsTo k c ((x.withHart (link x.hart)).at aim) s (exec (.call f) s))) ∧
    (Ready k c (.jr f) f s → (r.setWidth 57).toNat % 12 = 0 → RunsTo k c (x.at (r.setWidth 57)) s (exec (.jr f) s)) ∧
    (Ready k c (.ret f) f s → (r.setWidth 57).toNat % 12 = 0 → RunsTo k c (x.at (r.setWidth 57)) s (exec (.ret f) s)) ∧
    (Ready k c (.callr f) f s → (r.setWidth 57).toNat % 12 = 0 →
      RunsTo k c ((x.withHart (link x.hart)).at (r.setWidth 57)) s (exec (.callr f) s))

/-- R37, R113, R317: the same on a farrier's thread, whose code lies in handler memory; an address beyond it kills the handler with
0x08, and a register target kills it with 0x05 where it is no multiple of 12. A farrier's multiples of 12 count from the start of the
handler set (the model's choice, log 100). -/
def Clause.BranchesOnFarrier : Prop :=
  ∀ (fr : FarId) (t : Fin 16) (f : Fields) (s : State),
    let x := s.thread fr t
    let link := { x with hart := x.hart.dest f.a ((x.hart.pc + 12).setWidth 64) }
    let r := (x.hart.opd f.b).setWidth 57
    let g := f.hd.gap.toNat
    let start := (fmGet {} (s.far fr).sets x.hset.toNat).start
    let code := (r.toNat + 65532 - start) % 12 = 0
    (∃ aim, Aims (x.hart.pc.toNat + 12 * f.mi.toInt) aim ∧
      (FarReady fr t (.br f) f s → aim.toNat ≤ 0xFFF0 → FarRunsTo fr t (x.retire g aim) s (exec (.br f) s)) ∧
      (FarReady fr t (.call f) f s → aim.toNat ≤ 0xFFF0 → FarRunsTo fr t (link.retire g aim) s (exec (.call f) s)) ∧
      ∀ i ∈ [Instr.br f, .call f], FarReady fr t i f s → x.busy = true → 0xFFF0 < aim.toNat → Kills fr t 0x08 s (exec i s)) ∧
    (start ≤ 0xFFF0 → r.toNat ≤ 0xFFF0 →
      (FarReady fr t (.jr f) f s → code → FarRunsTo fr t (x.retire g r) s (exec (.jr f) s)) ∧
      (FarReady fr t (.ret f) f s → code → FarRunsTo fr t (x.retire g r) s (exec (.ret f) s)) ∧
      (FarReady fr t (.callr f) f s → code → FarRunsTo fr t (link.retire g r) s (exec (.callr f) s)) ∧
      ∀ i ∈ [Instr.jr f, .ret f, .callr f], FarReady fr t i f s → ¬code → Kills fr t 0x05 s (exec i s))

/-- R37, R113, R370: a register target that is no multiple of 12 is a trap with cause 0x05 and the target, the register's value as a
57-bit address (log 15), as fault address; no link is written. -/
def Clause.BranchTraps : Prop :=
  ∀ (k : CoreId) (c : Fin 8) (f : Fields) (s : State), ∀ i ∈ [Instr.jr f, .ret f, .callr f], Ready k c i f s →
    (s.ctx k c).undone = false → (s.ctx k c).wait = .none → s.faultsOnce k c →
    (((s.ctx k c).hart.opd f.b).setWidth 57).toNat % 12 ≠ 0 →
    Traps k c 0x05 (s.ctx k c).hart.pc (((s.ctx k c).hart.opd f.b).setWidth 57 |>.setWidth 64) s (exec i s)

/-- R37, R38, R113, R114, R317, R370: the branches on a core and on a farrier, and their traps. -/
def Obligations.Branches : Prop := Clause.Branches ∧ Clause.BranchesOnFarrier ∧ Clause.BranchTraps

/-- R115: `loop` writes its level's count, start and end and puts the pair in force; a count of zero skips the body (an end outside the
address space: log 86, the model's choice). -/
def Clause.Loops : Prop :=
  ∀ (k : CoreId) (c : Fin 8) (f : Fields) (s : State),
    let x := s.ctx k c
    let l : Fin 2 := if f.a = .cr .lc1 then 1 else 0
    let cnt : BitVec 32 := (x.hart.opd f.b).setWidth 32
    let first := x.hart.pc + 12
    ∃ last skip, Aims (x.hart.pc.toNat + 12 * f.mi.toInt) last ∧ Aims (last.toNat + 12) skip ∧
      let y := { x with lc := x.lc.set l.val cnt, ls := x.ls.set l.val first, le := x.le.set l.val last }
      (Ready k c (.loopI f) f s → cnt ≠ 0 →
        RunsTo k c ({ y with force := x.force.set l.val (some (first, last)) }).advance s (exec (.loopI f) s)) ∧
      (Ready k c (.loopI f) f s → cnt = 0 →
        RunsTo k c (Ctx.at { y with force := x.force.set l.val none } skip) s (exec (.loopI f) s))

/-- R115, R116, R118: the hardware loops. -/
def Obligations.LoopBodies : Prop := Clause.EndOfBody ∧ Clause.Loops

/-- R117: `lbrk` sets its level's count to 0 and goes on 12 past the end address in force, past leN where the count is 0 already (where
that leaves the address space: log 86, the model's choice); it names lc0 or lc1 and nothing else. -/
def Obligations.LoopBreak : Prop :=
  ∀ (k : CoreId) (c : Fin 8) (f : Fields) (s : State),
    let x := s.ctx k c
    let l : Fin 2 := if f.a = .cr .lc1 then 1 else 0
    (WellFormed (.lbrk f) → (f.a = .cr .lc0 ∨ f.a = .cr .lc1) ∧ f.b = .none ∧ f.c = .none ∧ f.mi = 0) ∧
    (Ready k c (.lbrk f) f s → ∃ p, Aims ((if x.lc[l] = 0 then x.le[l] else (x.pair l).2).toNat + 12) p ∧
      RunsTo k c (Ctx.at { x with lc := x.lc.set l.val 0, force := x.force.set l.val none } p) s (exec (.lbrk f) s))

/-- R67, R68, R123: `csrr`, `csrw`, `csrs` and `csrc` read a control register and write its defined bits; the old value goes to the
destination, if there is one. -/
def Clause.ControlRegisters : Prop :=
  ∀ (k : CoreId) (c : Fin 8) (f : Fields) (r : Csr) (s : State),
    let x := s.ctx k c
    let old := s.csrCtx k c r
    let write := fun (i : Instr) (v : W64) =>
      Ready k c i f s → f.a = .cr r → csrWait f.a s = false → csrValueTrap i s r v = none →
        GoesOn k c ((s.setCsrCtx k c r v).modCtx k c fun y => y.withHart (y.hart.dest f.c old)) (exec i s)
    (Ready k c (.csrr f) f s → f.b = .cr r → csrWait f.b s = false →
      RunsTo k c (x.withHart (x.hart.dest f.a old)).advance s (exec (.csrr f) s)) ∧
    write (.csrw f) (x.hart.opd f.b) ∧ write (.csrs f) (old ||| x.hart.opd f.b) ∧ write (.csrc f) (old &&& ~~~(x.hart.opd f.b))

/-- R68, R70, R118: a control register reads back what was last written to its defined bits; a write of one leaves the others as
they were, but for REV in estat, which follows mmrev. -/
def Clause.ControlRegisterValues : Prop :=
  ∀ (k : CoreId) (c : Fin 8) (v : W64) (s : State),
    (∀ p ∈ [(Csr.jord, 3), (.fround, 3), (.fflags, 40), (.mmrev, 4), (.srctr, 64), (.jobseed, 64), (.lc0, 32), (.ls0, 57),
        (.le0, 57), (.lc1, 32), (.ls1, 57), (.le1, 57), (.epc, 57), (.ecause, 8), (.eaddr, 64), (.evec, 57), (.escratch, 64)],
      (s.setCsrCtx k c p.1 v).csrCtx k c p.1 = BitVec.ofNat 64 (v.toNat % 2 ^ p.2) ∧
      ∀ r, r ≠ p.1 → r ≠ .estat → (s.setCsrCtx k c p.1 v).csrCtx k c r = s.csrCtx k c r) ∧
    (s.setCsrCtx k c .estat v).csrCtx k c .estat = (v &&& 0xF) ||| (s.csrCtx k c .estat &&& 0x10) ∧
    (∀ r, r ≠ .estat → (s.setCsrCtx k c .estat v).csrCtx k c r = s.csrCtx k c r) ∧
    s.csrCtx k c .vl = 1024 ∧ s.csrCtx k c .ctxid = BitVec.ofNat 64 c.val ∧
    s.csrCtx k c .unack = BitVec.ofNat 64 (s.ctx k c).pend.length

/-- R123, R51, R319: the same instructions on a farrier, whose control registers are fid, fthr, fcurb, fdirb, fdirn and cyc: fdirb and
fdirn are written in INIT alone, elsewhere the handler is killed with 0x02; a register takes as many low bits of the value as it holds
(the model's reading, log 38), and the page offset of fdirb reads zero. -/
def Clause.ControlRegistersOnFarrier : Prop :=
  ∀ (fr : FarId) (t : Fin 16) (f : Fields) (r : Csr) (s : State),
    let x := s.thread fr t
    (FarReady fr t (.csrr f) f s → f.b = .cr r →
      FarGoesOn fr t f (s.modThread fr t fun y => { y with hart := y.hart.dest f.a (s.csrThread fr t r) }) (exec (.csrr f) s)) ∧
    (∀ (i : Instr) (v : W64), (i, v) ∈ [(Instr.csrw f, x.hart.opd f.b), (.csrs f, s.csrThread fr t r ||| x.hart.opd f.b),
        (.csrc f, s.csrThread fr t r &&& ~~~(x.hart.opd f.b))] → f.a = .cr r → r = .fdirb ∨ r = .fdirn → FarReady fr t i f s →
      ((∃ m, x.msg = some m ∧ m.ty = 0x38) → ∃ u : State, FarGoesOn fr t f
          (u.modThread fr t fun y => { y with hart := y.hart.dest f.c (s.csrThread fr t r) }) (exec i s) ∧
        u = s.modFar fr (fun y => { y with fdirb := (u.far fr).fdirb, fdirn := (u.far fr).fdirn }) ∧
        (u.far fr).fdirb = (if r = .fdirb then v.setWidth 58 &&& ~~~0xFFF else (s.far fr).fdirb) ∧
        (u.far fr).fdirn = if r = .fdirn then v.setWidth 24 else (s.far fr).fdirn) ∧
      (∀ m, x.msg = some m → m.ty ≠ 0x38 → Kills fr t 0x02 s (exec i s))) ∧
    s.csrThread fr t .fdirb = (s.far fr).fdirb.setWidth 64 ∧ s.csrThread fr t .fdirn = (s.far fr).fdirn.setWidth 64 ∧
    s.csrThread fr t .fid = BitVec.ofNat 64 fr ∧ s.csrThread fr t .fthr = BitVec.ofNat 64 t.val ∧
    s.csrThread fr t .fcurb = BitVec.ofNat 64 x.fcurb ∧ s.csrThread fr t .cyc = (s.far fr).cyc

/-- R51, R67, R68, R70, R118, R123, R319: the control registers and the instructions that read and write them. -/
def Obligations.ControlRegisters : Prop := Clause.ControlRegisters ∧ Clause.ControlRegisterValues ∧ Clause.ControlRegistersOnFarrier

/-- R124: `sys` and `brk` trap in any mode with causes 0x17 and 0x16, the zero-extended code as fault address; after `sys` epc names the
following instruction, after `brk` its own; both wait for every earlier instruction; they take no operand. -/
def Obligations.SystemCalls : Prop :=
  ∀ (k : CoreId) (c : Fin 8) (f : Fields) (s : State), (s.ctx k c).undone = false → (s.ctx k c).wait = .none →
    s.faultsOnce k c →
    (Ready k c (.sysI f) f s → Traps k c 0x17 ((s.ctx k c).hart.pc + 12) (f.mi.setWidth 64) s (exec (.sysI f) s)) ∧
    (Ready k c (.brk f) f s → Traps k c 0x16 (s.ctx k c).hart.pc (f.mi.setWidth 64) s (exec (.brk f) s)) ∧
    ∀ i ∈ [Instr.sysI f, .brk f], (WellFormed i → f.a = .none ∧ f.b = .none ∧ f.c = .none) ∧
      ∀ s' : State, s'.cur = .ctx k c → (s'.ctx k c).undone = true → (s'.ctx k c).windowWait = false → (s'.ctx k c).fwdIn = 0 →
        (s'.ctx k c).lkchk = false → wordCause i f s' = none → (s'.ctx k c).hart.guard f.hd = true → exec i s' = .next s'

/-- R118, R125, R227: `eret` goes back to epc, the mode to PMODE and IEN to PIEN, and a loop that still runs goes on with the pair its
registers hold (that the iteration in progress keeps it is the model's reading, log 87); an epc that is no multiple of 12 is a trap with
cause 0x05. At a releasing instruction that took a count mismatch it has the write-backs of the interval sent again, the release no
longer failed (by `eret` itself: the model's reading, log 17). -/
def Clause.Eret : Prop :=
  ∀ (k : CoreId) (c : Fin 8) (f : Fields) (s : State), Ready k c (.eret f) f s →
    let x := s.ctx k c
    (x.epc.toNat % 12 = 0 → (∀ r ∈ (s.core k).rels, r.failed = true → r.ctx = c → r.pc ≠ x.epc) →
      RunsTo k c { x with
        hart := { x.hart with pc := x.epc }, sup := x.pmode, ien := x.pien,
        force := Vector.ofFn fun (l : Fin 2) => if x.lc[l] = 0 then none else some (x.ls[l], x.le[l]) } s (exec (.eret f) s)) ∧
    (∀ r q iv, x.epc.toNat % 12 = 0 → (s.core k).rels = [r] → r.failed = true → r.ctx = c → r.pc = x.epc → r.ivs = [(q, iv)] →
      q ≠ pkgOf k → s.ivMoving (pkgOf k) q iv = false → ∃ t, exec (.eret f) s = .next t ∧ (t.ctx k c).hart.pc = x.epc ∧
        (t.core k).rels = [{ r with failed := false }] ∧ t.mem = s.mem ∧
        ∀ w ∈ (s.pkg (pkgOf k)).kept, w.dst = q → w.body = .wb iv →
          ∃ y ∈ t.fab, y.uid = w.uid ∧ y.src = pkgOf k ∧ y.dst = q ∧ y.flow = w.flow ∧ y.body = .wb iv) ∧
    (x.epc.toNat % 12 ≠ 0 → x.undone = false → x.wait = .none → s.faultsOnce k c →
      Traps k c 0x05 x.hart.pc (x.epc.setWidth 64) s (exec (.eret f) s))

/-- R121, R273, R376: each `wait` goes on once its condition holds and changes nothing else: no store or message of the context
unacknowledged; no entry of the context in an engine, nor a failed one whose fault is still to be listed; both; cyc at the operand. Before that, and before every earlier instruction has completed, it
leaves the state as it is. A reserved COND does not decode. -/
def Obligations.Waits : Prop :=
  (∀ (k : CoreId) (c : Fin 8) (f : Fields) (s : State),
    let x := s.ctx k c
    let unack := x.pend = []
    let eng := (s.core k).engineBusy c = false ∧ (s.core k).drayFailed c = false
    let run := fun (i : Instr) (p : Prop) =>
      (Ready k c i f s → (p → GoesOn k c s (exec i s)) ∧ (¬p → exec i s = .next s)) ∧
      (s.cur = .ctx k c → x.undone = true → x.windowWait = false → x.fwdIn = 0 → x.lkchk = false → wordCause i f s = none →
        x.hart.guard f.hd = true → exec i s = .next s)
    run (.waitUnack f) unack ∧ run (.waitEng f) eng ∧ run (.waitAll f) (unack ∧ eng) ∧
    run (.waitTime f) ((s.core k).cyc.toNat ≥ (x.hart.opd f.b).toNat) ∧
    (∀ i ∈ [Instr.waitUnack f, .waitEng f, .waitAll f], WellFormed i → f.a = .none ∧ f.b = .none ∧ f.c = .none) ∧
    (WellFormed (.waitTime f) → f.a = .none ∧ ((∃ r, f.b = .g r) ∨ ∃ n, f.b = .imm n) ∧ f.c = .none)) ∧
  ∀ w : BitVec 96, w.extractLsb' 86 10 = 0x048 → w.getLsbD 19 = true → decode w = none

/-- R17, R20, R35, R120, R122, R256: `done` and `halt` of a context that has nothing open end it at once: after `done` the context is
free where no refused message of its class is listed (or during pre-emption); else it is reserved for the oldest one, which leaves the
list and whose sender is noticed. After `halt` it is discarded and the core halted. -/
def Clause.Endings : Prop :=
  ∀ (k : CoreId) (c : Fin 8) (f : Fields) (s : State), s.prompt → (s.ctx k c).wait = .none → (s.core k).rels = [] →
    (s.core k).l1 = [] → (s.core k).fused = false → (s.core k).accs = [] → (s.core k).wbs = [] → (s.ctx k c).pend = [] →
    (s.core k).engineBusy c = false → (s.core k).rfaults = [] → (s.core k).drayBad = [] →
    (s.pkg (pkgOf k)).ivs = [] →
    let due := (s.core k).refused.find? fun l => l.sup == s.supClass k c || s.isServer k
    (Ready k c (.doneI f) f s → WellFormed (.doneI f) → ∃ t, exec (.doneI f) s = .next t ∧
      (due = none ∨ (s.core k).pre.step ≠ 0 → (t.ctx k c).pool = .free ∧ (t.core k).refused = (s.core k).refused) ∧
      (∀ l, due = some l → (s.core k).pre.step = 0 → (t.ctx k c).pool = .reserved ∧ (t.ctx k c).holdFor = some l.msg ∧
        (t.core k).refused = (s.core k).refused.erase l ∧ l ∈ (t.core k).noticed ∧
        ∀ r, s.slot l.msg = some r → t.slot l.msg = some { r with st := .noticed }) ∧
      (t.ctx k c).wait = .none ∧ (t.core k).rels = [] ∧ (∀ d, d ≠ c → t.ctx k d = s.ctx k d) ∧ t.mem = s.mem) ∧
    (Ready k c (.halt f) f s → ∃ t, exec (.halt f) s = .next t ∧ (t.ctx k c).pool = .discarded ∧ (t.core k).halted = true ∧
      (t.core k).rels = [] ∧ (∀ d, d ≠ c → t.ctx k d = s.ctx k d) ∧ t.mem = s.mem)

/-- R17, R20, R35, R118, R120, R122, R125, R227, R256: the return from a trap, and the end of an activation. -/
def Obligations.ReturnsAndEndings : Prop := Clause.Eret ∧ Clause.Endings

/-! ### Vector and jet groups -/

/-- R126-R128, R131-R135, R151, R153, R158-R163: a ready series instruction, at every jet order, delivers coefficients 0 to K of
each enabled lane by its rule from the operands as they stood; the flags of coefficient n go to group n of fflags; nothing else of
the context changes but srctr. -/
def Clause.SeriesResults : Prop :=
  ∀ p ∈ seriesTable, ∀ (k : CoreId) (c : Fin 8) (f : Fields) (s : State), Ready k c (p.1 f) f s → WellFormed (p.1 f) →
    s.prompt → (p.2.1 = true → effRnd f.rnd (s.ctx k c).fround ≤ 5) →
    let x := s.ctx k c
    let K := x.jord.toNat
    GroupRuns k c f (if p.2.1 then x.drawn f else x)
      (fun e => p.2.2 (s.rnd f e) K (x.coefs K f.ty f.a e) (x.coefs K f.ty f.b e) (x.coefs K f.ty f.c e)) s (exec (p.1 f) s)

/-- R154: a chain of terms: each partial sum is rounded by St before the next term is added, the last sum is exact. -/
def chainOf (r : Rnd) (x : FV) (t : Nat → FV) : Nat → FV
  | 0 => x
  | q + 1 => fvAdd r.rdn (r.st (chainOf r x t q)) (t (q + 1))

/-- R158-R162: the coefficients above the zeroth, each from its recurrence: Cauchy products summed in ascending index of B, the quotient
and the roots solved for the newest coefficient, the exponential and the logarithm by their derivatives, and the trigonometric and
hyperbolic series with their companion held in FP32. -/
def Clause.Recurrences : Prop :=
  ∀ (r : Rnd) (k n : Nat) (a b c : List Nat), n ≤ k →
    let A := fun i => r.val (a.getD i 0)
    let B := fun i => r.val (b.getD i 0)
    let C := fun i => r.val (c.getD i 0)
    let out := fun (rule : Rule) i => (rule r k a b c).getD i (0, 0)
    let Y := fun (rule : Rule) i => r.val (out rule i).1
    -- the terms from the first on, and those that follow a leading one
    let terms := fun (m : Nat) (t : Nat → FV) => chainOf r (t 1) (fun i => t (i + 1)) (m - 1)
    let lead := fun (x : FV) (t : Nat → FV) (q : Nat) => chainOf r x t q
    let times := fun (i : Int) (x y : FV) => fvMul (fvMul (fvInt i) x) y
    out ruleAdd n = r.fin n (fvAdd r.rdn (B n) (C n)) ∧ out ruleSub n = r.fin n (fvAdd r.rdn (B n) (fvNeg (C n))) ∧
    out ruleMul n = r.fin n (lead (fvMul (B 0) (C n)) (fun i => fvMul (B i) (C (n - i))) n) ∧
    out ruleFma n = r.fin n (lead (A n) (fun i => fvMul (B (i - 1)) (C (n + 1 - i))) (n + 1)) ∧
    out ruleFms n = r.fin n (lead (A n) (fun i => fvNeg (fvMul (B (i - 1)) (C (n + 1 - i)))) (n + 1)) ∧
    out ruleFnm n = r.fin n (fvNeg (lead (A n) (fun i => fvMul (B (i - 1)) (C (n + 1 - i))) (n + 1))) ∧
    (n = 0 → out ruleDiv 0 = r.fin 0 (fvDiv (B 0) (C 0)) ∧ out ruleSqrt 0 = r.fin 0 (fvSqrt (B 0)) ∧
      ∀ p ∈ [(ruleRcp, SpFn.rcp), (ruleRsq, .rsq), (ruleExp, .exp), (ruleLog, .log), (ruleSinCos false, .sin),
        (ruleSinCos true, .cos), (ruleAux .tanh, .tanh), (ruleAux .sigm, .sigm)], (out p.1 0).1 = (r.special p.2 (b.getD 0 0)).1) ∧
    (1 ≤ n →
      out ruleDiv n = r.fin n (fvDiv (lead (B n) (fun i => fvNeg (fvMul (C i) (Y ruleDiv (n - i)))) n) (C 0)) ∧
      out ruleRcp n = r.fin n (fvDiv (fvNeg (terms n fun i => fvMul (B i) (Y ruleRcp (n - i)))) (B 0)) ∧
      out ruleSqrt n = r.fin n (fvDiv (lead (B n) (fun i => fvNeg (fvMul (Y ruleSqrt i) (Y ruleSqrt (n - i)))) (n - 1))
        (fvMul (fvInt 2) (Y ruleSqrt 0))) ∧
      -- the factor i/2 - n, as a fraction over 2
      out ruleRsq n = r.fin n (fvDiv (terms n fun i => fvMul (fvMul (mkVal false (i - 2 * n) 2, 0) (B i)) (Y ruleRsq (n - i)))
        (fvMul (fvInt n) (B 0))) ∧
      out ruleExp n = r.fin n (fvDiv (terms n fun i => times i (B i) (Y ruleExp (n - i))) (fvInt n)) ∧
      out ruleLog n = r.fin n (fvDiv (lead (fvMul (fvInt n) (B n)) (fun i => times (-i) (Y ruleLog i) (B (n - i))) (n - 1))
        (fvMul (fvInt n) (B 0)))) ∧
    (∀ cos : Bool, ∃ z : Nat → FV, z 0 = ((r.specialSt (if cos then .sin else .cos) (b.getD 0 0)).1, 0) ∧
      (∀ m < n, 1 ≤ m → (z m).2 = 0 ∧ (z m).1 = (r.st (let s := terms m fun i => times i (B i) (Y (ruleSinCos cos) (m - i))
        fvDiv (if cos then s else fvNeg s) (fvInt m))).1) ∧
      (1 ≤ n → (out (ruleSinCos cos) n).1 = (r.fin n (let s := terms n fun i => times i (B i) (z (n - i))
        fvDiv (if cos then fvNeg s else s) (fvInt n))).1)) ∧
    ∀ tanh : Bool, let rule := ruleAux (if tanh then .tanh else .sigm)
      ∃ z : Nat → FV,
        (∀ m < n, (z m).2 = 0 ∧ (z m).1 = (r.st (
          let sq := fun i => fvNeg (fvMul (Y rule i) (Y rule (m - i)))
          if tanh then (if m = 0 then lead (fvInt 1) (fun i => sq (i - 1)) 1 else lead (sq 0) sq m)
          else lead (Y rule m) (fun i => sq (i - 1)) (m + 1))).1) ∧
        (1 ≤ n → (out rule n).1 = (r.fin n (fvDiv (terms n fun i => times i (B i) (z (n - i))) (fvInt n))).1)

/-- R126-R128, R131-R135, R151, R153, R158-R163: the series instructions, and the coefficients their rules give. -/
def Obligations.SeriesResults : Prop := Clause.SeriesResults ∧ Clause.Recurrences

/-- R131, R132: what the rules come to at order 0: one correctly rounded operation on the exact values; the fused forms with one
rounding of the exact sum, for St leaves a value of the element type as it is; least and greatest, and the sign operations on the
encoding. -/
def Clause.OrderZero : Prop :=
  ∀ (r : Rnd) (a b c : Nat),
    let v := fun x => r.val x
    ruleAdd r 0 [a] [b] [c] = [r.fin 0 (fvAdd r.rdn (v b) (v c))] ∧
    ruleSub r 0 [a] [b] [c] = [r.fin 0 (fvAdd r.rdn (v b) (fvNeg (v c)))] ∧
    ruleMul r 0 [a] [b] [c] = [r.fin 0 (fvMul (v b) (v c))] ∧
    ruleDiv r 0 [a] [b] [c] = [r.fin 0 (fvDiv (v b) (v c))] ∧
    ruleSqrt r 0 [a] [b] [c] = [r.fin 0 (fvSqrt (v b))] ∧
    ruleFma r 0 [a] [b] [c] = [r.fin 0 (fvAdd r.rdn (r.st (v a)) (fvMul (v b) (v c)))] ∧
    ruleFms r 0 [a] [b] [c] = [r.fin 0 (fvAdd r.rdn (r.st (v a)) (fvNeg (fvMul (v b) (v c))))] ∧
    ruleFnm r 0 [a] [b] [c] = [r.fin 0 (fvNeg (fvAdd r.rdn (r.st (v a)) (fvMul (v b) (v c))))] ∧
    (r.t ∈ [7, 8, 9] → a < 2 ^ (floatFmt r.t).w → (r.st (v a)).2 = 0 ∧ ((r.st (v a)).1 = .nan ↔ (v a).1 = .nan) ∧
      ((v a).1 ≠ .nan → valCmp (r.st (v a)).1 (v a).1 = some .eq) ∧ ∀ s, (r.st (v a)).1 = .zero s ↔ (v a).1 = .zero s) ∧
    (∀ mx : Bool, let y := ruleMinMax mx r 0 [a] [b] [c]
      ((v b).1 = .nan → (v c).1 = .nan → y = [(qnanOf r.t, 0)]) ∧ ((v b).1 = .nan → (v c).1 ≠ .nan → y = [(c, 0)]) ∧
      ((v b).1 ≠ .nan → (v c).1 = .nan → y = [(b, 0)]) ∧
      (∀ s, (v b).1 = .zero s → (v c).1 = .zero (!s) → y = [(if s == mx then c else b, 0)]) ∧
      (valCmp (v b).1 (v c).1 = some .lt → y = [(if mx then c else b, 0)]) ∧
      (valCmp (v b).1 (v c).1 = some .gt → y = [(if mx then b else c, 0)])) ∧
    (r.t ∈ [7, 8, 9] → b < 2 ^ (floatFmt r.t).w → let top := (floatFmt r.t).w - 1
      ((v b).1 = .nan → ruleNeg r 0 [a] [b] [c] = [(qnanOf r.t, 0)] ∧ absCode r.t b = qnanOf r.t) ∧
      ((v b).1 ≠ .nan → ∃ x, ruleNeg r 0 [a] [b] [c] = [(x, 0)] ∧
        ∀ j, x.testBit j = (b.testBit j != decide (j = top)) ∧ (absCode r.t b).testBit j = (b.testBit j && decide (j ≠ top)))) ∧
    [7, 8, 9].map qnanOf = [0x7FC0, 0x7E00, 0x7FC00000] ∧
    ruleExp r 0 [a] [b] [c] = [r.special .exp b] ∧ ruleLog r 0 [a] [b] [c] = [r.special .log b] ∧
    ruleRcp r 0 [a] [b] [c] = [r.special .rcp b] ∧ ruleRsq r 0 [a] [b] [c] = [r.special .rsq b] ∧
    ruleSinCos false r 0 [a] [b] [c] = [r.special .sin b] ∧ ruleSinCos true r 0 [a] [b] [c] = [r.special .cos b] ∧
    ruleAux .tanh r 0 [a] [b] [c] = [r.special .tanh b] ∧ ruleAux .sigm r 0 [a] [b] [c] = [r.special .sigm b]

/-- R90: rounding leaves a representable value as it is, in every mode and without a flag; what it delivers is a code of the format. -/
def Clause.RoundingExact : Prop :=
  ∀ f ∈ [fE4M3, fE5M2, fE2M1, fBF16, fFP16, fFP32], ∀ m draw : Nat,
    (∀ x < 2 ^ f.w, decodeFloat f x ≠ .nan → roundTo f m draw (decodeFloat f x) = (x, 0)) ∧
    ∀ (neg : Bool) (n d : Nat), n ≠ 0 → d ≠ 0 → (roundTo f m draw (.fin neg n d)).1 < 2 ^ f.w

/-- R80, R81, R133-R135: the special functions at the operands where their results are exact, with the flags they raise. -/
def Clause.SpecialCases : Prop :=
  ∀ r : Rnd, r.t = 9 → r.m ≤ 4 →
    r.special .rcp 0x40000000 = (0x3F000000, 0) ∧ r.special .rcp 0 = (0x7F800000, flDZ) ∧
    r.special .rcp 0x80000000 = (0xFF800000, flDZ) ∧ r.special .rcp 0x7F800000 = (0, 0) ∧
    r.special .rsq 0x40800000 = (0x3F000000, 0) ∧ r.special .rsq 0xBF800000 = (0x7FC00000, flNV) ∧
    r.special .exp 0 = (0x3F800000, 0) ∧ r.special .exp 0xFF800000 = (0, 0) ∧ r.special .log 0x3F800000 = (0, 0) ∧
    r.special .log 0 = (0xFF800000, flDZ) ∧ r.special .log 0xBF800000 = (0x7FC00000, flNV) ∧
    r.special .sin 0x80000000 = (0x80000000, 0) ∧ r.special .cos 0 = (0x3F800000, 0) ∧
    r.special .sin 0x7F800000 = (0x7FC00000, flNV) ∧ r.special .tanh 0xFF800000 = (0xBF800000, 0) ∧
    r.special .sigm 0 = (0x3F000000, 0) ∧ r.special .sigm 0xFF800000 = (0, 0) ∧
    ∀ fn, r.special fn 0x7FC00000 = (0x7FC00000, 0)

/-- R80, R81, R90, R131, R132, R133-R135: order 0, rounding of representable values, and the exact results of the special functions. -/
def Obligations.ExactResults : Prop := Clause.OrderZero ∧ Clause.RoundingExact ∧ Clause.SpecialCases

/-- R128, R136, R143: a ready integer, bitwise or moving instruction writes each enabled element as its rule says; a disabled
element is zero with ZR and unchanged without; only OF can be raised. -/
def Obligations.LaneResults : Prop :=
  ∀ p ∈ laneTable, ∀ (k : CoreId) (c : Fin 8) (f : Fields) (s : State), Ready k c (p.1 f) f s → WellFormed (p.1 f) →
    s.prompt → LanesRun k c f (s.ctx k c) (p.2 (s.ctx k c) f) s (exec (p.1 f) s)

/-- R137, R163: `vcmp` compares the exact values of coefficient 0 of each enabled lane: into a mask register, byte by byte, or into
a condition register, as any or all. -/
def Clause.VectorCompare : Prop :=
  ∀ (k : CoreId) (c : Fin 8) (f : Fields) (s : State), Ready k c (.vcmp f) f s → WellFormed (.vcmp f) → s.prompt →
    let x := s.ctx k c
    let w := tyWidth f.ty
    let K := x.jord.toNat
    let holds := fun e =>
      vecRel (f.bits 18 3) (valCmp (rawVal f.ty ((x.coefs K f.ty f.b e).headD 0)) (rawVal f.ty ((x.coefs K f.ty f.c e).headD 0)))
    (∀ r : Fin 8, f.a = .m r → ∃ y : BitVec 128, RunsTo k c { x with m := x.m.set r.val y }.advance s (exec (.vcmp f) s) ∧
      ∀ j < 128, y.getLsbD j = if r = 0 then x.m[r].getLsbD j else if enabled (x.mask f.mkn) w (8 * j / w) then holds (8 * j / w)
        else if f.zr then false else x.m[r].getLsbD j) ∧
    (∀ r : Fin 8, f.a = .c r →
      let b : Bool := if f.bit 21 then (x.lanes f).all holds else (x.lanes f).any holds
      RunsTo k c (x.withHart (x.hart.destC (.c r) b)).advance s (exec (.vcmp f) s))

/-- R138, R141, R142, R143: `vsel` chooses byte by byte, register by register of the groups; `vmov` copies a register and its
sidecar; `vins` writes one element or the sidecar's low word, `vextr` reads one; `vsplat` writes every enabled element. -/
def Obligations.VectorMoves : Prop :=
  ∀ (k : CoreId) (c : Fin 8) (f : Fields) (s : State), s.prompt →
    let x := s.ctx k c
    let w := tyWidth f.ty
    let K := x.jord.toNat
    let d := vIx f.a
    let i := (x.hart.opd f.c).toNat
    (Ready k c (.vsel f) f s → WellFormed (.vsel f) → ∃ y : Ctx, RunsTo k c y.advance s (exec (.vsel f) s) ∧
      y = { x with v := y.v } ∧ (∀ r : Fin 32, r ∉ groupRegs K f.a → y.v[r] = x.v[r]) ∧
      ∀ n < jetG K, ∀ e < 128, elemAt y.v[(groupRegs K f.a).getD n 0] 8 e =
        if K < n then 0 else if (x.mask f.mkn).getLsbD e then elemAt x.v[(groupRegs K f.b).getD n 0] 8 e
        else elemAt x.v[(groupRegs K f.c).getD n 0] 8 e) ∧
    (Ready k c (.vmov f) f s → WellFormed (.vmov f) →
      RunsTo k c { x with v := x.v.set d.val x.v[vIx f.b], vs := x.vs.set d.val x.vs[vIx f.b] }.advance s (exec (.vmov f) s)) ∧
    (Ready k c (.vins f) f s → WellFormed (.vins f) → f.bit 17 = true →
      RunsTo k c { x with vs := x.vs.set d.val ((x.vs[d] &&& 0xFFFFFFFF00000000) ||| (x.hart.opd f.b &&& 0xFFFFFFFF)) }.advance s
        (exec (.vins f) s)) ∧
    (Ready k c (.vins f) f s → WellFormed (.vins f) → f.bit 17 = false → ∃ y : V1024,
      RunsTo k c { x with v := x.v.set d.val y }.advance s (exec (.vins f) s) ∧ ∀ e < 1024 / w,
        elemAt y w e = if e = i then (x.hart.opd f.b).toNat % 2 ^ w else elemAt x.v[d] w e) ∧
    (Ready k c (.vextr f) f s → WellFormed (.vextr f) →
      let v : W64 := if f.bit 17 then x.vs[vIx f.b] &&& 0xFFFFFFFF
        else if 1024 / w ≤ i then 0
        else if tyInt f.ty ∧ f.ty ≠ 2 then BitVec.ofInt 64 (signExt w (elemAt x.v[vIx f.b] w i))
        else BitVec.ofNat 64 (elemAt x.v[vIx f.b] w i)
      RunsTo k c (x.withHart (x.hart.dest f.a v)).advance s (exec (.vextr f) s)) ∧
    (Ready k c (.vsplat f) f s → WellFormed (.vsplat f) → (∀ n, f.b = .imm n → tyFloat f.ty = false) →
      LanesRun k c f x (fun _ => ((match f.b with | .imm n => wrap w n.toInt | o => (x.hart.opd o).toNat % 2 ^ w), 0)) s
        (exec (.vsplat f) s)) ∧
    (Ready k c (.vsplat f) f s → WellFormed (.vsplat f) → ∀ n, f.b = .imm n → tyFloat f.ty = true →
      effRnd f.rnd x.fround ≤ 5 →
      LanesRun k c f (x.drawn f) (fun e => (s.rnd f e).fin 0 (intVal n.toInt, 0)) s (exec (.vsplat f) s))

/-- R64, R139, R140: the mask instructions: `mand`, `mor` and `mxor` with inverted sources, `mcnt`, `vbound` and `vwidth`; m0 reads
all ones and discards writes. -/
def Clause.MaskResults : Prop :=
  ∀ (k : CoreId) (c : Fin 8) (f : Fields) (s : State), s.prompt →
    let x := s.ctx k c
    let w := tyWidth f.ty
    let src := fun (o : Opd) (inv : Bool) (j : Nat) => xor ((x.mask (mIx o)).getLsbD j) inv
    let mask := fun (i : Instr) (bit : Nat → Bool) =>
      Ready k c i f s → WellFormed i → ∃ y : BitVec 128, RunsTo k c { x with m := x.m.set (mIx f.a).val y }.advance s (exec i s) ∧
        ∀ j < 128, y.getLsbD j = if f.a = .m 0 then x.m[mIx f.a].getLsbD j else bit j
    mask (.mand f) (fun j => src f.b (f.bit 17) j && src f.c (f.bit 18) j) ∧
    mask (.mor f) (fun j => src f.b (f.bit 17) j || src f.c (f.bit 18) j) ∧
    mask (.mxor f) (fun j => xor (src f.b (f.bit 17) j) (src f.c (f.bit 18) j)) ∧
    mask (.vbound f) (fun j => decide ((x.hart.opd f.b).toInt + ((8 * j / w : Nat) : Int) < (x.hart.opd f.c).toInt)) ∧
    (Ready k c (.mcnt f) f s → WellFormed (.mcnt f) →
      RunsTo k c (x.withHart (x.hart.dest f.a
        (BitVec.ofNat 64 ((List.range (1024 / w)).filter (enabled (x.mask (mIx f.b)) w)).length))).advance s (exec (.mcnt f) s)) ∧
    (Ready k c (.vwidth f) f s → WellFormed (.vwidth f) →
      RunsTo k c (x.withHart (x.hart.dest f.a (BitVec.ofNat 64 (if f.ty = 0 then 1024 else 1024 / w)))).advance s (exec (.vwidth f) s))

/-- R64, R137, R139, R140, R163: what vector instructions leave in mask and condition registers. -/
def Obligations.ComparesAndMasks : Prop := Clause.VectorCompare ∧ Clause.MaskResults

/-- R95, R144: `vred` gives one value to a scalar register: the wrapped or saturated sum of the enabled elements, their bitwise
AND, OR or XOR, the least or the greatest of integers, and for the float sum and the float extrema the value of the pairwise tree. -/
def Clause.VectorReduce : Prop :=
  ∀ (k : CoreId) (c : Fin 8) (f : Fields) (s : State), Ready k c (.vred f) f s → WellFormed (.vred f) → s.prompt →
    let x := s.ctx k c
    let w := tyWidth f.ty
    let t := f.ty.toNat
    let op := f.bits 17 3
    let es := (x.lanes f).map (elemAt x.v[vIx f.b] w)
    let ints := es.map (decodeInt t w)
    let gives := fun (x : Ctx) (y : Nat) (fl : Fl) =>
      RunsTo k c ((x.withHart (x.hart.dest f.a (gOfElem f.ty y))).raiseFlags (orFlags 0 fl)).advance s (exec (.vred f) s)
    let entered := (List.range (1024 / w)).map fun e =>
      if enabled (x.mask f.mkn) w e then elemAt x.v[vIx f.b] w e else redIdentity op f.ty
    (op = 0 → tyFloat f.ty = false → f.bit 20 = false → gives x (wrap w ints.sum) 0) ∧
    (op = 0 → tyFloat f.ty = false → f.bit 20 = true →
      gives x (wrap w (max (intRange t).1 (min (intRange t).2 ints.sum)))
        (if ints.sum < (intRange t).1 ∨ (intRange t).2 < ints.sum then flOF else 0)) ∧
    (op = 1 → tyFloat f.ty = false → gives x (wrap w (ints.foldl min (intRange t).2)) 0) ∧
    (op = 2 → tyFloat f.ty = false → gives x (wrap w (ints.foldl max (intRange t).1)) 0) ∧
    (op = 3 → gives x (es.foldl (· &&& ·) (2 ^ w - 1)) 0) ∧ (op = 4 → gives x (es.foldl (· ||| ·) 0) 0) ∧
    (op = 5 → gives x (es.foldl (· ^^^ ·) 0) 0) ∧
    (op = 0 → tyFloat f.ty = true → effRnd f.rnd x.fround ≤ 5 →
      let r := s.rnd f
      let y := reduceTree (fun lvl n a b =>
        let v := valAdd (r 0).rdn (decodeFloat (floatFmt t) a) (decodeFloat (floatFmt t) b)
        let z := roundTo (floatFmt t) (r 0).m ((r (32 * lvl + n)).draw 0) v.1
        (z.1, v.2 ||| z.2)) 10 0 entered 0
      gives (x.drawn f) y.1 y.2) ∧
    (op = 1 ∨ op = 2 → tyFloat f.ty = true →
      gives x (reduceTree (fun _ _ a b =>
        (match fminTakesB (op == 2) (rawVal f.ty a) (rawVal f.ty b) with
          | some true => a | some false => b | none => qnanOf t, 0)) 10 0 entered 0).1 0)

/-- R145, R164: `vcvt` converts a slice of each coefficient's register, element by element, with the scale of the source's sidecar
half where it applies, and gives the destination the description of its type; the flags of coefficient n go to its group. -/
def Clause.VectorConvert : Prop :=
  ∀ (k : CoreId) (c : Fin 8) (f : Fields) (s : State), Ready k c (.vcvt f) f s → WellFormed (.vcvt f) → s.prompt →
    effRnd f.rnd (s.ctx k c).fround ≤ 5 →
    let x := s.ctx k c
    let K := x.jord.toNat
    let wd := tyWidth f.ty
    let ws := tyWidth f.from_
    let out := fun (n : Nat) (p : Nat × Nat) =>
      let rb := (groupRegs K f.b).getD n 0
      let v := elemValue (!tyFloat f.ty) f.from_.toNat (elemAt x.v[rb] ws p.2) (cvtScale f x.vs[rb] ws p.2)
      let y := intoType f.ty.toNat (s.rnd f p.1).m ((s.rnd f p.1).draw n) v.1
      (y.1, v.2 ||| y.2)
    let en := fun (p : Nat × Nat) => enabled (x.mask f.mkn) wd p.1
    ∃ y : Ctx, RunsTo k c y.advance s (exec (.vcvt f) s) ∧
      y = { x.drawn f with v := y.v, vs := y.vs, fflags := y.fflags } ∧
      (∀ r : Fin 32, r ∉ groupRegs K f.a → y.v[r] = x.v[r] ∧ y.vs[r] = x.vs[r]) ∧
      (∀ n < jetG K, ∀ p ∈ slice wd ws f.part, elemAt y.v[(groupRegs K f.a).getD n 0] wd p.1 =
        if K < n then 0 else if en p then (out n p).1 else if f.zr then 0 else elemAt x.v[(groupRegs K f.a).getD n 0] wd p.1) ∧
      (∀ n < jetG K, ∀ e < 1024 / wd, (∀ p ∈ slice wd ws f.part, p.1 ≠ e) →
        elemAt y.v[(groupRegs K f.a).getD n 0] wd e = if K < n then 0 else elemAt x.v[(groupRegs K f.a).getD n 0] wd e) ∧
      (∀ n ≤ K, vsDesc y.vs[(groupRegs K f.a).getD n 0] 0 = ⟨if f.ty ≤ 0xA then f.ty.setWidth 8 else 0, 0x7F⟩ ∧
        vsDesc y.vs[(groupRegs K f.a).getD n 0] 1 = ⟨if f.ty ≤ 0xA then f.ty.setWidth 8 else 0, 0x7F⟩) ∧
      ∀ j < 40, y.fflags.getLsbD j = (x.fflags.getLsbD j || (List.range (K + 1)).any fun n =>
        ((slice wd ws f.part).filter en).any fun p => (orFlags n (out n p).2).getLsbD j)

/-- R148: `vquant` chooses the power of two that takes the given maximum just inside the format, divides a slice by it, rounds, and
records type and scale in the half of the sidecar that the part names. -/
def Clause.VectorQuantize : Prop :=
  ∀ (k : CoreId) (c : Fin 8) (f : Fields) (s : State), Ready k c (.vquant f) f s → WellFormed (.vquant f) → s.prompt →
    effRnd f.rnd (s.ctx k c).fround ≤ 5 →
    let x := s.ctx k c
    let wd := tyWidth f.ty
    let ws := tyWidth f.from_
    let d := vIx f.a
    let amax := match f.c with | .v r => elemAt x.v[r] 32 0 | o => (x.hart.opd o).toNat % 2 ^ 32
    let sc := quantScale f.ty.toNat amax
    let out := fun (p : Nat × Nat) =>
      intoType f.ty.toNat (s.rnd f p.1).m ((s.rnd f p.1).draw 0) (if sc.1 = 0xFF then .nan
        else valScale (127 - (sc.1 : Int)) (decodeFloat (floatFmt f.from_.toNat) (elemAt x.v[vIx f.b] ws p.2)))
    let en := fun (p : Nat × Nat) => enabled (x.mask f.mkn) wd p.1
    let half := f.part * (1024 / ws) * wd / 8 / 64
    ∃ y : Ctx, RunsTo k c y.advance s (exec (.vquant f) s) ∧
      y = { x.drawn f with v := y.v, vs := y.vs, fflags := y.fflags } ∧
      (∀ r : Fin 32, r ≠ d → y.v[r] = x.v[r] ∧ y.vs[r] = x.vs[r]) ∧
      (∀ p ∈ slice wd ws f.part, elemAt y.v[d] wd p.1 =
        if en p then (out p).1 else if f.zr then 0 else elemAt x.v[d] wd p.1) ∧
      (∀ e < 1024 / wd, (∀ p ∈ slice wd ws f.part, p.1 ≠ e) → elemAt y.v[d] wd e = elemAt x.v[d] wd e) ∧
      vsDesc y.vs[d] half = ⟨f.ty.setWidth 8, BitVec.ofNat 8 sc.1⟩ ∧
      ∀ j < 40, y.fflags.getLsbD j = (x.fflags.getLsbD j || (orFlags 0 sc.2).getLsbD j ||
        ((slice wd ws f.part).filter en).any fun p => (orFlags 0 (out p).2).getLsbD j)

/-- R149, R150: `vcomp` keeps the two elements of greatest magnitude of each four, ties to the lower index, with their indices from
bit 512 on; `vexpd` puts kept elements back at their indices, the second winning where both are the same. -/
def Clause.VectorCompress : Prop :=
  ∀ (k : CoreId) (c : Fin 8) (f : Fields) (s : State), s.prompt →
    let x := s.ctx k c
    let w := tyWidth f.ty
    let b := x.v[vIx f.b]
    let beats := fun (g i j : Nat) =>
      magnitude f.ty (elemAt b w (4 * g + j)) < magnitude f.ty (elemAt b w (4 * g + i)) ∨
      (magnitude f.ty (elemAt b w (4 * g + j)) = magnitude f.ty (elemAt b w (4 * g + i)) ∧ i < j)
    (Ready k c (.vcomp f) f s → WellFormed (.vcomp f) → ∃ y : V1024,
      RunsTo k c { x with v := x.v.set (vIx f.a).val y }.advance s (exec (.vcomp f) s) ∧
      (∀ g < 256 / w, ∃ i j, i < j ∧ j < 4 ∧ elemAt y 2 (256 + 2 * g) = i ∧ elemAt y 2 (256 + 2 * g + 1) = j ∧
        elemAt y w (2 * g) = elemAt b w (4 * g + i) ∧ elemAt y w (2 * g + 1) = elemAt b w (4 * g + j) ∧
        ∀ q < 4, q ≠ i → q ≠ j → beats g i q ∧ beats g j q) ∧
      ∀ n, 512 + 1024 / w ≤ n → y.getLsbD n = false) ∧
    (Ready k c (.vexpd f) f s → WellFormed (.vexpd f) → ∃ y : V1024,
      RunsTo k c { x with v := x.v.set (vIx f.a).val y }.advance s (exec (.vexpd f) s) ∧
      ∀ g < 256 / w, ∀ q < 4, elemAt y w (4 * g + q) =
        if q = elemAt b 2 (256 + 2 * g + 1) then elemAt b w (2 * g + 1)
        else if q = elemAt b 2 (256 + 2 * g) then elemAt b w (2 * g) else 0)

/-- R145, R148, R149, R150, R164: the conversions between element types, by elements, blocks and groups. -/
def Obligations.VectorConversions : Prop := Clause.VectorConvert ∧ Clause.VectorQuantize ∧ Clause.VectorCompress

/-- R146, R147: `vqmax` alone gives every lane the greatest magnitude; in a group it sends its maximum to each other member and
waits in the exchange entry of its tag; a member that is no user core of the job is a trap with 0x07. -/
def Clause.GroupMaximum : Prop :=
  ∀ (k : CoreId) (c : Fin 8) (f : Fields) (s : State), Ready k c (.vqmax f) f s → WellFormed (.vqmax f) → s.prompt →
    let x := s.ctx k c
    let gs := 2 ^ f.bits 18 3
    let tag : BitVec 16 := (x.hart.opd f.c).setWidth 16
    let wide := fun (m : BitVec 32) (y : V1024) => ∀ e < 32, elemAt y 32 e = m.toNat
    let users := s.userCore k = true ∧ ∀ j ∈ groupOf k gs, s.userCore j = true
    (gs = 1 → users → ∃ y, wide (ownMax f x) y ∧
      RunsTo k c { x with v := x.v.set (vIx f.a).val y }.advance s (exec (.vqmax f) s)) ∧
    (¬users → x.undone = false → s.faultsOnce k c → ∃ ea, Traps k c 0x07 x.hart.pc ea s (exec (.vqmax f) s)) ∧
    (1 < gs → users →
      ((s.core k).exch.find? fun e => e.tag == tag) = none → (s.core k).exch.length < 8 → ∃ t, exec (.vqmax f) s = .next t ∧
        (t.ctx k c).wait = .vqmax tag ∧ (t.ctx k c).hart = x.hart ∧ (t.ctx k c).v = x.v ∧
        (t.core k).exch.find? (fun e => e.tag == tag) = some ⟨tag, some gs, some c, ownMax f x, [], false⟩ ∧
        t.vq.length = s.vq.length + (groupOf k gs).length ∧
        ∀ j ∈ groupOf k gs, ∃ m ∈ t.vq, m.src = k ∧ m.dst = j ∧ m.tag = tag ∧ m.gs = gs ∧ m.m = ownMax f x)

/-- R147, R370: `vqmax` that waits in its exchange entry goes on with the maximum of all once every member's contribution is there,
and frees the entry; where the contributions do not agree on the group it is a trap with 0x0C. -/
def Clause.GroupMaximumEnds : Prop :=
  ∀ (k : CoreId) (c : Fin 8) (f : Fields) (e : Exch) (s : State), Eligible k c (.vqmax f) f s → WellFormed (.vqmax f) → s.prompt →
    let x := s.ctx k c
    let gs := 2 ^ f.bits 18 3
    let tag : BitVec 16 := (x.hart.opd f.c).setWidth 16
    1 < gs → s.userCore k = true → (∀ j ∈ groupOf k gs, s.userCore j = true) → x.wait = .vqmax tag →
    ((s.core k).exch.find? fun e => e.tag == tag) = some e → e.owner = some c →
    (e.bad = false → (∀ j ∈ groupOf k gs, ∃ g ∈ e.got, g.1 = j) → ∃ y : V1024,
      (∀ l < 32, elemAt y 32 l = (e.got.foldl (fun m g => maxMag m g.2) e.own).toNat) ∧
      Resumes k c { x with wait := .none, v := x.v.set (vIx f.a).val y }.advance
        (s.modCore k fun co => { co with exch := co.exch.filter fun x => x.tag != tag }) (exec (.vqmax f) s)) ∧
    (e.bad = false → (∃ j ∈ groupOf k gs, ∀ g ∈ e.got, g.1 ≠ j) → exec (.vqmax f) s = .next s) ∧
    (e.bad = true → x.undone = false → s.faultsOnce k c → Traps k c 0x0C x.hart.pc (tag.setWidth 64) s (exec (.vqmax f) s))

/-- R95, R144, R146, R147: the reductions within a register and the maximum over a group of cores. -/
def Obligations.ReductionsAndMaxima : Prop := Clause.VectorReduce ∧ Clause.GroupMaximum ∧ Clause.GroupMaximumEnds

/-- R151-R153, R166, R167: the jet instructions that write a whole group deliver the coefficients of the rule in every enabled
lane and zero above the order. -/
def Clause.JetGroups : Prop :=
  ∀ p ∈ jetTable, ∀ (k : CoreId) (c : Fin 8) (f : Fields) (s : State), Ready k c (p.1 f) f s → WellFormed (p.1 f) →
    s.prompt → (p.2.1 = true → effRnd f.rnd (s.ctx k c).fround ≤ 5) →
    let x := s.ctx k c
    GroupRuns k c f (if p.2.1 then x.drawn f else x) (p.2.2 s x f) s (exec (p.1 f) s)

/-- R167: `jget` copies coefficient n of each enabled lane, or with FACT gives n! times it, rounded; `jset` writes one coefficient
of the group; an order n beyond K reads zero and writes nothing. -/
def Clause.JetElements : Prop :=
  ∀ (k : CoreId) (c : Fin 8) (f : Fields) (s : State), s.prompt →
    let x := s.ctx k c
    let K := x.jord.toNat
    let w := tyWidth f.ty
    let n := (x.hart.opd f.c).toNat
    let cf := fun e => (x.coefs K f.ty f.b e).getD n 0
    (Ready k c (.jget f) f s → WellFormed (.jget f) → f.bit 18 = false →
      LanesRun k c f x (fun e => (if n ≤ K then cf e else 0, 0)) s (exec (.jget f) s)) ∧
    (Ready k c (.jget f) f s → WellFormed (.jget f) → f.bit 18 = true → effRnd f.rnd x.fround ≤ 5 →
      LanesRun k c f (x.drawn f) (fun e =>
        if n ≤ K then (s.rnd f e).fin 0 (fvMul (fvInt (fact n)) ((s.rnd f e).val (cf e))) else (0, 0)) s (exec (.jget f) s)) ∧
    (Ready k c (.jset f) f s → WellFormed (.jset f) → K < n → GoesOn k c s (exec (.jset f) s)) ∧
    (Ready k c (.jset f) f s → WellFormed (.jset f) → n ≤ K →
      let d := (groupRegs K f.a).getD n 0
      ∃ y : V1024, RunsTo k c { x with v := x.v.set d.val y }.advance s (exec (.jset f) s) ∧ ∀ e < 1024 / w,
        elemAt y w e = if enabled (x.mask f.mkn) w e then x.src f.ty f.b e else if f.zr then 0 else elemAt x.v[d] w e)

/-- R151-R153, R166, R167: the jet group. -/
def Obligations.JetResults : Prop := Clause.JetGroups ∧ Clause.JetElements

/-! ### Anvil group -/

/-- R170, R176-R182: on a core at rest an anvil instruction whose checks pass goes on with its result in the tile: the products,
zeros, the rows of local memory, the scaled cells; `arow` copies two rows of a tile to a vector register. -/
def Clause.AnvilTiles : Prop :=
  ∀ (k : CoreId) (c : Fin 8) (f : Fields) (s : State), Quiet k c s →
    let x := s.ctx k c
    let tern := if f.ty = 0 then (s.rowDesc ((anvSrc x.hart f.b 1).places.headD (.inl 0))).fmt == 3 else f.ty == 3
    let a := anvSrc x.hart f.b 1
    let b := anvSrc x.hart f.c (if tern then 4 else 1)
    let a2 := anvSrc x.hart f.b 2
    let fmts := fun (p : AnvSrc) => ∀ q ∈ p.places, (s.rowDesc q).fmt.toNat ≤ 0xA
    let row := fun (p : Nat ⊕ (Fin 32 × Nat)) => s.readRow k c ⟨p, s.rowDesc p⟩
    let tile := fun (i : Instr) (z : Fin 4) (cells : List (Nat × Fl)) => RunsTo k c (x.setTile z cells).advance s (exec i s)
    (Ready k c (.amma f) (s.ammaFields f) s → WellFormed (.amma f) → (f.fw = true → ∀ l ∈ a.lines ++ b.lines, (s.core k).fillBit l = true) →
      a.misaligned = none → b.misaligned = none → a.outside = none → b.outside = none → fmts a → fmts b →
      (∀ n : Fin 32, f.c = .v n → tern = true → n.val % 16 = 0) →
      (f.ty = 0 → ∃ m, m ≠ 0 ∧ (∀ q ∈ a.places, ammaMode (s.rowDesc q).fmt = m) ∧
        ∀ q ∈ b.places, if tern then (s.rowDesc q).fmt = 1 else ammaMode (s.rowDesc q).fmt = m) →
      tile (.amma f) (zIx f.a) (ammaCells tern (if f.ty = 0 then none else some (f.ty.setWidth 8))
        (if f.ty = 0 then none else some (f.from_.setWidth 8)) (f.bit 17) (s.rows a) (s.rows b) (a.places.map row)
        (b.places.map row) x.z[zIx f.a])) ∧
    (Ready k c (.azero f) f s → tile (.azero f) (zIx f.a) []) ∧
    (Ready k c (.ald f) f s → WellFormed (.ald f) → (f.fw = true → ∀ l ∈ a2.lines, (s.core k).fillBit l = true) → a2.misaligned = none →
      a2.outside = none → (∀ q ∈ a2.places, (s.rowDesc q).fmt ≠ 0xFF) →
      tile (.ald f) (zIx f.a) ((List.range 256).map fun n =>
        (leNat (memRead (s.core k).loc (a2.offs.getD (16 * (n % 16 / 8) + n / 16) 0 + 4 * (n % 8)) 4), 0))) ∧
    (Ready k c (.ascale f) f s → WellFormed (.ascale f) →
      tile (.ascale f) (zIx f.a) ((List.range 256).map fun n =>
        scaleCell (f.from_ == 0xA) (f.bit 17) (x.z[zIx f.b][n]?.getD 0) (elemAt x.v[vIx f.c] 32 (n / 16))
          (elemAt x.v[vIx f.c] 32 (16 + n % 16)))) ∧
    (Ready k c (.arow f) f s → WellFormed (.arow f) → ∃ y : V1024,
      RunsTo k c { x with v := x.v.set (vIx f.a).val y }.advance s (exec (.arow f) s) ∧ ∀ e < 32,
        elemAt y 32 e = if enabled (x.mask f.mkn) 32 e then
            (x.z[zIx f.b][16 * (2 * ((x.hart.opd f.c).toNat % 8) + e / 16) + e % 16]?.getD 0).toNat
          else if f.zr then 0 else elemAt x.v[vIx f.a] 32 e)

/-- R96, R178: a cell of a ternary product is the exact sum, clamped once; a cell of a float product adds groups of eight products,
each group rounded to FP32 by RNE before it is added; with no element the cell is unchanged. -/
def Clause.AnvilCells : Prop :=
  (∀ (z : BitVec 32) (as : List (Int × Fl)) (bs : List Int), as.length = bs.length →
    let n := z.toInt + ((as.zip bs).map fun p => p.1.1 * p.2).sum
    cellTern z as bs = (wrap 32 (max (-(2 ^ 31)) (min (2 ^ 31 - 1) n)), if n < -(2 ^ 31) ∨ 2 ^ 31 - 1 < n then flOF else 0)) ∧
  (∀ z, cellFloat z [] [] = (z, 0)) ∧
  (∀ (z : Nat) (as bs as' bs' : List FV), as.length = 8 → bs.length = 8 → as'.length % 8 = 0 → bs'.length = as'.length →
    cellFloat z (as' ++ as) (bs' ++ bs) =
      let acc := cellFloat z as' bs'
      let p := toFP32 (groupSum ((as.zip bs).map fun q => fvMul q.1 q.2))
      let r := toFP32 (fvAdd false (ofFP32 acc.1) (decodeFloat fFP32 p.1, p.2))
      (r.1, acc.2 ||| r.2))

/-- R180, R183-R185: on a core at rest `ast` stores the tile's words to the rows of its descriptor and describes their blocks, and
`adrain` without a wake-up stores the tile's lines, row after row, at an address of the core's own; every other byte is as before. -/
def Clause.AnvilStores : Prop :=
  ∀ (k : CoreId) (c : Fin 8) (f : Fields) (s : State), Quiet k c s →
    let x := s.ctx k c
    let a := anvSrc x.hart f.a 2
    let zb := x.z[zIx f.b]
    let ea := x.hart.opd f.a
    let off := (ea.extractLsb' 0 17).toNat
    let wide := if f.ty = 7 then 2 else 4
    (Ready k c (.ast f) f s → WellFormed (.ast f) → a.misaligned = none → a.outside = none →
      (∀ n < 32, ∀ m < n, a.offs.getD n 0 + 32 ≤ a.offs.getD m 0 ∨ a.offs.getD m 0 + 32 ≤ a.offs.getD n 0) →
      ∃ t, exec (.ast f) s = .next t ∧ t.issued = true ∧ (t.ctx k c).arch = x.advance.arch ∧ t.mem = s.mem ∧
        (∀ i < 16, ∀ j < 16, memRead (t.core k).loc (a.offs.getD (16 * (j / 8) + i) 0 + 4 * (j % 8)) 4 =
          leBytes 4 (zb[16 * i + j]?.getD 0).toNat) ∧
        (∀ p, (∀ o ∈ a.offs, ¬(o ≤ p ∧ p < o + 32)) → memGet (t.core k).loc p = memGet (s.core k).loc p) ∧
        (∀ o ∈ a.offs, (t.core k).locDesc o = ⟨f.ty.setWidth 8, 0x7F⟩) ∧ (∀ d, d ≠ c → t.ctx k d = s.ctx k d) ∧
        ∀ j, j ≠ k → t.core j = s.core j) ∧
    (Ready k c (.adrain f) f s → WellFormed (.adrain f) → f.bit 17 = true → ea.getLsbD 63 = true →
      s.windowCore k ea = some k → off % 128 = 0 → off + 256 * wide ≤ 0x20000 → s.userCore k = true →
      ∃ t, exec (.adrain f) s = .next t ∧ t.issued = true ∧
        (t.ctx k c).arch = ({ x with fflags := (t.ctx k c).fflags }).advance.arch ∧ t.mem = s.mem ∧
        (∀ n < 256, memRead (t.core k).loc (off + wide * n) wide = leBytes wide
          (if f.ty = 7 then (roundTo fBF16 0 0 (decodeFloat fFP32 (zb[n]?.getD 0).toNat)).1 else (zb[n]?.getD 0).toNat)) ∧
        (∀ p, ¬(off ≤ p ∧ p < off + 256 * wide) → memGet (t.core k).loc p = memGet (s.core k).loc p) ∧
        (∀ d, d ≠ c → t.ctx k d = s.ctx k d) ∧ ∀ j, j ≠ k → t.core j = s.core j)

/-- R96, R170, R176-R182, R178, R180, R183-R185: the anvil group. -/
def Obligations.AnvilResults : Prop := Clause.AnvilTiles ∧ Clause.AnvilCells ∧ Clause.AnvilStores

/-! ### Memory group -/

/-- The cause that an access of `size` bytes raises at its issue (R188-R190, R237, R239), the checks in their order: alignment; the end of
the own local memory, or a local-window address that names no core or passes the end of its local memory; protection: another core that
user mode may not reach, a package that no carrier reaches, a global address past the 57-bit space, or a page, as the core's TLB has it,
whose home the core may not have. -/
def BadAccess (s : State) (k : CoreId) (user wr af : Bool) (ea : W64) (align size : Nat) (cause : Cause) : Prop :=
  let off := (ea.extractLsb' 0 17).toNat
  let lw := ea.getLsbD 63
  (cause = 0x05 ∧ ea.toNat % align ≠ 0) ∨
  (ea.toNat % align = 0 ∧
    ((cause = 0x08 ∧ af = false ∧ 0x20000 < ea.toNat + size) ∨
    (cause = 0x08 ∧ af = true ∧ lw = true ∧ (s.windowCore k ea = none ∨ 0x20000 < off + size)) ∨
    (cause = 0x07 ∧ af = true ∧ lw = true ∧ off + size ≤ 0x20000 ∧ ∃ j, s.windowCore k ea = some j ∧
      ((user = true ∧ j ≠ k ∧ (s.userCore j = false ∨ s.userCore k = false)) ∨ s.reaches (pkgOf k) (pkgOf j) = false)) ∨
    (cause = 0x07 ∧ af = true ∧ lw = false ∧ 2 ^ 57 < ea.toNat + size) ∨
    (cause = 0x07 ∧ af = true ∧ lw = false ∧ ea.toNat + size ≤ 2 ^ 57 ∧ 0 < size ∧ ∃ e,
      (s.core k).tlb.find? (fun e => e.has ea.toNat) = some e ∧ e.refuses wr false user = false ∧
      (badHome (pkgOf k) (e.pa ea.toNat) = true ∨ s.reaches (pkgOf k) (homePkg (e.pa ea.toNat)) = false))))

/-- R37, R188-R190, R237-R239, R370: every access of a core that fails a check at its issue traps with its cause, the address as
fault address, and nothing is read, written or incremented: scalar, vector, block and metadata accesses, the atomics, and of a gather
or scatter the first enabled element that fails. -/
def Clause.AccessTraps : Prop :=
  ∀ (k : CoreId) (c : Fin 8) (f : Fields) (s : State), Quiet k c s → s.faultsOnce k c →
    let x := s.ctx k c
    let K := x.jord.toNat
    let user := !x.sup
    let n := szBytes f.sz
    let M1 : List (Instr × Bool × Nat × Nat) := [(.ld f, false, n, n), (.st f, true, n, n), (.vld f, false, 128, 128 * (K + 1)),
      (.vst f, true, 128, 128 * (K + 1)), (.ldblk f, false, 64, 64), (.stblk f, true, 64, 64), (.ldmeta f, false, 1, 1),
      (.stmeta f, true, 1, 1)]
    let word := tyWidth f.ty / 8
    let at' : List (Instr × Nat) := [(.aadd f, word), (.aand f, word), (.aor f, word), (.axor f, word), (.amin f, word),
      (.amax f, word), (.axchg f, word), (.acas f, word), (.afadd f, word), (.ablk f, 64)]
    let w := if f.ty = 0xC then 8 else 4
    let on := fun e => (x.mask f.mkn).getLsbD (e * w)
    (∀ i ∈ M1, ∀ cause, Ready k c i.1 f s → BadAccess s k user i.2.1 f.af1 (x.hart.ea f) i.2.2.1 i.2.2.2 cause →
      Traps k c cause x.hart.pc (x.hart.ea f) s (exec i.1 s)) ∧
    (∀ i ∈ at', ∀ cause, Ready k c i.1 f s → BadAccess s k user true f.af3 (x.hart.opd f.b) i.2 i.2 cause →
      Traps k c cause x.hart.pc (x.hart.opd f.b) s (exec i.1 s)) ∧
    ∀ i ∈ [(Instr.vldx f, false), (.vstx f, true)], ∀ e < 128 / w, ∀ cause, Ready k c i.1 f s → on e = true →
      BadAccess s k user i.2 f.af3 (gatherEa s f e) w w cause →
      (∀ q < e, on q = true → ∃ tgt, s.check i.2 f.af3 (gatherEa s f q) w w = .ok tgt) →
      Traps k c cause x.hart.pc (gatherEa s f e) s (exec i.1 s)

/-- R188, R190: the core that a local-window address names, absolute or relative to the issuing core, none where a reserved bit is set or
a coordinate leaves the mesh or the pod; and the physical addresses that no core, or only its own package, may have. -/
def Clause.Places : Prop :=
  (∀ (k : CoreId) (ea : W64) (s : State),
    let fld := fun (lo n base : Nat) =>
      if ea.getLsbD 62 then (base : Int) + (if n = 6 then (ea.extractLsb' lo 6).toInt else (ea.extractLsb' lo 8).toInt)
      else ((ea.toNat / 2 ^ lo % 2 ^ n : Nat) : Int)
    let p := fld 56 6 (pkgOf k)
    let y := fld 48 8 (yOf k)
    let x := fld 40 8 (xOf k)
    (ea.extractLsb' 17 23 ≠ 0 → s.windowCore k ea = none) ∧
    (y < 0 ∨ 256 ≤ y ∨ x < 0 ∨ 256 ≤ x ∨ p < 0 ∨ 64 ≤ p ∨ s.podHas (pkgOf k) p.toNat = false → s.windowCore k ea = none) ∧
    ∀ j, s.windowCore k ea = some j → (pkgOf j : Int) = p ∧ (yOf j : Int) = y ∧ (xOf j : Int) = x) ∧
  ∀ (p : PkgId) (pa : Nat), let o := pa % 2 ^ 52
    badHome p pa = true ↔ (0xF000000000 ≤ o ∧ o < 0x100000000000) ∨ (0x500000000000 ≤ o ∧ o < 0x800000000000) ∨
      0x1000000000000 ≤ o ∨ (0x100000000000 ≤ o ∧ pa / 2 ^ 52 ≠ p)

/-- R165, R238, R240-R245: on a core at rest a load from the core's own local memory writes its destination from the bytes there and
their description, after the base register has been incremented in the post-increment mode. -/
def Clause.OwnLoads : Prop :=
  ∀ (k : CoreId) (c : Fin 8) (f : Fields) (s : State), Quiet k c s → f.af1 = false →
    let x := s.ctx k c
    let co := s.core k
    let y := x.withHart (x.hart.postInc f)
    let o := (x.hart.ea f).toNat
    let K := x.jord.toNat
    let n := szBytes f.sz
    let mask := x.mask f.mk1
    let touched := fun (p h : Nat) => ∃ j < 64, mask.getLsbD (64 * h + j) = true ∧ p ≤ K
    let d := vIx f.a
    (Ready k c (.ld f) f s → WellFormed (.ld f) → o % n = 0 → o + n ≤ 0x20000 → (co.locDesc o).fmt ≠ 0xFF →
      RunsTo k c (y.withHart (y.hart.dest f.a (extLoad f.sz (memRead co.loc o n)))).advance s (exec (.ld f) s)) ∧
    (Ready k c (.vld f) f s → WellFormed (.vld f) → o % 128 = 0 → o + 128 * (K + 1) ≤ 0x20000 →
      (∀ p h, h < 2 → touched p h → (co.locDesc (o + 128 * p + 64 * h)).fmt ≠ 0xFF) →
      (f.bit 27 = true → ∀ p ≤ K, co.fillBit ((o + 128 * p) / 128) = true) →
      ∃ z : Ctx, RunsTo k c z.advance s (exec (.vld f) s) ∧ z = { y with v := z.v, vs := z.vs } ∧
        (∀ r : Fin 32, r ∉ groupRegs K f.a → z.v[r] = x.v[r] ∧ z.vs[r] = x.vs[r]) ∧
        (∀ p < jetG K, ∀ j < 128, elemAt z.v[(groupRegs K f.a).getD p 0] 8 j =
          if K < p then 0 else if mask.getLsbD j then (memGet co.loc (o + 128 * p + j)).toNat
          else if f.bit 29 then 0 else elemAt x.v[(groupRegs K f.a).getD p 0] 8 j) ∧
        (∀ p, ∀ h < 2, touched p h →
          vsDesc z.vs[(groupRegs K f.a).getD p 0] h = co.locDesc (o + 128 * p + 64 * h)) ∧
        (∀ p ≤ K, ∀ h < 2, ¬touched p h →
          vsDesc z.vs[(groupRegs K f.a).getD p 0] h = vsDesc x.vs[(groupRegs K f.a).getD p 0] h) ∧
        ∀ p, K < p → p < jetG K → z.vs[(groupRegs K f.a).getD p 0] = 0) ∧
    (Ready k c (.ldblk f) f s → WellFormed (.ldblk f) → o % 64 = 0 → o + 64 ≤ 0x20000 → ∃ z : Ctx,
      RunsTo k c z.advance s (exec (.ldblk f) s) ∧ z = { y with v := z.v, vs := z.vs } ∧
        (∀ r : Fin 32, r ≠ d → z.v[r] = x.v[r] ∧ z.vs[r] = x.vs[r]) ∧
        (∀ j < 128, elemAt z.v[d] 8 j = if j / 64 = hHalf f then (memGet co.loc (o + j % 64)).toNat else elemAt x.v[d] 8 j) ∧
        vsDesc z.vs[d] (hHalf f) = co.locDesc o ∧ vsDesc z.vs[d] (1 - hHalf f) = vsDesc x.vs[d] (1 - hHalf f)) ∧
    (Ready k c (.ldmeta f) f s → WellFormed (.ldmeta f) → o < 0x20000 →
      RunsTo k c (y.withHart (y.hart.dest f.a (((co.locDesc o).scale ++ (co.locDesc o).fmt).setWidth 64))).advance s
        (exec (.ldmeta f) s))

/-- R243: a gather from the core's own local memory reads one element per enabled lane, and a scatter writes one, each at the base
plus the lane's index, shifted. -/
def Clause.OwnGathers : Prop :=
  ∀ (k : CoreId) (c : Fin 8) (f : Fields) (s : State), Quiet k c s → f.af3 = false → s.cur = .ctx k c →
    let x := s.ctx k c
    let co := s.core k
    let w := if f.ty = 0xC then 8 else 4
    let on := fun e => (x.mask f.mkn).getLsbD (e * w)
    let ea := fun e => (gatherEa s f e).toNat
    (∀ e < 128 / w, on e = true → ea e % w = 0 ∧ ea e + w ≤ 0x20000) →
    (Ready k c (.vldx f) f s → WellFormed (.vldx f) →
      (∀ e < 128 / w, on e = true → (co.locDesc (ea e)).fmt ≠ 0xFF ∧ (f.fw = true → co.fillBit (ea e / 128) = true)) →
      ∃ y : V1024, RunsTo k c { x with v := x.v.set (vIx f.a).val y }.advance s (exec (.vldx f) s) ∧ ∀ e < 128 / w,
        elemAt y (8 * w) e = if on e then leNat (memRead co.loc (ea e) w) else if f.bit 20 then 0
          else elemAt x.v[vIx f.a] (8 * w) e) ∧
    (Ready k c (.vstx f) f s → WellFormed (.vstx f) →
      ∃ t, exec (.vstx f) s = .next t ∧ t.issued = true ∧ (t.ctx k c).arch = x.advance.arch ∧ t.around = s.around ∧
        (∀ e < 128 / w, on e = true → (∀ q < 128 / w, e < q → on q = true → ea q ≠ ea e) →
          memRead (t.core k).loc (ea e) w = leBytes w (elemAt x.v[vIx f.a] (8 * w) e)) ∧
        (∀ p, (∀ e < 128 / w, on e = true → ¬(ea e ≤ p ∧ p < ea e + w)) →
          memGet (t.core k).loc p = memGet (s.core k).loc p) ∧
        (∀ e < 128 / w, on e = true → (t.core k).locDesc (ea e) = ⟨if f.ty = 0xC then 0 else f.ty.setWidth 8, 0x7F⟩) ∧
        (∀ d, d ≠ c → t.ctx k d = s.ctx k d) ∧ ∀ j, j ≠ k → t.core j = s.core j)

/-- R165, R238, R240-R245, R243: loads and gathers of a core at rest from its own local memory. -/
def Obligations.OwnLoads : Prop := Clause.OwnLoads ∧ Clause.OwnGathers

/-- R165, R238, R241-R245: on a core at rest a store to the core's own local memory writes its enabled bytes and the descriptions
its form writes; a scalar store leaves the description. -/
def Clause.OwnStores : Prop :=
  ∀ (k : CoreId) (c : Fin 8) (f : Fields) (s : State), Quiet k c s → f.af1 = false →
    let x := s.ctx k c
    let y := x.withHart (x.hart.postInc f)
    let o := (x.hart.ea f).toNat
    let K := x.jord.toNat
    let n := szBytes f.sz
    let mask := x.mask f.mk1
    let reg := fun p => (groupRegs K f.a).getD p 0
    (Ready k c (.st f) f s → WellFormed (.st f) → o % n = 0 → o + n ≤ 0x20000 →
      StoresTo k c y.advance o (giveBytes (leBytes n (x.hart.opd f.a).toNat)) (fun _ => none) s (exec (.st f) s)) ∧
    (Ready k c (.vst f) f s → WellFormed (.vst f) → o % 128 = 0 → o + 128 * (K + 1) ≤ 0x20000 →
      StoresTo k c y.advance o ((List.range (K + 1)).flatMap fun p => maskBytes mask (leBytes 128 x.v[reg p].toNat))
        (fun j => if o / 64 ≤ j ∧ j < o / 64 + 2 * (K + 1) ∧ (List.range 64).any (fun b => mask.getLsbD (64 * ((j - o / 64) % 2) + b))
          then some (vsDesc x.vs[reg ((j - o / 64) / 2)] ((j - o / 64) % 2)) else none) s (exec (.vst f) s)) ∧
    (Ready k c (.stblk f) f s → WellFormed (.stblk f) → o % 64 = 0 → o + 64 ≤ 0x20000 →
      StoresTo k c y.advance o (giveBytes (((leBytes 128 x.v[vIx f.a].toNat).drop (64 * hHalf f)).take 64))
        (fun j => if j = o / 64 then some (vsDesc x.vs[vIx f.a] (hHalf f)) else none) s (exec (.stblk f) s)) ∧
    (Ready k c (.stmeta f) f s → WellFormed (.stmeta f) → o < 0x20000 →
      StoresTo k c y.advance o []
        (fun j => if j = o / 64 then some ⟨(x.hart.opd f.a).extractLsb' 0 8, (x.hart.opd f.a).extractLsb' 8 8⟩ else none) s
        (exec (.stmeta f) s))

/-- R217, R247-R250: on a core at rest an atomic on the core's own local memory reads its word or block, leaves what its operation
gives and writes the old value, sign-extended, to its destination; a failed `acas` leaves the word; ordered forms at a scope below
the pod do the same. -/
def Clause.OwnAtomics : Prop :=
  ∀ (k : CoreId) (c : Fin 8) (f : Fields) (s : State), Quiet k c s → f.af3 = false →
    (f.ordRel = true ∨ f.ordAcq = true → f.sc ≠ 4) →
    let x := s.ctx k c
    let o := (x.hart.opd f.b).toNat
    let w := tyWidth f.ty
    let old := leNat (memRead (s.core k).loc o (w / 8))
    let back := fun (v : W64) => x.withHart (x.hart.dest f.a v)
    let blk := blockOf (memRead (s.core k).loc o 64)
    let arg := x.v[vIx f.c].setWidth 512
    let new := ablkNew (opbOf (f.bits 18 3)) (f.ty == 9) blk arg
    o % 64 + w / 8 ≤ 64 → o + 64 ≤ 0x20000 → (s.core k).locDesc o ≠ ⟨0xFF, ((s.core k).locDesc o).scale⟩ →
    (∀ p ∈ atomicTable, Ready k c (p.1 f) f s → WellFormed (p.1 f) → o % (w / 8) = 0 →
      StoresTo k c (back (BitVec.ofInt 64 (signExt w old))).advance o
        (match p.2 w old (x.hart.elem f.ty f.c) ((x.hart.opd f.a).toNat % 2 ^ w) with
          | some n => giveBytes (leBytes (w / 8) n) | none => []) (fun _ => none) s (exec (p.1 f) s)) ∧
    (Ready k c (.afadd f) f s → WellFormed (.afadd f) → o % 4 = 0 →
      let v := valAdd false (decodeFloat fFP32 old) (decodeFloat fFP32 (x.hart.elem f.ty f.c))
      let z := roundTo fFP32 0 0 v.1
      StoresTo k c ((back (BitVec.ofNat 64 old)).raiseFlags (orFlags 0 (v.2 ||| z.2))).advance o (giveBytes (leBytes 4 z.1))
        (fun _ => none) s (exec (.afadd f) s)) ∧
    (Ready k c (.ablk f) f s → WellFormed (.ablk f) → o % 64 = 0 →
      ((s.core k).locDesc o).fmt = 0 ∨ ((s.core k).locDesc o).fmt = f.ty.setWidth 8 →
      ∃ z : Ctx, StoresTo k c z.advance o (giveBytes (bytesB new.1))
          (fun j => if j = o / 64 then some ⟨f.ty.setWidth 8, ((s.core k).locDesc o).scale⟩ else none) s (exec (.ablk f) s) ∧
        z = { x with v := z.v, vs := z.vs, fflags := x.fflags ||| orFlags 0 new.2 } ∧
        (∀ r : Fin 32, f.a ≠ .v r → z.v[r] = x.v[r] ∧ z.vs[r] = x.vs[r]) ∧
        ∀ r : Fin 32, f.a = .v r → z.v[r].setWidth 512 = blk ∧ z.v[r].extractLsb' 512 512 = x.v[r].extractLsb' 512 512 ∧
          vsDesc z.vs[r] 0 = (s.core k).locDesc o)

/-- R165, R217, R238, R241-R245, R247-R250: stores and atomics of a core at rest to its own local memory. -/
def Obligations.OwnWrites : Prop := Clause.OwnStores ∧ Clause.OwnAtomics

/-- R207, R240, R249, R261: an access whose completion is deferred and that finds room in its die's pool for all that may yet park (the
model's count, log 67) enters the core's accesses with its elements not yet moved and the
releases it waits for, and the context goes on, wherever the address leads; a store or atomic is counted in unack until it is
performed. -/
def Clause.AccessesEnter : Prop :=
  ∀ (k : CoreId) (c : Fin 8) (f : Fields) (s : State), s.lag.headD 0 ≠ 0 → (s.core k).accs = [] → (s.ctx k c).fences = [] →
    (s.ctx k c).flight = [] → (s.ctx k c).pend = [] → s.cur = .ctx k c → s.poolLoad (dieOf k) < 4096 → (s.core k).rels.length < 16 →
    let x := s.ctx k c
    let y := x.withHart (x.hart.postInc f)
    let enters := fun (i : Instr) (kind : AKind) (ea : W64) (tgt : Tgt) (bs : List (Option Byte)) (off : Nat) (z : Ctx) (cnt : Bool) =>
      Ready k c i f s → WellFormed i → ∃ t, exec i s = .next t ∧ t.issued = true ∧
        (t.ctx k c).arch = { z.advance.arch with pend := if cnt then [s.ids + 1] else [] } ∧
        (t.core k).accs = [{
          id := s.ids + 1, ctx := c, user := !x.sup, kind := kind, parts := [newPart ea tgt off bs], pc := x.hart.pc,
          rels := (s.core k).rels.map (·.id), counted := cnt, through := x.mmrev == 1, mi := f.mi,
          acq := if kind.isAtomic ∧ f.ordAcq then some f.sc else none }] ∧
        (t.core k).loc = (s.core k).loc ∧ t.mem = s.mem ∧ (∀ d, d ≠ c → t.ctx k d = s.ctx k d) ∧ ∀ j, j ≠ k → t.core j = s.core j
    let ea := x.hart.ea f
    let n := szBytes f.sz
    let w := tyWidth f.ty
    let eb := x.hart.opd f.b
    let op := fun (i : Instr) (a : AtOp) => ∀ tgt, s.check true f.af3 eb (w / 8) (w / 8) = .ok tgt → f.ordRel = false →
      enters i (.atomic a w (match f.a with | .g r => some r | _ => none) (BitVec.ofNat 64 (x.hart.elem f.ty f.c)) (x.hart.opd f.a))
        eb tgt (want (w / 8)) 0 x true
    (∀ tgt, s.check false f.af1 ea n n = .ok tgt → enters (.ld f) (.ld f.sz (gIx f.a)) ea tgt (want n) 0 y false) ∧
    (∀ tgt, s.check true f.af1 ea n n = .ok tgt → enters (.st f) .st ea tgt (giveBytes (leBytes n (x.hart.opd f.a).toNat)) 0 y true) ∧
    (∀ tgt, s.check false f.af1 ea 64 64 = .ok tgt →
      enters (.ldblk f) (.ldblk (vIx f.a) (f.bit 24)) ea tgt (want 64) (64 * hHalf f) y false) ∧
    (∀ tgt, s.check true f.af1 ea 64 64 = .ok tgt → enters (.stblk f) (.stblk (vsDesc x.vs[vIx f.a] (hHalf f))) ea tgt
        (giveBytes (((leBytes 128 x.v[vIx f.a].toNat).drop (64 * hHalf f)).take 64)) 0 y true) ∧
    op (.aadd f) .add ∧ op (.aand f) .and ∧ op (.aor f) .or ∧ op (.axor f) .xor ∧ op (.amin f) .min ∧ op (.amax f) .max ∧
    op (.axchg f) .xchg ∧ op (.acas f) .cas ∧ op (.afadd f) .fadd ∧
    (ea.extractLsb' 57 7 = 0 → enters (.pref f) (.pref (f.bits 24 2 == 1)) (ea &&& ~~~0x3F#64) (.glob (ea &&& ~~~0x3F#64)) (want 64) 0
      y false) ∧
    (ea.extractLsb' 57 7 ≠ 0 → Ready k c (.pref f) f s → RunsTo k c y.advance s (exec (.pref f) s))

/-- R37, R188-R190, R207, R237-R239, R240, R249, R370: what an access checks at its issue, and the access it leaves for later. -/
def Obligations.AccessIssue : Prop := Clause.AccessTraps ∧ Clause.Places ∧ Clause.AccessesEnter

/-- R210, R246: `fence` goes on where unack counts nothing, waits at a scope beyond the core while it counts anything (the model's reading,
log 17), and at core scope goes on where what it counts is a plain store that stands in its core's L1, written through by nobody; `phase`
waits for the context's loads and atomics. -/
def Clause.FenceWaits : Prop :=
  ∀ (k : CoreId) (c : Fin 8) (f : Fields) (s : State),
    let x := s.ctx k c
    let stands := fun (p : Part) => ∃ pa, (p.stage = .tagReq pa ∨ p.stage = .susp pa) ∧
      let copies := (s.core (s.l1Core k (pa / 128))).l1.filter fun l => l.line == pa / 128
      copies ≠ [] ∧ ∀ l ∈ copies, l.unmerged (pa / 64 % 2) (byteMask pa p.bytes) = false
    (Ready k c (.fence f) f s → (x.pend = [] → GoesOn k c s (exec (.fence f) s)) ∧
      (f.sc ≠ 0 → x.pend ≠ [] → exec (.fence f) s = .next s) ∧
      ∀ a, f.sc = 0 → s.acc? k a.id = some a → x.pend = [a.id] → a.kind = .st → a.through = false → (∀ p ∈ a.parts, stands p) →
        GoesOn k c s (exec (.fence f) s)) ∧
    (Ready k c (.phase f) f s → ∀ a ∈ (s.core k).accs, a.ctx = c → a.kind.isAtomic = true ∨ (∃ sz r, a.kind = .ld sz r) →
      exec (.phase f) s = .next s)

/-- R193, R246, R251, R252: on a core at rest `phase` at a scope below the pod goes on, and `fset` and `fclr` set and clear the fill bits
of their lines; a misaligned line traps with 0x05 and a range beyond local memory with 0x08. -/
def Clause.Fills : Prop :=
  ∀ (k : CoreId) (c : Fin 8) (f : Fields) (s : State), Quiet k c s →
    let x := s.ctx k c
    let ea := x.hart.opd f.b + f.imm24
    let o := ea.toNat
    let n := (x.hart.opd f.c).toNat
    let fills := fun (i : Instr) (b : Bool) => Ready k c i f s →
      (o % 128 = 0 → o + 128 * n ≤ 0x20000 → ∃ t, exec i s = .next t ∧ t.issued = true ∧
        (t.ctx k c).arch = x.advance.arch ∧
        (∀ l < 1024, (t.core k).fillBit l = if o / 128 ≤ l ∧ l < o / 128 + n then b else (s.core k).fillBit l) ∧
        (t.core k).apart = { (s.core k).apart with fill := (t.core k).fill } ∧ t.around = s.around ∧
        (∀ d, d ≠ c → t.ctx k d = s.ctx k d) ∧ ∀ j, j ≠ k → t.core j = s.core j) ∧
      (o % 128 ≠ 0 → s.faultsOnce k c → Traps k c 0x05 x.hart.pc ea s (exec i s)) ∧
      (o % 128 = 0 → 0x20000 < o + 128 * n → s.faultsOnce k c → Traps k c 0x08 x.hart.pc ea s (exec i s))
    (Ready k c (.phase f) f s → f.sc ≠ 4 → GoesOn k c s (exec (.phase f) s)) ∧
    fills (.fset f) true ∧ fills (.fclr f) false

/-- R193, R210, R246, R251, R252: fences, phases and fill bits. -/
def Obligations.FencesAndFills : Prop := Clause.FenceWaits ∧ Clause.Fills

/-- R318, R392: `ld` and `st` of a handler read and write its transfer buffers, its scratch memory and, with AF, physical memory, a
CXL-homed address in its port's pool; a misaligned address kills the handler, one of INIT too, with 0x05 and one outside them with
0x08. -/
def Obligations.FarrierMemory : Prop :=
  ∀ (fr : FarId) (t : Fin 16) (f : Fields) (s : State), s.lag = [] →
    let x := s.thread fr t
    let n := szBytes f.sz
    let o := (x.hart.ea f).toNat
    let inc := fun (x : Thread) => { x with hart := x.hart.postInc f }
    let bs := leBytes n (x.hart.opd f.a).toNat
    let loads := fun (bytes : List Byte) => FarReady fr t (.ld f) f s → WellFormed (.ld f) → o % n = 0 →
      FarGoesOn fr t f (s.modThread fr t fun x =>
        { x with hart := (x.hart.postInc f).dest f.a (extLoad f.sz bytes) }) (exec (.ld f) s)
    let stores := fun (s' : State) => FarReady fr t (.st f) f s → WellFormed (.st f) → o % n = 0 →
      FarGoesOn fr t f (s'.modThread fr t inc) (exec (.st f) s)
    (f.af1 = false → o < 0x100 → loads (((bytesB (x.bufData (o / 64)).data).drop (o % 64)).take n)) ∧
    (f.af1 = false → 0x1000 ≤ o → o < 0x5000 → loads (memRead (s.far fr).scratch (o - 0x1000) n)) ∧
    (f.af1 = true → o < 2 ^ 58 → loads (memRead s.mem (s.memAt o) n)) ∧
    (f.af1 = false → 0x1000 ≤ o → o < 0x5000 →
      stores (s.modFar fr fun q => { q with scratch := memWrite q.scratch (o - 0x1000) (giveBytes bs) })) ∧
    (f.af1 = true → o < 2 ^ 58 → stores (s.homeWrite (o / 64) (byteMask o (giveBytes bs)) (byteData o (giveBytes bs)) none)) ∧
    (f.af1 = false → o < 0x100 → ∃ b : Buf, b.desc = (x.bufData (o / 64)).desc ∧
      (∀ j < 64, b.data.extractLsb' (8 * j) 8 = (if o % 64 ≤ j then bs[j - o % 64]? else none).getD
        ((x.bufData (o / 64)).data.extractLsb' (8 * j) 8)) ∧
      stores (s.modThread fr t fun x => x.setBuf (o / 64) b)) ∧
    ∀ i ∈ [Instr.ld f, .st f], FarReady fr t i f s → (o % n ≠ 0 → Kills fr t 0x05 s (exec i s)) ∧
      (o % n = 0 → (f.af1 = true ∧ 2 ^ 58 ≤ o) ∨ (f.af1 = false ∧ ((0x100 ≤ o ∧ o < 0x1000) ∨ 0x5000 ≤ o)) →
        Kills fr t 0x08 s (exec i s))

/-! ### Dray group -/

/-- R212, R272-R276: a dray command whose checks pass enters the dray's queue with its operands as they stand and the releases it
waits for, and the context goes on; a copy of no bytes does nothing. -/
def Clause.DrayCommands : Prop :=
  ∀ (k : CoreId) (c : Fin 8) (f : Fields) (s : State), s.lag.headD 0 ≠ 0 → (s.core k).dray.length < 2 →
    (∀ a ∈ (s.core k).accs, a.ctx = c → a.acq = none) →
    let x := s.ctx k c
    let enters := fun (i : Instr) (op : DrayOp) => Ready k c i f s → WellFormed i → ∃ t, exec i s = .next t ∧ t.issued = true ∧
      (t.core k).dray = (s.core k).dray ++ [{
        id := s.ids + 1, ctx := c, user := !x.sup, op := op, rels := (s.core k).rels.map (·.id),
        early := s.inBundle k x.sup x.hart.pc }] ∧
      (t.ctx k c).arch = x.advance.arch ∧ (t.core k).apart = { (s.core k).apart with dray := (t.core k).dray } ∧
      (∀ d, d ≠ c → t.ctx k d = s.ctx k d) ∧ (∀ j, j ≠ k → t.core j = s.core j) ∧ t.around = s.around
    let reach := fun (af : Bool) (ea : W64) (n : Nat) => ∃ tgt, s.place k (!x.sup) af ea n = .ok tgt
    let room := fun (h : W64) (n : Nat) =>
      ∃ j b r, s.slotHandle k h = .ok (j, b) ∧ (s.core k).prodRec j b = some r ∧ n ≤ r.size
    let A := x.hart.opd f.a
    let B := x.hart.opd f.b
    let n := (x.hart.opd f.c).toNat
    let row := f.bits 18 6 + 1
    let pool := f.bits 24 5
    let stride := if f.c.isNone then 64 * row else n
    let iw := if f.bit 29 then 8 else 4
    let list := fun (w : W64) => (w.extractLsb' 0 17).toNat
    let cnt := fun (w : W64) => (w.extractLsb' 32 16).toNat
    let indices := fun (w : W64) => list w % iw = 0 ∧ reach false (BitVec.ofNat 64 (list w)) (cnt w * iw)
    let base := fun (o : Opd) => (x.hart.opd (nextG o 1)).toNat % 64 = 0 ∧ reach true (x.hart.opd (nextG o 1)) 1
    (n % 64 = 0 → n ≤ 0x100000 → B.toNat % 64 = 0 → reach (f.bit 18) B n →
      (if f.bit 30 then room A n else A.toNat % 64 = 0 ∧ reach (f.bit 17) A n) →
      (n = 0 → Ready k c (.dcopy f) f s → GoesOn k c s (exec (.dcopy f) s)) ∧
      (n ≠ 0 → enters (.dcopy f) (.dcopy A B n f.fw (f.bit 17) (f.bit 18) (f.bit 19) (f.bit 30)))) ∧
    (cnt B ≠ 0 → cnt B % pool = 0 → indices B → base f.b → stride % 64 = 0 →
      (if f.bit 30 then room A 0 else A.toNat % 64 = 0 ∧ reach (f.bit 17) A (cnt B / pool * row * 64)) →
      enters (.dgath f) (.dgath A (list B) (cnt B) (x.hart.opd (nextG f.b 1)) stride f.ty row pool f.fw (f.bit 17) (f.bit 30)
        (f.bit 29))) ∧
    (indices A → base f.a → stride % 64 = 0 → B.toNat % 64 = 0 → reach false B (cnt A * row * 64) →
      enters (.dscad f) (.dscad (list A) (cnt A) (x.hart.opd (nextG f.a 1)) B.toNat stride f.ty row f.fw (f.bit 29)))

/-- R272, R274: on a core at rest a prompt copy between ranges of the core's own local memory that do not meet copies every byte and,
without NODESC, every block's description, and nothing else. -/
def Clause.OwnCopy : Prop :=
  ∀ (k : CoreId) (c : Fin 8) (f : Fields) (s : State), Quiet k c s → Ready k c (.dcopy f) f s → WellFormed (.dcopy f) →
    let x := s.ctx k c
    let dst := (x.hart.opd f.a).toNat
    let src := (x.hart.opd f.b).toNat
    let n := (x.hart.opd f.c).toNat
    f.bit 17 = false → f.bit 18 = false → f.bit 30 = false → f.fw = false → n % 64 = 0 → n ≤ 0x100000 → dst % 64 = 0 →
    src % 64 = 0 → dst + n ≤ 0x20000 → src + n ≤ 0x20000 → (dst + n ≤ src ∨ src + n ≤ dst) →
    ∃ t, exec (.dcopy f) s = .next t ∧ t.issued = true ∧ (t.ctx k c).arch = x.advance.arch ∧ (t.core k).dray = [] ∧
      (t.core k).drayRun = none ∧
      (∀ p, memGet (t.core k).loc p = memGet (s.core k).loc (if dst ≤ p ∧ p < dst + n then src + (p - dst) else p)) ∧
      (∀ j, (t.core k).locDesc (64 * j) = if f.bit 19 = false ∧ dst / 64 ≤ j ∧ j < dst / 64 + n / 64
        then (s.core k).locDesc (64 * (src / 64 + (j - dst / 64))) else (s.core k).locDesc (64 * j)) ∧
      (∀ d, d ≠ c → t.ctx k d = s.ctx k d) ∧ (∀ j, j ≠ k → t.core j = s.core j) ∧ t.around = s.around

/-- R272, R275: on a core at rest a prompt `dgath` from table rows that lie in the core's own local memory (its data addresses) leaves at
its destination, element by element, the pooled sum of each output's rows in the order of the list: FP32 sums rounded at each step, or
saturated INT32 sums; each output block is described by TY. Everything outside the destination is as before. -/
def Clause.OwnGather : Prop :=
  ∀ (k : CoreId) (c : Fin 8) (f : Fields) (s : State), Quiet k c s → Ready k c (.dgath f) f s → WellFormed (.dgath f) →
    let x := s.ctx k c
    let loc := (s.core k).loc
    let dst := (x.hart.opd f.a).toNat
    let list := (x.hart.opd f.b).toNat % 2 ^ 17
    let cnt := (x.hart.opd f.b).toNat / 2 ^ 32 % 2 ^ 16
    let base := x.hart.opd (nextG f.b 1)
    let row := f.bits 18 6 + 1
    let pool := f.bits 24 5
    let iw := if f.bit 29 then 8 else 4
    let w := tyWidth f.ty
    let stride := if f.c.isNone then 64 * row else (x.hart.opd f.c).toNat
    let ix := fun i => signExt (8 * iw) (leNat (memRead loc (list + iw * i) iw))
    let blkAt := fun i b : Nat => base + BitVec.ofInt 64 (ix i * stride) + BitVec.ofNat 64 (64 * b)
    let off := fun i b : Nat => (blkAt i b).toNat % 2 ^ 17
    let size := cnt / pool * row * 64
    let apart := fun (a n : Nat) => a + n ≤ dst ∨ dst + size ≤ a
    f.bit 17 = false → f.bit 30 = false → f.fw = false → cnt ≠ 0 → cnt % pool = 0 → dst % 64 = 0 → dst + size ≤ 0x20000 →
    list % iw = 0 → list + cnt * iw ≤ 0x20000 → apart list (cnt * iw) → base.toNat % 64 = 0 → stride % 64 = 0 →
    (∃ tgt, s.place k (!x.sup) true base 1 = .ok tgt) →
    (∀ i < cnt, ∀ b < row, (blkAt i b).getLsbD 63 = true ∧ s.windowCore k (blkAt i b) = some k ∧ apart (off i b) 64 ∧
      (((s.core k).locDesc (off i b)).fmt = 0 ∨ ((s.core k).locDesc (off i b)).fmt = f.ty.setWidth 8)) →
    -- element e of row i, as a code and as a value
    let code := fun i e : Nat => leNat (memRead loc (off i (e * w / 512) + e * w % 512 / 8) (w / 8))
    let desc := fun i e : Nat => (s.core k).locDesc (off i (e * w / 512))
    let val := fun i e : Nat => elemValue (f.ty == 0xA) f.ty.toNat (code i e) (if (desc i e).fmt = 0 then 0x7F else (desc i e).scale.toNat)
    let sumF := fun o e : Nat => (List.range (pool - 1)).foldl (fun (acc : FV) j =>
      (decodeFloat fFP32 (toFP32 (fvAdd false acc (val (o * pool + j + 1) e))).1, 0)) (val (o * pool) e)
    let sumI := fun o e : Nat => (List.range (pool - 1)).foldl (fun (acc : Int) j =>
      (satInt 0xA (acc + signExt 32 (code (o * pool + j + 1) e))).1) (signExt 32 (code (o * pool) e))
    ∃ t, exec (.dgath f) s = .next t ∧ t.issued = true ∧ (t.ctx k c).arch = ({ x with fflags := (t.ctx k c).fflags }).advance.arch ∧
      (t.core k).dray = [] ∧ (t.core k).drayRun = none ∧
      (∀ o < cnt / pool, ∀ e < row * (512 / w), leNat (memRead (t.core k).loc (dst + o * row * 64 + e * (w / 8)) (w / 8)) =
        if f.ty = 0xA then wrap 32 (sumI o e) else (roundTo (if f.ty = 7 then fBF16 else fFP32) 0 0 (sumF o e).1).1) ∧
      (∀ p, ¬(dst ≤ p ∧ p < dst + size) → memGet (t.core k).loc p = memGet loc p) ∧
      (∀ j, (t.core k).locDesc (64 * j) = if dst / 64 ≤ j ∧ j < dst / 64 + size / 64 then ⟨f.ty.setWidth 8, 0x7F⟩
        else (s.core k).locDesc (64 * j)) ∧
      (∀ d, d ≠ c → t.ctx k d = s.ctx k d) ∧ (∀ j, j ≠ k → t.core j = s.core j) ∧ t.around = s.around

/-- R249, R272, R276: on a core at rest a prompt `dscad` into table rows that lie in the core's own local memory adds each source row to
the row its index names, index after index, so that duplicate indices add twice: INT32 wraps and FP32 rounds to nearest even. Every
block it adds to is described by TY with its scale kept; everything else is as before. -/
def Clause.OwnScatter : Prop :=
  ∀ (k : CoreId) (c : Fin 8) (f : Fields) (s : State), Quiet k c s → Ready k c (.dscad f) f s → WellFormed (.dscad f) →
    let x := s.ctx k c
    let loc := (s.core k).loc
    let list := (x.hart.opd f.a).toNat % 2 ^ 17
    let cnt := (x.hart.opd f.a).toNat / 2 ^ 32 % 2 ^ 16
    let base := x.hart.opd (nextG f.a 1)
    let src := (x.hart.opd f.b).toNat
    let row := f.bits 18 6 + 1
    let iw := if f.bit 29 then 8 else 4
    let stride := if f.c.isNone then 64 * row else (x.hart.opd f.c).toNat
    let ix := fun i => signExt (8 * iw) (leNat (memRead loc (list + iw * i) iw))
    -- block p of the source goes to this block of the table
    let aim := fun p : Nat => base + BitVec.ofInt 64 (ix (p / row) * stride) + BitVec.ofNat 64 (64 * (p % row))
    let off := fun p : Nat => (aim p).toNat % 2 ^ 17
    let apart := fun (a n b : Nat) => a + n ≤ b ∨ b + 64 ≤ a
    let ok := fun (o : Nat) => ((s.core k).locDesc o).fmt = 0 ∨ ((s.core k).locDesc o).fmt = f.ty.setWidth 8
    let word := fun (m : Memory) (a : Nat) => leNat (memRead m a 4)
    let add := fun (m n : Nat) => if f.ty = 9
      then (roundTo fFP32 0 0 (valAdd false (decodeFloat fFP32 m) (decodeFloat fFP32 n)).1).1 else (m + n) % 2 ^ 32
    f.fw = false → list % iw = 0 → list + cnt * iw ≤ 0x20000 → src % 64 = 0 → src + cnt * row * 64 ≤ 0x20000 →
    base.toNat % 64 = 0 → stride % 64 = 0 → (∃ tgt, s.place k (!x.sup) true base 1 = .ok tgt) →
    (∀ p < cnt * row, (aim p).getLsbD 63 = true ∧ s.windowCore k (aim p) = some k ∧ apart list (cnt * iw) (off p) ∧
      apart src (cnt * row * 64) (off p) ∧ ok (off p) ∧ ok (src + 64 * p)) →
    ∃ t, exec (.dscad f) s = .next t ∧ t.issued = true ∧ (t.ctx k c).arch = ({ x with fflags := (t.ctx k c).fflags }).advance.arch ∧
      (t.core k).dray = [] ∧ (t.core k).drayRun = none ∧
      (∀ b < 2048, ∀ e < 16, word (t.core k).loc (64 * b + 4 * e) =
        ((List.range (cnt * row)).filter fun p => off p == 64 * b).foldl (fun acc p => add acc (word loc (src + 64 * p + 4 * e)))
          (word loc (64 * b + 4 * e))) ∧
      (∀ a, 0x20000 ≤ a → memGet (t.core k).loc a = memGet loc a) ∧
      (∀ j, (t.core k).locDesc (64 * j) = if (List.range (cnt * row)).any fun p => off p == 64 * j
        then ⟨f.ty.setWidth 8, ((s.core k).locDesc (64 * j)).scale⟩ else (s.core k).locDesc (64 * j)) ∧
      (∀ d, d ≠ c → t.ctx k d = s.ctx k d) ∧ (∀ j, j ≠ k → t.core j = s.core j) ∧ t.around = s.around

/-- R212, R249, R272-R276: the dray commands, and a copy, a gather and a scatter performed. -/
def Obligations.DrayEntries : Prop := Clause.DrayCommands ∧ Clause.OwnCopy ∧ Clause.OwnGather ∧ Clause.OwnScatter

/-! ### Message group -/

/-- R10, R15, R268-R270: `send` and `sendr` put their message into a free slot of the retry buffer, counted in unack, and go on;
without a free slot they wait; a target that is no user core of the job, or a sender outside it, traps with 0x07. -/
def Clause.Sends : Prop :=
  ∀ (k : CoreId) (c : Fin 8) (f : Fields) (s : State), k < 2 ^ 22 → (s.core k).accs = [] → (s.ctx k c).fences = [] →
    (s.ctx k c).pend.length < 0xFFFF →
    let x := s.ctx k c
    let a := x.hart.opd f.a
    let ty : BitVec 12 := f.mi.extractLsb' 0 12
    let e := s.rankSeen (dieOf k) (a.toNat % 2 ^ 32)
    let posts := fun (i : Instr) (target : CoreId) =>
      (ty.toNat < 0xF00 → s.jobMate k target = true) → s.reaches (pkgOf k) (pkgOf target) = true → ∀ j, (s.core k).freeSlot = some j →
      ∃ t, exec i s = .next t ∧ t.issued = true ∧
        (t.ctx k c).arch = { x.advance.arch with pend := x.pend ++ [s.ids + 1] } ∧
        (∃ r, t.slot ⟨k, j⟩ = some r ∧ r.st = .sent ∧ r.delay = 256 ∧ r.msg = {
          uid := s.ids + 1, target := target, ty := ty, payload := (gRun f.b (f.bits 16 4)).map x.hart.opd, kind := 0, ctx := some c,
          addr := a, user := !x.sup, early := s.inBundle k x.sup x.hart.pc, rels := (s.core k).rels.map (·.id) }) ∧
        (∀ i, i ≠ j → t.slot ⟨k, i⟩ = s.slot ⟨k, i⟩) ∧ (t.core k).loc = (s.core k).loc ∧ t.mem = s.mem ∧
        (∀ d, d ≠ c → t.ctx k d = s.ctx k d) ∧ ∀ j, j ≠ k → t.core j = s.core j
    let refused := fun (i : Instr) (target : CoreId) => ty.toNat < 0xF00 → s.jobMate k target = false → (s.core k).freeSlot.isSome →
      x.undone = false → x.wait = .none → s.faultsOnce k c → Traps k c 0x07 x.hart.pc a s (exec i s)
    (Ready k c (.send f) f s → (s.core k).freeSlot = none → exec (.send f) s = .next s) ∧
    (Ready k c (.sendr f) f s → (s.core k).freeSlot = none → exec (.sendr f) s = .next s) ∧
    (∀ j, Ready k c (.send f) f s → a.getLsbD 63 = true → s.windowCore k a = some j → posts (.send f) j ∧ refused (.send f) j) ∧
    (Ready k c (.sendr f) f s → e.getLsbD 22 = true → e.getLsbD 23 = false →
      posts (.sendr f) (rankCore e) ∧ refused (.sendr f) (rankCore e)) ∧
    (Ready k c (.sendr f) f s → e.getLsbD 22 = true → e.getLsbD 23 = true → exec (.sendr f) s = .next s) ∧
    (Ready k c (.sendr f) f s → e.getLsbD 22 = false → (s.core k).freeSlot.isSome → x.undone = false → x.wait = .none →
      s.faultsOnce k c → Traps k c 0x07 x.hart.pc a s (exec (.sendr f) s))

/-- R23, R225, R271: a user context at rest that hops sends its scalar state, at the next instruction, to the core named, and waits
for its acceptance; its registers stay where they are. -/
def Clause.Hops : Prop :=
  ∀ (k : CoreId) (c : Fin 8) (f : Fields) (s : State), k < 2 ^ 22 → Quiet k c s → Ready k c (.hop f) f s → (s.ctx k c).sup = false →
    (s.ctx k c).fwd = none → f.bit 17 = false → ((s.ctx k c).hart.opd f.b).getLsbD 63 = true →
    ∀ j, s.windowCore k ((s.ctx k c).hart.opd f.b) = some j →
    s.jobMate k j = true → s.reaches (pkgOf k) (pkgOf j) = true → (scopeOf k j = 4 → (s.pkg (pkgOf k)).ivs = []) →
    let x := s.ctx k c
    ∃ t n, exec (.hop f) s = .next t ∧ t.issued = true ∧ (t.ctx k c).hart = x.hart ∧ (∃ rel, (t.ctx k c).wait = .hop rel j (some n)) ∧
      (∃ r, t.slot ⟨k, n⟩ = some r ∧ r.st = .sent ∧ r.msg.target = j ∧ r.msg.kind = 3 ∧ r.msg.ctx = some c ∧
        r.msg.hop = some {
          g := x.hart.g, c := x.hart.c, pc := x.hart.pc + 12, lc := x.lc, ls := x.ls, le := x.le, jord := x.jord,
          fround := x.fround, mmrev := x.mmrev, srctr := x.srctr, mask := 0 }) ∧
      (t.core k).loc = (s.core k).loc ∧ t.mem = s.mem ∧ (∀ d, d ≠ c → t.ctx k d = s.ctx k d) ∧ ∀ i, i ≠ k → t.core i = s.core i

/-- R10, R15, R23, R225, R268-R270, R271: sending messages and hopping. -/
def Obligations.MessagesSent : Prop := Clause.Sends ∧ Clause.Hops

/-- R277-R280, R359: `slinit` makes a slot buffer here and a producer's record there; `slacq.p` takes the next free slot and
`slacq.c` the oldest filled one, and both wait where there is none; `slrel` gives the oldest slot taken back to its producer. -/
def Obligations.SlotBuffers : Prop :=
  ∀ (k : CoreId) (c : Fin 8) (f : Fields) (s : State), Quiet k c s → s.recs = [] → s.rets = [] →
    let x := s.ctx k c
    let B := x.hart.opd f.b
    let n := B.toNat % 8
    let kept := fun (t : State) (y : Ctx) => t.issued = true ∧ (t.ctx k c).arch = y.arch ∧ (t.core k).loc = (s.core k).loc ∧
      t.mem = s.mem ∧ (∀ d, d ≠ c → t.ctx k d = s.ctx k d)
    (∀ j, Ready k c (.slinit f) f s → let cnt := (x.hart.opd f.c).toNat; let size := 128 * (f.bits 20 7 + 1)
      let b : Fin 8 := Fin.ofNat 8 (f.bits 17 3)
      1 ≤ cnt → cnt ≤ 64 → B.toNat % 128 = 0 → B.toNat + size * cnt ≤ 0x20000 → (x.hart.opd f.a).getLsbD 63 = true →
      s.windowCore k (x.hart.opd f.a) = some j → s.jobMate k j = true → pkgOf j = pkgOf k →
      (s.core j).pre.step < 2 → (∀ p ∈ (s.core j).prods, p.inc ≤ s.ids) →
      ∃ t, exec (.slinit f) s = .next t ∧ kept t x.advance ∧
        (t.core k).slots[b] = some {
          base := B.toNat, size := size, cnt := cnt, counts := List.replicate cnt 0,
          marks := List.replicate cnt false, prod := j, inc := s.ids + 1 } ∧
        (t.core j).prodRec k b =
          some { cons := k, buf := b, free := cnt, fill := 0, base := B.toNat, size := size, cnt := cnt, inc := s.ids + 1 }) ∧
    (Ready k c (.slacqP f) f s → WellFormed (.slacqP f) → ∀ j b r, s.slotHandle k B = .ok (j, b) → (s.core k).prodRec j b = some r →
      (r.free = 0 → exec (.slacqP f) s = .next s) ∧
      (r.free ≠ 0 → ∃ t, exec (.slacqP f) s = .next t ∧
        kept t (x.withHart (x.hart.dest f.a (absAddr r.cons (r.base + r.fill * r.size)))).advance ∧
        (t.core k).prodRec j b = some { r with free := r.free - 1, fill := (r.fill + 1) % r.cnt })) ∧
    (Ready k c (.slacqC f) f s → WellFormed (.slacqC f) → ∀ b, (s.core k).slots[n]?.getD none = some b →
      (b.filled = 0 → exec (.slacqC f) s = .next s) ∧
      (b.filled ≠ 0 → ∃ t, exec (.slacqC f) s = .next t ∧
        kept t (x.withHart (x.hart.dest f.a (BitVec.ofNat 64 (b.base + b.drain * b.size)))).advance ∧
        (t.core k).slots[n]?.getD none =
          some { b with filled := b.filled - 1, drain := (b.drain + 1) % b.cnt, out := b.out + 1 })) ∧
    (Ready k c (.slrel f) f s → ((s.core k).slots[n]?.getD none = none → GoesOn k c s (exec (.slrel f) s)) ∧
      ∀ b, (s.core k).slots[n]?.getD none = some b → (b.out = 0 → GoesOn k c s (exec (.slrel f) s)) ∧
        (b.out ≠ 0 → pkgOf b.prod = pkgOf k → (s.core b.prod).pre.step < 2 → let i := (b.drain + b.cnt - b.out % b.cnt) % b.cnt
          ∃ t, exec (.slrel f) s = .next t ∧ kept t x.advance ∧
            (t.core k).slots[n]?.getD none =
              some { b with out := b.out - 1, counts := b.counts.set i 0, marks := b.marks.set i false } ∧
            (t.core b.prod).prods = (s.core b.prod).prods.map fun p =>
              if p.cons == k && p.buf == Fin.ofNat 8 n && p.inc == b.inc then { p with free := p.free + 1 } else p))

/-- R258, R281, R282, R370: `tjoin` puts its elements into the inject queue after its release; `tread` takes the oldest result of
its context, waits while there is none, and traps with 0x0C on a mismatch and with 0x01 where nothing was joined. What a g destination
takes of a result without elements, 0, is the model's choice (log 107). -/
def Clause.Collectives : Prop :=
  ∀ (k : CoreId) (c : Fin 8) (f : Fields) (s : State), Quiet k c { s with lag := [] } →
    let x := s.ctx k c
    let same := fun (t : State) => (t.core k).loc = (s.core k).loc ∧ t.mem = s.mem ∧ (∀ d, d ≠ c → t.ctx k d = s.ctx k d) ∧
      ∀ j, j ≠ k → t.core j = s.core j
    (Ready k c (.tjoin f) f s → WellFormed (.tjoin f) → s.lag.headD 0 = 0 → s.lag.tail.headD 0 ≠ 0 → sigScope f.mi ≠ 4 →
      (s.core k).inject.length < 4 → ∃ t, exec (.tjoin f) s = .next t ∧ t.issued = true ∧ same t ∧
        (t.ctx k c).arch = { x.advance.arch with joined := x.joined + 1 } ∧
        (t.core k).inject = (s.core k).inject ++ [{
          core := k, ctx := c, sig := f.mi, rel := s.ids + 1, elems := match f.b with
          | .v r => (List.range (sigCount f.mi)).map fun e => BitVec.ofNat 32 (elemAt x.v[r] 32 e)
          | .none => []
          | o => [(x.hart.opd o).setWidth 32] }]) ∧
    (Ready k c (.tread f) f s → WellFormed (.tread f) →
      (x.joined = 0 → s.faultsOnce k c → Traps k c 0x01 x.hart.pc ((encode (.tread f)).extractLsb' 32 64) s (exec (.tread f) s)) ∧
      (x.joined ≠ 0 → (s.core k).extract.find? (fun r => r.ctx == c) = none → exec (.tread f) s = .next s) ∧
      ∀ r, x.joined ≠ 0 → (s.core k).extract.find? (fun r => r.ctx == c) = some r →
        (r.bad = true → s.faultsOnce k c → ∃ t, exec (.tread f) s = .next t ∧ t.issued = true ∧ same t ∧
          Entered x (s.core k).evec 0x0C x.hart.pc (r.sig.setWidth 64) (t.ctx k c) ∧
          (t.core k).extract = (s.core k).extract.erase r) ∧
        (r.bad = false → sigScope r.sig ≠ 4 → ∃ t, exec (.tread f) s = .next t ∧ t.issued = true ∧ same t ∧
          (t.core k).extract = (s.core k).extract.erase r ∧ ∃ y : Ctx,
            (t.ctx k c).arch = (y.raiseFlags (orFlags 0 r.flags)).advance.arch ∧
            y = { x with v := y.v, hart := y.hart, joined := x.joined - 1 } ∧
            (∀ g, f.a = .g g → y.hart = x.hart.setG g ((r.elems.headD 0).setWidth 64) ∧ y.v = x.v) ∧
            ∀ d, f.a = .v d → y.hart = x.hart ∧ (∀ q : Fin 32, q ≠ d → y.v[q] = x.v[q]) ∧
              ∀ e < 32, elemAt y.v[d] 32 e = (r.elems[e]?.map (·.toNat)).getD (elemAt x.v[d] 32 e)))

/-- R220, R283, R284: `bar` among one core's members goes on at once; where another member has not arrived it records its arrival,
waits, and goes on once its episode has completed; `qfence` places a fence point over what stands in the queues it names. -/
def Clause.BarriersAndFences : Prop :=
  ∀ (k : CoreId) (c : Fin 8) (f : Fields) (s : State),
    let x := s.ctx k c
    let sc := f.sc.toNat
    let arr := fun (t : State) (m : CoreId) => ((t.core m).barArr[sc]?).getD []
    (Quiet k c s → Ready k c (.bar f) f s → 1 ≤ sc → sc ≤ 3 → ((s.core k).barDone[sc]?).getD [] = [] → arr s k = [] →
      (s.members k sc = [k] → GoesOn k c s (exec (.bar f) s)) ∧
      (∀ m ∈ s.members k sc, m ≠ k → arr s m = [] → ∃ t, exec (.bar f) s = .next t ∧ t.issued = true ∧
        (t.ctx k c).hart = x.hart ∧ (t.ctx k c).wait = .bar (s.ids + 1) f.sc ∧ arr t k = [some c] ∧
        (t.core k).loc = (s.core k).loc ∧ t.mem = s.mem ∧ (∀ d, d ≠ c → t.ctx k d = s.ctx k d) ∧
        ∀ j, j ≠ k → t.core j = s.core j)) ∧
    (Eligible k c (.bar f) f s → 1 ≤ sc → sc ≤ 3 → (∃ rel, x.wait = .bar rel f.sc) → (s.core k).l1 = [] → (s.core k).fused = false →
      let done := ((s.core k).barDone[sc]?).getD []
      (c ∉ done → some c ∈ arr s k → exec (.bar f) s = .next s) ∧
      (c ∈ done → Resumes k c { x with wait := .none }.advance
        (s.modCore k fun co => { co with barDone := co.barDone.setIfInBounds sc (done.erase c) }) (exec (.bar f) s))) ∧
    (Ready k c (.qfence f) f s → ∃ p : FencePt,
      RunsTo k c { x with fences := x.fences.filter ((s.core k).fenceOpen x) ++ [p] }.advance s (exec (.qfence f) s) ∧
      p.anvil = f.bit 17 ∧ p.dray = f.bit 18 ∧ p.st = f.bit 19 ∧ ∀ id, id ∈ p.before ↔
        (f.bit 17 = true ∧ ((∃ e ∈ (s.core k).anvil, e.ctx = c ∧ e.id = id) ∨
          ∃ e b, (s.core k).anvRun = some (e, b) ∧ e.ctx = c ∧ e.id = id)) ∨
        (f.bit 18 = true ∧ ((∃ e ∈ (s.core k).dray, e.ctx = c ∧ e.id = id) ∨
          ∃ e, (s.core k).drayRun = some e ∧ e.ctx = c ∧ e.id = id)) ∨
        (f.bit 19 = true ∧ id ∈ x.pend))

/-- R220, R258, R281, R282, R283, R284, R370: the collectives, barriers and cluster fences. -/
def Obligations.GroupOperations : Prop := Clause.Collectives ∧ Clause.BarriersAndFences

/-! ### Counter group -/

/-- R353, R354, R357, R364-R366: on a core at rest `carm` arms a free counter, of the core for a local window and of the window's home slice
for a global one, which its page contains and no other window meets, and gives the counter's handle, or all
ones; that it takes the lowest of the free ones is the model's choice (log 30). `cdis` gives COUNT and disarms; `cadd` adds, and the counter fires where that takes it to its total; `crd` reads COUNT, status and TOTAL, and `.stat.w` waits for a firing. -/
def Clause.Counters : Prop :=
  ∀ (k : CoreId) (c : Fin 8) (f : Fields) (s : State), Quiet k c s →
    let x := s.ctx k c
    let a := carmArgs f x.hart
    let w := x.hart.opd f.b
    let gives := fun (v : W64) (s : State) (i : Instr) => RunsTo k c (x.withHart (x.hart.dest f.a v)).advance s (exec i s)
    let givesIn := fun (v : W64) (s' : State) (i : Instr) => RunsTo k c (x.withHart (x.hart.dest f.a v)).advance s' (exec i s)
    (Ready k c (.carm f) f s → WellFormed (.carm f) → a.glob = false → ∀ tgt, carmCheck (.carm f) a s = .ok tgt →
      ((∀ n : Fin 16, (s.core k).ctrs[n].alloc = true) → gives (BitVec.allOnes 64) s (.carm f)) ∧
      ∀ n : Fin 16, (s.core k).ctrs[n].alloc = false → (∀ m : Fin 16, m < n → (s.core k).ctrs[m].alloc = true) →
        givesIn (absAddr k n.val) (s.modCtr (.loc k n) fun _ => {
          armed := true, rearm := f.bit 19, act := BitVec.ofNat 2 (f.bits 17 2), alloc := true, owner := .core k,
          nlm1 := (x.hart.opd (nextG f.b 1)).extractLsb' 40 24, base := w.toNat,
          total := ((x.hart.opd (nextG f.b 1)).extractLsb' 0 40).toNat, tgt := tgt, rank := (x.hart.opd (nextG f.b 2)).setWidth 32,
          ty := (x.hart.opd (nextG f.b 3)).setWidth 12, arg0 := x.hart.opd f.c, arg1 := x.hart.opd (nextG f.c 1) }) (.carm f)) ∧
    (Ready k c (.carm f) f s → WellFormed (.carm f) → a.glob = true → ∀ tgt e, carmCheck (.carm f) a s = .ok tgt →
      (s.core k).tlb.find? (fun e => e.has w.toNat) = some e → (x.sup = false → e.u = true) → isHbm (e.pa w.toNat) = true →
      homePkg (e.pa w.toNat) = pkgOf k →
      let pa := e.pa w.toNat
      let page := if e.big then 2 ^ 26 else 2 ^ 16
      let d := homeDie pa
      ∀ sl : Fin 80, sl.val = homeSlice pa →
      let meets := s.dies.any fun e => e.1 / 8 == homePkg pa && e.2.gctrs.any fun g => g.2.meets pa a.size
      let filled := { (s.core k) with tlb := (e :: (s.core k).tlb.erase e).take 32 }
      (page < w.toNat % page + a.size ∨ meets = true → s.faultsOnce k c → Traps k c 0x07 x.hart.pc w s (exec (.carm f) s)) ∧
      (w.toNat % page + a.size ≤ page → meets = false →
        ((∀ n : Fin 64, (s.ctr (.glob d sl n)).alloc = true) → givesIn (BitVec.allOnes 64) (s.setCore k filled) (.carm f)) ∧
        ∀ n : Fin 64, (s.ctr (.glob d sl n)).alloc = false → (∀ m : Fin 64, m < n → (s.ctr (.glob d sl m)).alloc = true) →
          givesIn (BitVec.ofNat 64 (n.val + sl.val * 2 ^ 6 + d % 8 * 2 ^ 13 + d / 8 * 2 ^ 16))
            (((s.setCore k filled).modPkg (d / 8) fun p => { p with counts := p.counts.filter fun c => c.2.1 != .glob d sl n }).modCtr
              (.glob d sl n) fun _ => {
                armed := true, rearm := f.bit 19, act := BitVec.ofNat 2 (f.bits 17 2), alloc := true, owner := .core k,
                nlm1 := (x.hart.opd (nextG f.b 1)).extractLsb' 40 24, base := pa,
                total := ((x.hart.opd (nextG f.b 1)).extractLsb' 0 40).toNat, tgt := tgt,
                rank := (x.hart.opd (nextG f.b 2)).setWidth 32, ty := (x.hart.opd (nextG f.b 3)).setWidth 12,
                arg0 := x.hart.opd f.c, arg1 := x.hart.opd (nextG f.c 1) }) (.carm f))) ∧
    (Ready k c (.carm f) f s → a.total = 0 → s.faultsOnce k c →
      Traps k c 0x01 x.hart.pc ((encode (.carm f)).extractLsb' 32 64) s (exec (.carm f) s)) ∧
    (∀ h, s.ctrCheck k w = some h → (∀ j n, h = .loc j n → j = k) → (s.ctr h).canFire = false →
      (Ready k c (.cdis f) f s → givesIn (BitVec.ofNat 64 (s.ctr h).count)
        (s.modCtr h fun a => if a.pendn = 0 then {} else { a with armed := false, dis := true }) (.cdis f)) ∧
      (Ready k c (.cadd f) f s →
        RunsTo k c x.advance ((s.modCtr h fun a => a.addCount (x.hart.opd f.c)).fire h) (exec (.cadd f) s))) ∧
    ∀ h, ctrOf w = some h → ctrPkg h = pkgOf k → (∀ j n, h = .loc j n → j = k) → (s.ctr h).canFire = false →
      (Ready k c (.crdCnt f) f s → WellFormed (.crdCnt f) → gives (BitVec.ofNat 64 (s.ctr h).count) s (.crdCnt f)) ∧
      (Ready k c (.crdStat f) f s → WellFormed (.crdStat f) → gives (s.ctr h).status s (.crdStat f)) ∧
      (Ready k c (.crdTot f) f s → WellFormed (.crdTot f) → gives (BitVec.ofNat 64 (s.ctr h).total) s (.crdTot f)) ∧
      (Ready k c (.crdStatW f) f s → WellFormed (.crdStatW f) → f.sc ≠ 4 →
        (if (s.ctr h).fires = (x.hart.opd f.c).setWidth 16 then exec (.crdStatW f) s = .next s
         else gives (s.ctr h).status s (.crdStatW f)))

/-- R361, R366, R367: the other reads of the counter group, and the performance counters: `pcrd` gives a count with its overflow bit,
`pccfg` writes a configuration and gives the old one, and with CLR clears the count and its overflow bit. -/
def Clause.CounterReads : Prop :=
  ∀ (k : CoreId) (c : Fin 8) (f : Fields) (s : State), s.prompt →
    let x := s.ctx k c
    let w := x.hart.opd f.b
    let gives := fun (i : Instr) (v : W64) => RunsTo k c (x.withHart (x.hart.dest f.a v)).advance s (exec i s)
    (∀ b, Ready k c (.crdCons f) f s → WellFormed (.crdCons f) → (s.core k).slots[w.toNat % 8]?.getD none = some b →
      gives (.crdCons f) b.word) ∧
    (∀ j b r, Ready k c (.crdProd f) f s → WellFormed (.crdProd f) → s.slotHandle k w = .ok (j, b) →
      (s.core k).prodRec j b = some r → gives (.crdProd f) r.word) ∧
    (Ready k c (.crdFab f) f s → WellFormed (.crdFab f) →
      let e := fmGet {} (s.pkg (pkgOf k)).ivs (w.toNat % 64)
      gives (.crdFab f) (e.sent ++ e.intv)) ∧
    (Ready k c (.crdMon f) f s → WellFormed (.crdMon f) → ∀ h : w.toNat < 10, gives (.crdMon f) ((s.die (dieOf k)).mon[w.toNat])) ∧
    (Ready k c (.pcrd f) f s → ∀ h : w.toNat < 8, gives (.pcrd f)
      (((s.core k).perf[w.toNat]).count.setWidth 64 ||| (if ((s.core k).perf[w.toNat]).ovf then 0x8000000000000000 else 0))) ∧
    (Ready k c (.pccfg f) f s → ∀ h : w.toNat < 8, let v := x.hart.opd f.c
      (v.extractLsb' 0 8).toNat ≤ 0x13 → v.extractLsb' 18 46 = 0 → gives (.pccfg f) ((s.core k).perf[w.toNat]).config ∧
      ∀ t, exec (.pccfg f) s = .next t → ((t.core k).perf[w.toNat]).event = v.extractLsb' 0 8 ∧
        ((t.core k).perf[w.toNat]).ctxs = v.extractLsb' 8 8 ∧ ((t.core k).perf[w.toNat]).en = v.getLsbD 16 ∧
        (v.getLsbD 17 = true → v.extractLsb' 0 8 ≠ 2 → ((t.core k).perf[w.toNat]).count = 0 ∧ ((t.core k).perf[w.toNat]).ovf = false) ∧
        (v.getLsbD 17 = false → v.extractLsb' 0 8 ≠ 2 → ((t.core k).perf[w.toNat]).count = ((s.core k).perf[w.toNat]).count))

/-- R353, R354, R357, R361, R364-R366, R366, R367: arming, disarming and reading counters. -/
def Obligations.CounterInstructions : Prop := Clause.Counters ∧ Clause.CounterReads

/-! ### Events of the cores -/

/-- R48, R121, R264, R375: a gap and an occupancy end at their last cycle; a waiting `wait.time` goes on at its deadline, where no
reply fault and no interrupt comes first; a result that was
still to come is written when its instruction completes. That the events of gaps and occupancies do nothing before the last cycle is the
model's choice (log 22). -/
def Clause.TimerEvents : Prop :=
  ∀ (k : CoreId) (c : Fin 8) (s : State),
    let x := s.ctx k c
    Quietly s (.gapCountExpiry k c) (fun t => (t.ctx k c).gap = if x.gap = 1 then 0 else x.gap) ∧
    Quietly s (.occupancyEnd k c) (fun t => (t.ctx k c).occ = (if x.occ = 1 then 0 else x.occ) ∧
      (x.occ = 1 → (t.ctx k c).unit = none ∧ (x.swEnd = true → (t.core k).order = (s.core k).order.erase c ++ [c]))) ∧
    (∀ f w, (s.core k).ready c = true → s.dueFirst k c = false → fetchWord (s.core k) (!x.sup) x.hart.pc = some w → decode w = some (.waitTime f) →
      ((s.core k).cyc.toNat < (x.hart.opd f.b).toNat → exec (.waitTimeDeadline k c) s = .next s) ∧
      ((x.hart.opd f.b).toNat ≤ (s.core k).cyc.toNat → Ready k c (.waitTime f) f { s with cur := .ctx k c } →
        GoesOn k c { s with cur := .ctx k c } (exec (.waitTimeDeadline k c) s))) ∧
    ∀ fl ∈ x.flight, (∀ g ∈ x.flight, g.id = fl.id → g = fl) → fl.done = false → fl.acc = none → fl.anv = none →
      ∃ t, exec (.instructionCompletion k c fl.id) s = .next t ∧
        (t.ctx k c).arch = ((applyWrites fl.writes x).raiseFlags fl.flags).arch ∧ (∀ d, d ≠ c → t.ctx k d = s.ctx k d) ∧
        (∀ j, j ≠ k → t.core j = s.core j) ∧ (t.core k).apart = (s.core k).apart ∧ t.around = s.around ∧
        ∀ g ∈ (t.ctx k c).flight, g.id = fl.id → g.done = true ∧ g.writes = []

/-- R194, R197, R207, R217, R218, R240: the events that bring an access on: a reply to a load writes its register, a store's
acknowledgement its bytes, an atomic and a counted store are performed at the home of their word, a load leaves for another core's
bank, a store in L1 whose tag forbids it is posted to the farrier. -/
def Obligations.AccessEvents : Prop :=
  ∀ (k : CoreId) (a : Access) (p : Part) (s : State), (s.core k).accs = [a] → a.parts = [p] → (s.core k).rels = [] →
    (s.core k).drains = [] → (s.core k).wbs = [] → (s.core k).retry = Vector.replicate 8 none → a.hopped = false → a.acq = none →
    a.far = none → s.fab = [] → s.lag = [] → memWf s.mem = true → memWf (s.core k).loc = true →
    let c := a.ctx
    let x := s.ctx k c
    let plain := fun (pa : Nat) => pa / 64 < ctlBlk (homeDie pa) ∨ ctlBlk (homeDie pa) + 64 ≤ pa / 64
    let others := fun (t : State) => (∀ d, d ≠ c → t.ctx k d = s.ctx k d) ∧ t.mem = s.mem
    (∀ sz r off, a.kind = .ld sz r → p.tgt = .bank k off → p.stage = .wait → ((s.core k).locDesc off).fmt ≠ 0xFF →
      ∃ t, exec (.accessReply k a.id) s = .next t ∧ (t.core k).accs = [] ∧ (t.core k).loc = (s.core k).loc ∧ others t ∧
        (t.ctx k c).hart = x.hart.setG r (extLoad sz (memRead (s.core k).loc off p.bytes.length))) ∧
    (∀ off, a.kind = .st → p.tgt = .bank k off → p.stage = .wait → ∃ t, exec (.storeAck k a.id) s = .next t ∧
      (t.core k).accs = [] ∧ (t.ctx k c).hart = x.hart ∧ (t.ctx k c).pend = x.pend.erase a.id ∧ others t ∧
      ∀ b, memGet (t.core k).loc b = match (if off ≤ b then p.bytes[b - off]? else none) with
        | some (some v) => v | _ => memGet (s.core k).loc b) ∧
    (∀ sz r j off, a.kind = .ld sz r → p.tgt = .bank j off → p.stage = .wait → j ≠ k → pkgOf j = pkgOf k →
      (s.core j).pre.step < 2 → ((s.core j).locDesc off).fmt ≠ 0xFF → Quietly s (.remoteLoadRequest k a.id 0) fun t =>
        t.stageOf k a.id 0 = some .served ∧ ((t.acc? k a.id).bind fun b => b.parts[0]?).map (·.got) =
          some (memRead (s.core j).loc off p.bytes.length)) ∧
    (∀ (op : AtOp) w d v cmp pa n r, a.kind = .atomic op w d v cmp → (∃ va, p.tgt = .glob va) → p.stage = .ready pa → w = 32 ∨ w = 64 →
      pa % (w / 8) = 0 → isHbm pa = true → homePkg pa = pkgOf k → (s.core (s.l1Core k (pa / 128))).l1 = [] →
      s.regionOf (homeDie pa / 8) pa = some (n, r) → r.hostOwned = false → s.rebinding (homeDie pa / 8) n = false →
      s.homeTag (pa / 64) = 2 → (s.homeDesc (pa / 64)).fmt ≠ 0xFF → plain pa →
      let old := leNat (memRead s.mem pa (w / 8))
      ∃ t, exec (.atomicAtHome k a.id) s = .next t ∧ t.stageOf k a.id 0 = some .served ∧
        (∀ j d, (t.ctx j d).hart = (s.ctx j d).hart) ∧
        ∀ b, memGet t.mem b = (match (atomNew op (op == AtOp.fadd) w old (v.toNat % 2 ^ w) (cmp.toNat % 2 ^ w)).1 with
          | some z => if pa ≤ b then (leBytes (w / 8) z)[b - pa]? else none
          | none => none).getD (memGet s.mem b)) ∧
    (∀ pa n r, a.kind = .st → (∃ va, p.tgt = .glob va) → p.stage = .sent pa → isHbm pa = true → s.armed pa = true →
      pa % 64 + p.bytes.length ≤ 64 → s.regionOf (homeDie pa / 8) pa = some (n, r) → r.hostOwned = false →
      s.rebinding (homeDie pa / 8) n = false → (s.core (s.l1Core k (pa / 128))).l1 = [] → s.homeTag (pa / 64) = 2 → plain pa →
      ∃ t, exec (.countedStore k a.id 0) s = .next t ∧ t.stageOf k a.id 0 = some .served ∧
        (∀ j d, (t.ctx j d).hart = (s.ctx j d).hart) ∧
        ∀ b, memGet t.mem b = match (if pa ≤ b then p.bytes[b - pa]? else none) with
          | some (some v) => v | _ => memGet s.mem b) ∧
    (∀ pa n r, a.kind = .st → (∃ va, p.tgt = .glob va) → p.stage = .tagReq pa → s.regionOf (dieOf k / 8) pa = some (n, r) →
      r.hostOwned = false → s.rebinding (dieOf k / 8) n = false → s.armed pa = false → s.dieTag (dieOf k) (pa / 64) ≠ 2 →
      ((s.core (s.l1Core k (pa / 128))).l1.any fun l => l.line == pa / 128) = true →
      Quietly s (.tagReply k a.id) fun t =>
        t.stageOf k a.id 0 = some (.susp pa) ∧ ∃ m ∈ (t.far (postFarrier (dieOf k / 8) (pa / 64 * 64))).reqs,
          m.ty = 0x01 ∧ m.blk = pa / 64 ∧ m.party = .acc k a.id 0)

/-- R261, R292, R293: a translation finds its page in the core's TLB; a missed access, still without a translation root, parks in its
die's pool, and its page is listed in the fault buffer. -/
def Clause.TranslationEvents : Prop :=
  ∀ (k : CoreId) (a : Access) (p : Part) (va : W64) (s : State), s.acc? k a.id = some a → a.parts[0]? = some p → p.tgt = .glob va →
    (∀ e, p.stage = .wait → a.kind = .xlate → (s.core k).tlb.find? (fun e => e.has va.toNat) = some e →
      (if a.user = true ∧ e.u = false then Quietly s (.translationWalk k a.id 0 false) fun t => t.stageOf k a.id 0 = some (.failed 0x06 p.ea)
        else isHbm (e.pa va.toNat) = true → s.reaches (pkgOf k) (homePkg (e.pa va.toNat)) = true → a.parts = [p] →
          (∀ q ∈ (s.core k).accs, q.id < a.id → q.ctx ≠ a.ctx) →
          Quietly s (.translationWalk k a.id 0 false) fun t => t.stageOf k a.id 0 = some .served ∧
            ((t.acc? k a.id).bind fun b => b.parts[0]?).map (·.got) = some (leBytes 8 (e.pa va.toNat)))) ∧
    (p.stage = .missed → (∃ sz r, a.kind = .ld sz r) → a.user = true → (s.core k).tlb = [] → (s.die (dieOf k)).tlb = [] →
      (s.die (dieOf k)).root.getLsbD 0 = false → (s.die (dieOf k)).parked.length < 4096 → (s.die (dieOf k)).fbuf = [] →
      Quietly s (.accessPark k a.id 0) fun t => t.stageOf k a.id 0 = some (.parked false) ∧
        (t.die (dieOf k)).parked = (s.die (dieOf k)).parked ++ [.acc k a.id 0] ∧
        (t.die (dieOf k)).fbuf = [⟨false, false, 1, va.extractLsb' 16 41⟩])

/-- R189, R290, R291: the walk of a page table whose blocks the walker may read, level by level from the die's translation root: a valid
leaf at level 2 gives a 64 MiB page and at level 3 a 64 KiB page; where the leaf allows the access the element has its physical address,
and the TLB has the leaf; where it does not, or a table entry is malformed, the access ends in 0x06; an entry with V = 0 is a miss, and
so is a root with V = 0; a table block whose tag forbids the read suspends the walk, with GETS to the block's farrier. -/
def Clause.Walks : Prop :=
  ∀ (k : CoreId) (a : Access) (p : Part) (w : W64) (wr ex : Bool) (s : State), s.acc? k a.id = some a → a.parts[0]? = some p →
    p.tgt = .glob w → p.stage = .walk [] → s.walkerFull (dieOf k) = false →
    ((∃ sz r, a.kind = .ld sz r) ∧ wr = false ∧ ex = false ∨ a.kind = .st ∧ wr = true ∧ ex = false ∨
      a.kind = .fetch ∧ wr = false ∧ ex = true) →
    let d := dieOf k
    let va := w.toNat
    let root := (s.die d).root.toNat
    -- an entry as the die's L2 holds it, and its fields
    let pte := fun (x : Nat) => leNat (((bytesB (s.dieBuf d (x / 64)).data).drop (x % 64)).take 8)
    let fld := fun (e lo n : Nat) => e / 2 ^ lo % 2 ^ n
    let ruled := fun (x : Nat) => ∃ n g, s.regionOf (d / 8) x = some (n, g) ∧ g.hostOwned = false ∧ s.rebinding (d / 8) n = false
    let legible := fun (x : Nat) => ruled x ∧ tagReads (s.dieTag d (x / 64)) = true
    let valid := fun (e : Nat) => fld e 0 1 = 1 ∧ fld e 5 7 = 0 ∧ fld e 58 6 = 0
    let table := fun (e : Nat) => valid e ∧ fld e 1 1 = 0 ∧ fld e 12 1 = 0
    let leaf := fun (e : Nat) => valid e ∧ fld e 1 1 = 1
    let allows := fun (e : Nat) => (wr = true → fld e 2 1 = 1) ∧ (ex = true → fld e 3 1 = 1) ∧ (a.user = true → fld e 4 1 = 1)
    let tlb := fun (e : Nat) (big : Bool) (vpn ppn : Nat) =>
      (⟨vpn, big, ppn, decide (fld e 2 1 = 1), decide (fld e 3 1 = 1), decide (fld e 4 1 = 1)⟩ : Tlb)
    let ends := fun (q : State → Prop) => Quietly s (.translationWalk k a.id 0 false) q
    let denied := ends fun t => t.stageOf k a.id 0 = some (.failed 0x06 p.ea)
    let missed := ends fun t => t.stageOf k a.id 0 = some (if a.user then .missed else .failed 0x06 p.ea)
    -- a leaf found at a page of size 2^sz
    let found := fun (e : Nat) (big : Bool) (sz ppn : Nat) =>
      (¬allows e → denied) ∧
      (allows e → isHbm (ppn * 2 ^ sz + va % 2 ^ sz) = true →
        s.reaches (pkgOf k) (homePkg (ppn * 2 ^ sz + va % 2 ^ sz)) = true → ends fun t =>
          t.stageOf k a.id 0 = some (.ready (ppn * 2 ^ sz + va % 2 ^ sz)) ∧
          (t.core k).tlb.head? = some (tlb e big (va / 2 ^ sz) ppn) ∧ (t.die d).tlb.head? = some (tlb e big (va / 2 ^ sz) ppn))
    -- what a level comes to besides: no entry, a malformed one, a table that may not be read
    let level := fun (x : Nat) (good : Nat → Prop) =>
      (legible x → fld (pte x) 0 1 = 0 → missed) ∧
      (legible x → fld (pte x) 0 1 = 1 → ¬good (pte x) → denied) ∧
      (ruled x → tagReads (s.dieTag d (x / 64)) = false → ends fun t => t.stageOf k a.id 0 = some (.walkSusp x []) ∧
        ∃ m ∈ (t.far (postFarrier (d / 8) (x / 64 * 64))).reqs, m.ty = 0x00 ∧ m.blk = x / 64 ∧ m.party = .walk k a.id 0)
    let x0 := root / 2 ^ 14 * 2 ^ 14 + va / 2 ^ 46 % 2 ^ 11 * 8
    let x1 := fld (pte x0) 12 46 * 4096 + va / 2 ^ 36 % 2 ^ 10 * 8
    let x2 := fld (pte x1) 12 46 * 4096 + va / 2 ^ 26 % 2 ^ 10 * 8
    let x3 := fld (pte x2) 12 46 * 4096 + va / 2 ^ 16 % 2 ^ 10 * 8
    (root % 2 = 0 → missed) ∧
    (root % 2 = 1 → level x0 table ∧ (legible x0 → table (pte x0) → level x1 table ∧ (legible x1 → table (pte x1) →
      level x2 (fun e => table e ∨ leaf e ∧ fld e 12 14 = 0) ∧
      (legible x2 → leaf (pte x2) → fld (pte x2) 12 14 = 0 → found (pte x2) true 26 (fld (pte x2) 26 32)) ∧
      (legible x2 → table (pte x2) → level x3 (fun e => leaf e ∧ fld e 12 4 = 0) ∧
        (legible x3 → leaf (pte x3) → fld (pte x3) 12 4 = 0 → found (pte x3) false 16 (fld (pte x3) 16 42))))))

/-- R209: the head of the release order leaves once nothing it captured is open. -/
def Clause.ReleaseEvents : Prop :=
  ∀ (k : CoreId) (r : Rel) (rs : List Rel) (s : State), (s.core k).rels = r :: rs → r.words = [] → r.descs = [] → r.posted = [] →
    (∀ id ∈ r.caps, s.capLive k id = false) → r.ivs = [] → r.failed = false → (s.core k).landing r = false →
    (r.scope ≠ 4 ∨ r.closed = true) → Quietly s (.releaseComplete k) fun t => (t.core k).rels = rs

/-- R189, R209, R261, R290, R291, R292, R293: the walk of the page tables, and the events of translation and of releases. -/
def Obligations.TranslationAndReleases : Prop := Clause.Walks ∧ Clause.TranslationEvents ∧ Clause.ReleaseEvents

/-- R370, R371, R372, R374, R375, R425: a context that may take a trap takes the oldest of its reply faults, with the fault's cause and address
and its own program counter, or the releasing instruction's (R227); one raised by a supervisor instruction of the entry bundles is a
double fault; where no reply fault comes first an interrupt of a server core
enters its lowest context with IEN set, with cause 0x18. -/
def Clause.EntryEvents : Prop :=
  ∀ (k : CoreId) (c : Fin 8) (s : State), (s.ctx k c).mayTrap = true → (∀ h b, (s.ctx k c).wait ≠ .carmReg h b) →
    let x := s.ctx k c
    (∀ r, (s.core k).pre.step = 0 → (s.core k).dueFault c = some r → r.fetch = false → r.early = false →
      ∃ t, exec (.replyFaultEntry k c) s = .next t ∧ Entered x (s.core k).evec r.cause (r.at'.getD x.hart.pc) r.eaddr (t.ctx k c) ∧
        (t.core k).rfaults = (s.core k).rfaults.erase r ∧ (t.core k).loc = (s.core k).loc ∧ t.mem = s.mem ∧
        (∀ d, d ≠ c → t.ctx k d = s.ctx k d) ∧ ∀ j, j ≠ k → t.core j = s.core j) ∧
    (∀ r, (s.core k).pre.step = 0 → (s.core k).dueFault c = some r → r.early = true →
      ∃ t, exec (.replyFaultEntry k c) s = .next t ∧ (t.ctx k c).wait = .finish 0 ∧ (t.ctx k c).hart = x.hart ∧ (t.core k).frozen = true ∧
        (t.core k).rfaults = (s.core k).rfaults.erase r ∧ (t.core k).loc = (s.core k).loc ∧ t.mem = s.mem ∧
        ∃ n : Nat, ∃ q : RSlot, (n, q) ∈ (t.pkg (pkgOf k)).notices ∧ q.msg.ty = 0xF12 ∧ q.msg.payload =
          [s.coord k, BitVec.ofNat 64 c.val, r.cause.setWidth 64, (r.at'.getD x.hart.pc).setWidth 64, r.eaddr]) ∧
    (∀ e, (s.core k).pre.step = 0 → (s.core k).boundaryFault c = none → s.irqOf k = some e → (s.core k).irqCtx = some c →
      ∃ t, exec (.interruptEntry k) s = .next t ∧ Entered x (s.core k).evec 0x18 x.hart.pc (e.2.setWidth 64) (t.ctx k c) ∧
        (t.pkg (pkgOf k)).irqs = (s.pkg (pkgOf k)).irqs.erase e ∧ (t.core k).loc = (s.core k).loc ∧ t.mem = s.mem ∧
        (∀ d, d ≠ c → t.ctx k d = s.ctx k d) ∧ ∀ j, j ≠ k → t.core j = s.core j)

/-- R72, R204, R205, R362, R387, R425: an uncorrectable error poisons its block, is counted and raises platform event 3; a corrected soft
error is counted; an update of dflags takes the OR of the die's sticky flags, in the bits that its operand names, the model's choice (log 39). -/
def Clause.ErrorEvents : Prop :=
  ∀ s : State,
    -- the vector has fired, or pends where it is masked
    let fired := fun (t : State) (p : PkgId) =>
      (if (s.pkg p).msixMask.getLsbD 3 then (t.pkg p).msixPend else (t.pkg p).msix).getLsbD 3 = true
    (∀ pa, s.lag.headD 0 = 0 → Quietly s (.uncorrectableError (.glob pa)) fun t =>
      (t.sideOf (pa / 64)).desc = { (s.sideOf (pa / 64)).desc with fmt := 0xFF } ∧
      (∀ b, b ≠ pa / 64 → t.sideOf b = s.sideOf b) ∧ (t.die (homeDie pa)).mon[6] = (s.die (homeDie pa)).mon[6] + 1 ∧
      fired t (homeDie pa / 8) ∧ (homeDie pa % 8, 3) ∈ (t.pkg (homeDie pa / 8)).irqs) ∧
    (∀ k (off : BitVec 17), Quietly s (.uncorrectableError (.loc k off)) fun t =>
      (t.core k).locDesc off.toNat = { (s.core k).locDesc off.toNat with fmt := 0xFF } ∧
      (t.die (dieOf k)).mon[6] = (s.die (dieOf k)).mon[6] + 1 ∧ fired t (pkgOf k)) ∧
    (∀ d, Quietly s (.correctedSoftError d .hbm) (fun t => (t.die d).mon[5] = (s.die d).mon[5] + 1) ∧
      Quietly s (.correctedSoftError d .loc) (fun t => (t.die d).mon[7] = (s.die d).mon[7] + 1) ∧
      Quietly s (.correctedSoftError d .l2) (fun t => (t.die d).mon[8] = (s.die d).mon[8] + 1)) ∧
    (∀ d bits, Quietly s (.dflagsUpdate d bits) fun t => ∀ n < 40, (t.die d).dflags.getLsbD n =
      if bits.getLsbD n then s.cores.any fun e => dieOf e.1 == d && e.2.ctxs.toList.any fun x => x.fflags.getLsbD n
      else (s.die d).dflags.getLsbD n)

/-- R48, R72, R121, R204, R205, R264, R362, R375, R387, R425: the events of clocks, windows and errors. -/
def Obligations.TimersAndErrors : Prop := Clause.TimerEvents ∧ Clause.ErrorEvents

/-- R171, R184, R254, R255, R273: the engines' events: the anvil takes the first entry of its queue and completes it; a drain whose
lines are written sends its wake-up; the dray takes its first command and reports a stopped one; a dray write comes to the banks of
another core. -/
def Clause.EngineEvents : Prop :=
  ∀ (k : CoreId) (s : State),
    (∀ e es, (s.core k).anvRun = none → (s.core k).anvil = e :: es → (s.ctx k e.ctx).fences = [] → (s.core k).accs = [] →
      (s.core k).rels = [] → Quietly s (.anvilEntryStart k) fun t =>
        (t.core k).anvil = es ∧ (t.core k).anvRun = some (e, e.op.reads.map (s.readRow k e.ctx))) ∧
    (∀ e, ∀ z : Fin 4, (s.core k).anvRun = some (e, []) → e.op = .azero z → Quietly s (.anvilEntryComplete k 0) fun t =>
      (t.core k).anvRun = none ∧ (t.ctx k e.ctx).z = (s.ctx k e.ctx).z.set z.val (Vector.replicate 256 0) ∧
      ∀ f ∈ (t.ctx k e.ctx).flight, f.anv = some e.id → f.done = true) ∧
    (∀ d ty j, k < 2 ^ 22 → (s.core k).drains = [d] → d.wake = some ty → d.performed = d.lines.length →
      s.inFab d.id = false → (s.core k).freeSlot = some j → Quietly s (.drainWakeup k d.id) fun t => (t.core k).drains = [] ∧
        ∃ r, t.slot ⟨k, j⟩ = some r ∧ r.st = .sent ∧ r.msg.target = d.dst ∧ r.msg.ty = ty ∧ r.msg.kind = 1 ∧
          r.msg.payload = [absAddr d.dst d.off, d.x]) ∧
    (∀ e es, s.lag.headD 0 = 1 → (s.core k).drayRun = none → (s.core k).dray = e :: es → (s.ctx k e.ctx).fences = [] →
      (s.core k).accs = [] → (s.core k).rels = [] → (s.core k).drayOut = [] → Quietly s (.drayEntryStart k) fun t => (t.core k).dray = es ∧ (t.core k).drayRun = some e) ∧
    (∀ b bs, (s.core k).drayBad = b :: bs → Quietly s (.drayFaultReport k) fun t => (t.core k).drayBad = bs ∧
      (t.core k).rfaults = (s.core k).rfaults ++ [⟨b.ctx, b.id, b.user, b.cause, b.ea, none, false, none, b.early⟩]) ∧
    ∀ j w, (s.core k).wiq = [] → (s.core k).pre.step = 0 → (s.core k).frozen = false → (s.core j).drayOut = [w] → w.dst = k → pkgOf j = pkgOf k → s.fab = [] →
      w.add = none → w.back = none →
      memWf (s.core k).loc = true → ∃ t, exec (.remoteWritePerformed k [.dray j w.n]) s = .next t ∧
        (t.core j).drayOut = [] ∧ (t.core k).wiq = [] ∧ t.mem = s.mem ∧ (∀ i d, (t.ctx i d).hart = (s.ctx i d).hart) ∧
        (∀ b, memGet (t.core k).loc b = if w.off ≤ b ∧ b < w.off + 64 then w.data.extractLsb' (8 * (b - w.off)) 8
          else memGet (s.core k).loc b) ∧ ∀ d, w.desc = some d → (t.core k).locDesc w.off = d

/-- R171, R184, R254, R255, R273, R370, R371, R372, R374, R425: entries into contexts and the events of the engines. -/
def Obligations.ContextEvents : Prop := Clause.EntryEvents ∧ Clause.EngineEvents

/-- R9, R11, R13, R15, R24: an accepted message starts its handler in a free context of its class: the entry of its type gives the
program counter and the order of stores, g0 to g13 the payload, and every other register of the list its start value; a hop message
resumes its activation. The sender's slot frees. -/
def Clause.MessageStarts : Prop :=
  ∀ (k : CoreId) (c : Fin 8) (ref : MRef) (r : RSlot) (s : State), s.lag = [] → (s.core k).ports = [] → (s.core k).wiq = [] →
    s.slot ref = some r → s.mayArrive k ref = true → (s.core k).frozen = false → (s.core k).halted = false →
    (s.pkg (pkgOf k)).bootst = 0 → refPkg ref = pkgOf k → (s.core k).pre.step = 0 → (s.core ref.src).accs = [] → (s.ctx k c).pool = .free →
    (ref.src = k → r.msg.ctx ≠ some c) → (∀ d, (s.ctx k d).pool = .reserved → (s.ctx k d).holdFor ≠ some ref) →
    let sup := decide (0xF00 ≤ r.msg.ty.toNat)
    let entry := s.handlerSeen k r.msg.ty
    let first := fun (b : Bool) => s.supClass k c = b ∧ ∀ d < c, ¬((s.ctx k d).pool = .free ∧ s.supClass k d = b)
    let starts := fun (i : Instr) (p : Ctx → Prop) => ∃ t, exec i s = .next t ∧ p (t.ctx k c) ∧ (t.ctx k c).pool = .busy ∧
      t.slot ref = none ∧ (t.core k).loc = (s.core k).loc ∧ t.mem = s.mem ∧ (t.core k).ports = []
    (r.msg.hop = none → entry.getLsbD 57 = true → first sup → starts (.messageArrival k [ref]) fun y =>
      y.hart.pc = entry.setWidth 57 ∧ (∀ n : Fin 16, n < 14 → y.hart.g[n] = r.msg.payload.getD n.val 0) ∧ y.hart.g[15] = 0 ∧
      y.hart.g[14].extractLsb' 0 12 = r.msg.ty ∧ y.hart.c = 1 ∧ y.mmrev = entry.extractLsb' 58 4 ∧ y.sup = sup ∧ y.jord = 0 ∧
      y.fround = 0 ∧ y.fflags = 0 ∧ y.srctr = 0 ∧ y.lc = Vector.replicate 2 0) ∧
    (∀ h, r.msg.hop = some h → h.mask = 0 → first false → starts (.hopMessageArrival k [ref]) fun y =>
      y.hart = { g := h.g, c := h.c, pc := h.pc } ∧ y.lc = h.lc ∧ y.ls = h.ls ∧ y.le = h.le ∧ y.jord = h.jord ∧
      y.fround = h.fround ∧ y.mmrev = h.mmrev ∧ y.srctr = h.srctr ∧ y.sup = false ∧ y.fflags = 0)

/-- R14-R18, R20, R25, R269: what returns to a sender: a refusal is listed or backs off, with twice the delay at the next; a frozen core's discard
is a reply fault 0x08; a back-off and a notice send again; an acceptance frees the slot and its place in unack; a lapsed reservation
and an ended activation free the context; a forwarded load's reply writes the resumed activation's register. -/
def Clause.MessageEvents : Prop :=
  ∀ (k : CoreId) (n : Nat) (c : Fin 8) (r : RSlot) (s : State), k < 2 ^ 22 →
    let slot := (⟨k, n⟩ : MRef)
    let becomes := fun (i : Instr) (q : RSlot) => Quietly s i fun t => t.slot slot = some q ∧ ∀ m, m ≠ n → t.slot ⟨k, m⟩ = s.slot ⟨k, m⟩
    (s.slot slot = some r → s.inFab r.msg.uid = false →
      (r.st = .refused true → becomes (.refusal k n) { r with st := .listed }) ∧
      (r.st = .refused false → becomes (.refusal k n) { r with st := .backoff }) ∧
      (r.st = .frozen → r.msg.ctx = some c → r.msg.hop = none → Quietly s (.refusal k n) fun t => t.slot slot = none ∧
        (t.core k).rfaults = (s.core k).rfaults ++ [⟨c, r.msg.uid, r.msg.user, 0x08, r.msg.addr, some r.msg.uid, false, none, r.msg.early⟩]) ∧
      (r.st = .backoff → becomes (.backoffRetry k n) { r with st := .sent, delay := min 16384 (2 * r.delay) }) ∧
      (r.st = .noticed → becomes (.contextFreeNotice k n) { r with st := .sent }) ∧
      (r.st = .accepted → r.msg.ctx = some c → r.msg.hop = none → Quietly s (.messageAcceptance k n) fun t =>
        t.slot slot = none ∧ (t.ctx k c).pend = (s.ctx k c).pend.erase r.msg.uid)) ∧
    ((s.core k).refused = [] →
      ((s.ctx k c).pool = .reserved → (s.core k).ports = [] → Quietly s (.reservationLapse k c) fun t =>
        (t.ctx k c).pool = .free ∧ (t.ctx k c).holdFor = none) ∧
      (∀ rel, (s.ctx k c).wait = .finish rel → rel ≠ 0 → s.quiet k c rel = true → Quietly s (.contextFree k c) fun t =>
        (t.ctx k c).pool = .free ∧ (t.ctx k c).wait = .none ∧ ∀ d, d ≠ c → (t.ctx k d).pool = (s.ctx k d).pool)) ∧
    ∀ a sz reg, ∀ j, ∀ d : Fin 8, s.acc? k a.id = some a → a.kind = .ld sz reg → a.hopped = true → a.far = none → pkgOf j = pkgOf k →
      (j, d) ≠ (k, a.ctx) →
      (∃ p, a.parts = [p] ∧ p.stage = .served) → (s.ctx k a.ctx).fwd = some ⟨j, some d, 1 <<< reg.val⟩ →
      ∃ t, exec (.forwardedLoadReply k a.id) s = .next t ∧ (t.ctx k a.ctx).fwd = none ∧
        (t.ctx j d).hart = (s.ctx j d).hart.setG reg (extLoad sz ((a.parts.map (·.got)).headD [])) ∧
        (t.ctx j d).fwdIn.getLsbD reg.val = false ∧ t.mem = s.mem

/-- R9, R11, R13, R14-R18, R15, R20, R24, R25, R269: a message arrives, starts its handler, is refused, or is sent again. -/
def Obligations.MessagesReceived : Prop := Clause.MessageStarts ∧ Clause.MessageEvents

/-- R355, R356, R364, R365: a count message adds its bytes to an armed counter, which fires at its total; a counter whose total is
reached fires; a formed
launch goes out with its arguments; a registered window lets its `carm` go on, armed unless `cdis` has freed the counter since. -/
def Clause.CounterEvents : Prop :=
  ∀ s : State,
    (∀ p n h m, ((s.pkg p).counts.find? fun e => e.1 == n) = some (n, h, m) → Quietly s (.countMessage p n) fun t =>
      t.ctr h = (if (s.ctr h).armed then ((s.ctr h).count' m).fireIf else s.ctr h) ∧
      (t.pkg p).counts = (s.pkg p).counts.filter fun e => e.1 != n) ∧
    (∀ h, (s.ctr h).canFire = false → (s.ctr h).pendn = 0 → exec (.counterFire h) s = .next s) ∧
    (∀ h, (s.ctr h).canFire = true → s.lag.headD 0 ≠ 0 → Quietly s (.counterFire h) fun t => t.ctr h = { s.ctr h with
      fires := (s.ctr h).fires + 1, armed := (s.ctr h).rearm,
      count := if (s.ctr h).rearm then (s.ctr h).count - (s.ctr h).total else (s.ctr h).count,
      pendn := if (s.ctr h).act.toNat ≤ 1 then (s.ctr h).pendn + 1 else (s.ctr h).pendn }) ∧
    (∀ k n j, k < 2 ^ 22 → let a := s.ctr (.loc k n)
      a.pendn ≠ 0 → a.act = 0 → a.dis = false → (s.core k).freeSlot = some j → Quietly s (.launchEnqueue (.loc k n)) fun t =>
        t.ctr (.loc k n) = { a with pendn := a.pendn - 1 } ∧ ∃ r, t.slot ⟨k, j⟩ = some r ∧ r.st = .sent ∧ r.msg.target = a.tgt ∧
          r.msg.ty = a.ty ∧ r.msg.payload = [a.arg0, a.arg1] ∧ r.msg.kind = 2 ∧ r.msg.glob = false ∧
          r.msg.sidx = BitVec.ofNat 16 n.val) ∧
    (∀ k c h, (s.ctx k c).wait = .carmReg h false → Quietly s (.windowRegistrationComplete k c) fun t =>
      (t.ctx k c).wait = .carmReg h true ∧ t.ctr h = if (s.ctr h).regBy k c then { s.ctr h with armed := true } else s.ctr h)

/-- R29, R30, R147, R258, R278, R280, R283, R359: what comes to a core's queues: filled and returned slots, records, contributions to
a collective and its result, a completed barrier episode, a contribution of `vqmax`. -/
def Clause.QueueEvents : Prop :=
  ∀ (k : CoreId) (s : State),
    (∀ (b : Fin 8) x, (s.core k).slots[b] = some x → x.counts.getD x.next 0 = x.size → x.marks.getD x.next true = false →
      let y := { x with marks := x.marks.set x.next true, filled := x.filled + 1, next := (x.next + 1) % x.cnt }
      (y.counts.getD y.next 0 ≠ y.size ∨ y.marks.getD y.next true = true) →
      Quietly s (.slotFilled k b) fun t => (t.core k).slots[b] = some y) ∧
    (∀ r, s.rets = [r] → r.dst = k → s.fab = [] → (s.core r.cons).accs = [] → (s.core k).pre.step < 2 → Quietly s (.slotReturn k r.n) fun t => t.rets = [] ∧
      (t.core k).prods = (s.core k).prods.map fun p =>
        if p.cons == r.cons && p.buf == r.buf && p.inc == r.inc then { p with free := p.free + 1 } else p) ∧
    (∀ r, s.recs = [r] → r.dst = k → s.fab = [] → (s.core k).pre.step < 2 → (∀ p ∈ (s.core k).prods, p.inc ≤ r.rec_.inc) →
      pkgOf r.src = pkgOf k → Quietly s (.slinitRecord k r.n) fun t => t.recs = [] ∧
      (t.core k).prodRec r.rec_.cons r.rec_.buf = some r.rec_ ∧ (t.ctx r.src r.ctx).pend = (s.ctx r.src r.ctx).pend.erase r.n) ∧
    (∀ e es, (s.core k).inject = e :: es → s.relOpen k e.rel = false → (s.pkg (pkgOf k)).tree = [] →
      Quietly s (.treeInject k) fun t => (t.core k).inject = es ∧ (t.pkg (pkgOf k)).tree = [e]) ∧
    (∀ (sc : BitVec 3) e d j, k ≠ j → (s.pkg (pkgOf k)).tree = [e, d] → e.core = k → d.core = j → sigScope e.sig = sc.toNat → d.sig = e.sig →
      e.res = none → d.res = none → s.members k sc.toNat = [k, j] → (s.core k).extract = [] → (s.core k).pre.step < 2 → sigOpn e.sig = 1 → sigTy e.sig ≠ 9 →
      e.elems.length = d.elems.length → Quietly s (.treeResult k sc) fun t => ∃ r, (t.core k).extract = [r] ∧ r.ctx = e.ctx ∧
        r.sig = e.sig ∧ r.bad = false ∧ r.elems = (e.elems.zip d.elems).map fun p =>
          BitVec.ofInt 32 (max (-(2 ^ 31)) (min (2 ^ 31 - 1) (p.1.toInt + p.2.toInt)))) ∧
    (∀ sc : BitVec 3, 1 ≤ sc.toNat → sc.toNat ≤ 3 → (s.members k sc.toNat).Nodup → k ∈ s.members k sc.toNat →
      (∀ m ∈ s.members k sc.toNat, ((s.core m).barArr[sc.toNat]?).getD [] ≠ []) → Quietly s (.barrierComplete k sc) fun t =>
        ∀ m ∈ s.members k sc.toNat,
          ((t.core m).barArr[sc.toNat]?).getD [] = (((s.core m).barArr[sc.toNat]?).getD []).tail ∧
          ((t.core m).barDone[sc.toNat]?).getD [] =
            ((s.core m).barDone[sc.toNat]?).getD [] ++ ((((s.core m).barArr[sc.toNat]?).getD []).headD none).toList) ∧
    ∀ m, s.vq = [m] → m.dst = k → (s.core k).pre.step < 2 →
      (((s.core k).exch.find? fun e => e.tag == m.tag) = none → (s.core k).exch.length < 8 → Quietly s (.vqmaxContribution k m.n) fun t =>
        t.vq = [] ∧ (t.core k).exch = (s.core k).exch ++ [⟨m.tag, some m.gs, none, 0, [(m.src, m.m)], false⟩]) ∧
      (∀ e, (s.core k).exch = [e] → e.tag = m.tag → e.got = [] → e.gs = some m.gs → Quietly s (.vqmaxContribution k m.n) fun t =>
        t.vq = [] ∧ (t.core k).exch = [{ e with got := [(m.src, m.m)] }]) ∧
      (((s.core k).exch.find? fun e => e.tag == m.tag) = none → (s.core k).exch.length = 8 → exec (.vqmaxContribution k m.n) s = .next s)

/-- R29, R30, R147, R258, R278, R280, R283, R355, R356, R359, R364, R365: the events of counters, collectives, barriers and slot buffers. -/
def Obligations.CounterAndQueueEvents : Prop := Clause.CounterEvents ∧ Clause.QueueEvents

/-! ### Table group (R286-R313) -/

/-- R288, R289, R304, R308: `rtset` writes an entry of the region table, its OWN bit as the entry had it, and with V = 0 clears only V;
`rtget` reads a word; `pgown` flips the owner of a host region, and to the host first gives up every copy. An index above 4095 traps.
No `rtset` that rebinds nothing changes the tag of a block that its old entry covers, nor any L2 line. -/
def Clause.RegionTable : Prop :=
  ∀ (k : CoreId) (c : Fin 8) (f : Fields) (s : State), s.prompt → (s.ctx k c).wait = .none →
    let x := s.ctx k c
    let p := pkgOf k
    let runs := fun (i : Instr) (v : W64) (s' : State) => RunsTo k c (x.withHart (x.hart.dest f.a v)).advance s' (exec i s)
    let n := (x.hart.src2 f).toNat
    let w : Region := ⟨x.hart.opd f.b, x.hart.opd (nextG f.b 1), x.hart.opd (nextG f.b 2)⟩
    let old := s.region p n
    let new : Region :=
      if w.w0.getLsbD 0 then { w with w1 := if old.v && old.w1.getLsbD 45 then w.w1 ||| (1#64 <<< 45) else w.w1 &&& ~~~(1#64 <<< 45) }
      else { old with w0 := old.w0 &&& ~~~1 }
    let m := (x.hart.opd f.b).toNat
    let r := s.region p m
    (Ready k c (.rtset f) f s → n ≤ 4095 → (w.v = true → w.illegal = false ∧ s.regionBad p n w = false) →
      (w.v = true → old.v = true → old.prot = w.prot ∧ old.hset = w.hset) →
      let u := ((s.keepTags p old).setRegion p n new).keepTags p new
      runs (.rtset f) 0 u ∧ (u.pkg p).regions = fmSet (s.pkg p).regions n new ∧ u.side = s.side ∧ u.dies = s.dies ∧
      u.mem = s.mem ∧ u.cores = s.cores ∧
      ∀ blk, isHbm (blk * 64) = true → homePkg (blk * 64) = p → homePkg old.base = p → old.prot.toNat ≤ 5 →
        s.regionOf p (blk * 64) = some (n, old) → u.homeTag blk = s.homeTag blk) ∧
    (∀ i ∈ [Instr.rtset f, .rtget f], Ready k c i f s → 4095 < n → x.undone = false → s.faultsOnce k c →
      Traps k c 0x01 x.hart.pc ((encode i).extractLsb' 32 64) s (exec i s)) ∧
    (Ready k c (.rtget f) f s → n ≤ 4095 →
      runs (.rtget f) (if f.bits 17 2 = 0 then old.w0 else if f.bits 17 2 = 1 then old.w1 else old.w2) s) ∧
    (m ≤ 4095 → r.v = true → r.home = 0xC →
      (Ready k c (.pgownHost f) f s → r.own = true → runs (.pgownHost f) 0 s) ∧
      (s.lag = [] → Ready k c (.pgownHost f) f s → r.own = false → (s.pkg p).rebind.contains m = false →
        (∀ e ∈ (s.pkg p).far, (s.far (p + 64 * e.1)).runs m = false) →
        let u := ((s.pkg p).far.map fun e => p + 64 * e.1).foldl (fun u q => u.emptyFar q r.has)
          (((s.surrender p r.has).setRegion p m { r with w1 := r.w1 ^^^ (1#64 <<< 45) }).modPkg p fun y =>
            { y with rebind := y.rebind.erase m })
        RunsTo k c (({ u.ctx k c with wait := .none }).withHart ((u.ctx k c).hart.dest f.a 0)).advance u (exec (.pgownHost f) s)) ∧
      (∀ (has : Nat → Bool) (blk d : Nat), d / 8 = p → has (blk * 64) = true →
        (s.surrender p has).l2 d blk = none ∧ ∀ j, pkgOf j = p → ∀ l ∈ ((s.surrender p has).core j).l1, has (l.line * 128) = false) ∧
      (Ready k c (.pgownDev f) f s → runs (.pgownDev f) 0 (if r.own
        then s.modPkg p fun y => { y with regions := fmSet y.regions m { r with w1 := r.w1 &&& ~~~(1#64 <<< 45) } } else s)))

/-- R297, R298, R305: `rkset` and `rkmov` write the rank's four bytes in the table; `.hold` marks the entry and `.rel` gives it a new
core; the rank register of a core that an entry names follows the entry last written, and no rank cache of the package holds an old one. -/
def Clause.RankTable : Prop :=
  (∀ (k : CoreId) (c : Fin 8) (f : Fields) (s : State), s.prompt → (s.ctx k c).wait = .none →
    let x := s.ctx k c
    let p := pkgOf k
    let n := (x.hart.opd f.b).toNat % 2 ^ 32
    let e : BitVec 32 := (x.hart.opd f.c).setWidth 32
    let aim : BitVec 32 := (e &&& 0x3FFFFF) ||| 0x400000
    let old := s.rankEntry p n
    let runs := fun (i : Instr) (e : BitVec 32) =>
      RunsTo k c (x.withHart (x.hart.dest f.a 0)).advance (s.setRank p n e) (exec i s)
    n < (s.pkg p).rankLen →
    (Ready k c (.rkset f) f s → e.extractLsb' 23 9 = 0 → (e.getLsbD 22 = true → s.userCore (rankCore e) = true) → runs (.rkset f) e) ∧
    (Ready k c (.rkmovHold f) f s → old.getLsbD 22 = true → runs (.rkmovHold f) (old ||| 0x800000)) ∧
    (Ready k c (.rkmovRel f) f s → e.extractLsb' 23 9 = 0 → s.userCore (rankCore aim) = true → runs (.rkmovRel f) aim)) ∧
  ∀ (p : PkgId) (n : Nat) (e : BitVec 32) (s : State), memWf s.mem = true →
    let t := s.setRank p n e
    let a := (s.pkg p).rankBase + 4 * n
    (∀ b, memGet t.mem b = if a ≤ b ∧ b < a + 4 then e.extractLsb' (8 * (b - a)) 8 else memGet s.mem b) ∧
    (∀ j d, t.ctx j d = s.ctx j d) ∧
    (e.getLsbD 22 = true → e.getLsbD 23 = false → pkgOf (rankCore e) = p → (t.core (rankCore e)).rank = BitVec.ofNat 32 n) ∧
    (∀ d v, d / 8 = p → (n, v) ∈ (t.die d).rcache → v = e)

/-- R288, R289, R297, R298, R304, R305, R308: the region table and the rank table. -/
def Obligations.RegionAndRankTables : Prop := Clause.RegionTable ∧ Clause.RankTable

/-- R286, R292, R294, R299, R302, R306, R307, R309, R310: `tlbinv` drops the entries of its die or package, after the walks then in
progress; `fbrd` reads the fault buffer; a `replay` with nothing parked empties the buffer and gives 0; `htset` writes a handler entry, taking any ENTRY with V = 0, as the model reads R309 (log 44), and empties the handler caches of the
package (log 18);
`gen` reads, retires and frees (the loader's record of a freed code range goes with the entry, the model's choice, log 13). -/
def Obligations.TranslationTables : Prop :=
  ∀ (k : CoreId) (c : Fin 8) (f : Fields) (s : State), Quiet k c s →
    let x := s.ctx k c
    let p := pkgOf k
    let d := dieOf k
    let B := x.hart.opd f.b
    let C := x.hart.opd f.c
    let runs := fun (i : Instr) (v : W64) (s' : State) =>
      Ready k c i f s → RunsTo k c (x.withHart (x.hart.dest f.a v)).advance s' (exec i s)
    let drop := fun (whole : Bool) (hit : Tlb → Bool) =>
      let inD := fun (e : DieId) => if whole then e / 8 == p else e == d
      { s with
        cores := s.cores.map fun e => if inD (dieOf e.1) then (e.1, { e.2 with tlb := e.2.tlb.filter fun t => !hit t }) else e,
        dies := s.dies.map fun e => if inD e.1 then (e.1, { e.2 with tlb := e.2.tlb.filter fun t => !hit t }) else e }
    let cleared := (s.modDie d fun y => { y with fbuf := [], drop := false }).mon d 2
    let ty := B.toNat
    let entry := (C.extractLsb' 0 57).toNat
    let rev := (C.extractLsb' 58 4).toNat
    (f.sc ≠ 4 → s.walksIn k (f.sc == 3) = [] →
      runs (.tlbinvPage f) 0 (drop (f.sc == 3) fun t => t.has B.toNat) ∧ runs (.tlbinvAll f) 0 (drop (f.sc == 3) fun _ => true)) ∧
    (f.sc ≠ 4 → s.walksIn k (f.sc == 3) ≠ [] → ∀ i ∈ [Instr.tlbinvPage f, .tlbinvAll f], Ready k c i f s → ∃ t, exec i s = .next t ∧
      (t.ctx k c).wait = .table (.walks (s.walksIn k (f.sc == 3))) none true ∧ (t.ctx k c).hart = x.hart ∧ t.dies = s.dies ∧
      ∀ j, (t.core j).tlb = (s.core j).tlb) ∧
    runs (.fbrd f) ((s.die d).faultWord (x.hart.src2 f).toNat) s ∧
    (f.sc ≠ 4 → replayBusy s = false → (s.die d).parked = [] → (s.die d).notice = false →
      runs (.replay f) 0 cleared ∧ runs (.replayDeny f) 0 cleared) ∧
    (ty ≤ 4095 → (C.getLsbD 57 = true → C.extractLsb' 62 2 = 0 ∧ (rev = 1 ∨ rev = 2) ∧ entry % 12 = 0 ∧
        (0xF00 ≤ ty → s.supCode k entry = true)) →
      runs (.htset f) 0 { s with
        mem := memWrite s.mem ((s.pkg p).htabBase + 8 * ty) ((leBytes 8 C.toNat).map some),
        cores := s.cores.map fun e => if pkgOf e.1 = p
          then (e.1, { e.2 with hcache := [] }) else e }) ∧
    runs (.genAck f) (s.pkg p).dgen (s.modCore k fun co =>
      { co with gen := (s.pkg p).dgen, ic := co.ic.filter fun l => !((s.pkg p).gens.any fun o => match o with | some e => e.has l.va | none => false) }) ∧
    runs (.genRd f) (s.pkg p).dgen s ∧
    (∀ n, (s.pkg p).genFree = some n → 16 ≤ C.toNat → C.toNat ≤ 56 → B.toNat % 2 ^ C.toNat = 0 → B.toNat < 2 ^ 57 →
      runs (.genRet f) ((s.pkg p).dgen + 1) (s.modPkg p fun y =>
        { y with dgen := y.dgen + 1, gens := y.gens.setIfInBounds n (some ⟨B.setWidth 57, C.toNat, y.dgen + 1⟩) })) ∧
    (B.toNat ≤ 15 → runs (.genFree f) 0 (s.modPkg p fun y => y.freeGen B.toNat)) ∧
    (∀ (x : Pkg) (n : Fin 16), (x.freeGen n.val).gens = x.gens.set n none ∧
      (x.gens[n] = none → x.freeGen n.val = x) ∧
      ∀ e, x.gens[n] = some e → x.freeGen n.val = { x with
        gens := x.gens.set n none, ranges := x.ranges.filter fun r =>
          !(decide (e.base.toNat ≤ r.base) && decide (r.base < e.base.toNat + 2 ^ e.lsz)),
        pages := x.pages.filter fun r => !(decide (e.base.toNat ≤ r.va) && decide (r.va < e.base.toNat + 2 ^ e.lsz)) })

/-- R300, R306, R311, R312: each `qcfg` gives the old value (of the rank table its base, the model's choice, log 46) and, without RD, writes
the new one; a new root drops the die's translations once the walks in progress have ended, a
new plan byte takes its carrier down; `frz` freezes and thaws a user core's local memory. -/
def Obligations.Configuration : Prop :=
  ∀ (k : CoreId) (c : Fin 8) (f : Fields) (s : State), Quiet k c s →
    let x := s.ctx k c
    let p := pkgOf k
    let B := x.hart.opd f.b
    let v := x.hart.opd f.c
    let rd := f.bit 21
    let runs := fun (i : Instr) (v : W64) (s' : State) =>
      Ready k c i f s → RunsTo k c (x.withHart (x.hart.dest f.a v)).advance s' (exec i s)
    let quad := fun (j : CoreId) => (List.range 4).map (quadCore j)
    (∀ j, B.getLsbD 63 = true → s.windowCore k B = some j → s.reaches p (pkgOf j) = true →
      ((rd = false → v.toNat ≤ 1 ∧ ∀ i ∈ quad j, (s.core i).l1 = [] ∧ (s.core i).wbs = [] ∧
          (v = 1 → s.isServer i = false → ∀ d : Fin 8, d ≠ 7 → (s.ctx i d).pool ≠ .busy)) →
        runs (.qcfgFuse f) (if (s.core j).fused then 1 else 0)
          (if rd then s else (quad j).foldl (fun s i => s.modCore i fun co => { co with fused := v == 1 }) s)) ∧
      ((rd = false → v.toNat ≤ 31 ∧ (s.isServer j = true → v = 0)) →
        runs (.qcfgMemb f) ((s.core j).memb.setWidth 64) (if rd then s else s.modCore j fun co => { co with memb := v.setWidth 5 })) ∧
      (pkgOf j = p → s.isServer j = false →
        ((∀ w ∈ (s.core j).wiq, s.ids < w.seq) →
          runs (.frzOn f) 0 (s.modCore j fun co => { co with frozen := true })) ∧
        runs (.frzOff f) 0 (s.modCore j fun co => { co with frozen := false }))) ∧
    ((rd = false → v.extractLsb' 1 13 = 0 ∧ v.extractLsb' 58 6 = 0 ∧ s.walksIn k false = []) →
      runs (.qcfgRoot f) ((s.die (dieOf k)).root.setWidth 64) (if rd then s
        else (s.modDie (dieOf k) fun y => { y with root := v.setWidth 58 }).dropTlb k false fun _ => true)) ∧
    (Ready k c (.qcfgRoot f) f s → rd = false → v.extractLsb' 1 13 = 0 → v.extractLsb' 58 6 = 0 → s.walksIn k false ≠ [] →
      ∃ t, exec (.qcfgRoot f) s = .next t ∧ (t.ctx k c).wait = .table (.walks (s.walksIn k false)) none true ∧ (t.ctx k c).hart = x.hart ∧
        t.dies = s.dies ∧ ∀ j, (t.core j).tlb = (s.core j).tlb) ∧
    (B.toNat ≤ 2 ^ 22 → (rd = false → v.toNat % 4096 = 0 ∧ v.toNat < 2 ^ 58) →
      runs (.qcfgRankt f) (BitVec.ofNat 64 (s.pkg p).rankBase)
        (if rd then s else { s.modPkg p fun y => { y with rankLen := B.toNat, rankBase := v.toNat } with
          dies := s.dies.map fun d => if d.1 / 8 = p then (d.1, { d.2 with rcache := [] }) else d })) ∧
    ((rd = false → v.toNat % 32768 = 0 ∧ v.toNat < 2 ^ 58) →
      runs (.qcfgHtab f) (BitVec.ofNat 64 (s.pkg p).htabBase) (if rd then s else
        { s.modPkg p fun y => { y with htabBase := v.toNat } with
          cores := s.cores.map fun e => if pkgOf e.1 = p then (e.1, { e.2 with hcache := [] }) else e })) ∧
    (B.toNat ≤ 2047 → (rd = false → v.toNat ≤ 127 ∧ (v.getLsbD 6 = true → v.toNat % 64 ≠ p ∧ (s.pkg p).podm.getLsbD (v.toNat % 64) = true ∧
        ∀ e ∈ (s.pkg p).carriers, e.1 ≠ B.toNat → e.1 / 8 = B.toNat / 8 → e.2.plan.getLsbD 6 = true → e.2.plan.toNat % 64 ≠ v.toNat % 64)) →
      runs (.qcfgCplan f) ((fmGet {} (s.pkg p).carriers B.toNat).plan.setWidth 64)
        (if rd then s else s.setPlan p B.toNat (v.setWidth 8))) ∧
    (∀ (n : Nat) (b : Byte), (s.setPlan p n b).carrier p n = { plan := b, retune := b.getLsbD 6 } ∧
      (∀ w ∈ (s.setPlan p n b).fab, w.src = p → w.carrier ≠ some n) ∧
      ((s.carrier p n).st ≠ .up → (s.setPlan p n b).fab.length = s.fab.length ∧
        ∀ m, m ≠ n → (s.setPlan p n b).carrier p m = s.carrier p m)) ∧
    (rd = true → B.toNat ≤ 7 → runs (.qcfgFeat f) (if B.toNat < 4 then (s.pkg p).offered B.toNat
      else (s.pkg p).facc[B.toNat - 4]?.getD 0) s)

/-- R303, R313, R383: a table instruction whose update is deferred waits until its completion comes and then goes on with its value;
`pdone` in a save entry discards the context (that its program counter then stands still is the model's choice, log 33), in a restore
entry takes the record's words, and elsewhere does nothing. -/
def Clause.SaveEnds : Prop :=
  ∀ (k : CoreId) (c : Fin 8) (f : Fields) (s : State),
    let x := s.ctx k c
    let pre := (s.core k).pre
    let n := if f.b.isNone then 0x20000 else (x.hart.opd f.b).toNat
    let inside := fun (step : Nat) => pre.step = step ∧ pre.saved.getLsbD c.val = true ∧ pre.through.getLsbD c.val = false
    (∀ j r, x.wait = .table j r false → Quietly s (.tableInstructionComplete k c) fun t => (t.ctx k c).wait = .table j r true) ∧
    (∀ j v, Eligible k c (.genRd f) f s → x.wait = .table j (some v) true →
      Resumes k c { x with hart := x.hart.dest f.a v, wait := .none }.advance s (exec (.genRd f) s)) ∧
    (Ready k c (.genRd f) f s → s.lag.headD 0 = 1 → x.wait = .none → ∃ t, exec (.genRd f) s = .next t ∧
      (t.ctx k c).wait = .table .plain (some (s.pkg (pkgOf k)).dgen) false ∧ (t.ctx k c).hart = x.hart) ∧
    (Ready k c (.pdoneSave f) f s → n % 128 = 0 → n ≤ 0x20000 →
      (¬inside 3 → GoesOn k c s (exec (.pdoneSave f) s)) ∧
      (inside 3 → ∃ t, exec (.pdoneSave f) s = .next t ∧ t.issued = true ∧ (t.ctx k c).wait = .saved ∧
        (t.ctx k c).inEntry = false ∧ (t.ctx k c).hart.pc = x.hart.pc ∧
        (t.core k).pre = { pre with
          through := pre.through ||| (1 <<< c.val), maxN := max pre.maxN n,
          step := if pre.through ||| (1 <<< c.val) = pre.saved then 4 else 3 } ∧
        (t.core k).loc = (s.core k).loc ∧ (pre.through ||| (1 <<< c.val) ≠ pre.saved → t.mem = s.mem) ∧
        ∀ d, d ≠ c → t.ctx k d = s.ctx k d)) ∧
    (Ready k c (.pdoneRest f) f s → (¬inside 6 → GoesOn k c s (exec (.pdoneRest f) s)) ∧
      (inside 6 → ∃ t, exec (.pdoneRest f) s = .next t ∧ t.issued = true ∧
        (t.ctx k c).wait = .restored (BitVec.ofNat 64 (leNat (memRead (s.core k).loc (0x1FF80 + 16 * c.val) 8)))
          (BitVec.ofNat 64 (leNat (memRead (s.core k).loc (0x1FF80 + 16 * c.val + 8) 8))) ∧
        (t.ctx k c).hart = x.hart ∧ (t.ctx k c).inEntry = false ∧ (t.core k).pre = { pre with through := pre.through ||| (1 <<< c.val) } ∧
        (t.core k).loc = (s.core k).loc ∧ t.mem = s.mem ∧ ∀ d, d ≠ c → t.ctx k d = s.ctx k d))

/-! ### Farrier group (R329-R338) -/

/-- R324, R325, R331, R332: `tagrd` reads TAG, PRES and DIRTY of a block at a location and `tagwr` writes TAG or removes the copy; `dirrd` and
`dirwr` move a directory entry, HELD kept; a location outside the package, an absent copy, or an entry with no room kills. A full
directory cache first moves an entry to the first unused slot of its probe range in the spill table (R325), where it reads as before. That
`dirwr` keeps bit 3 of word 0 and counts it in the all-zero test is the model's choice (log 72). -/
def Obligations.FarrierTags : Prop :=
  ∀ (fr : FarId) (t : Fin 16) (f : Fields) (s : State), s.lag = [] →
    let x := s.thread fr t
    let blk := ((x.hart.opd f.b).extractLsb' 6 52).toNat
    let loc := (x.hart.opd f.c).toNat
    let d := fr % 64 * 8 + (loc - 1)
    let atHome := (loc = 0 ∧ homePkg (blk * 64) = fr % 64) ∨
      (1 ≤ loc ∧ loc ≤ 8 ∧ homePkg (blk * 64) = fr % 64 ∧ homeDie (blk * 64) = d)
    let atDie := 1 ≤ loc ∧ loc ≤ 8 ∧ ¬(homePkg (blk * 64) = fr % 64 ∧ homeDie (blk * 64) = d)
    let runs := fun (i : Instr) (s' : State) => FarReady fr t i f s → WellFormed i → FarGoesOn fr t f s' (exec i s)
    let kills := fun (i : Instr) (cause : Cause) => FarReady fr t i f s → WellFormed i → Kills fr t cause s (exec i s)
    let give := fun (n : Nat) => s.modThread fr t fun y => { y with hart := y.hart.dest f.a (BitVec.ofNat 64 n) }
    let tag : BitVec 2 := f.mi.extractLsb' 17 2
    let drop := f.bit 19
    let w0 := x.hart.g[gIx f.c]
    let w1 := x.hart.g[gIx f.c + 1]
    let held : W64 := if (s.dirOf fr blk).held then 0x80000000 else 0
    let new : Dir := ⟨w0 &&& ~~~0x80000000 ||| held, w1⟩
    let cache := (s.far fr).dir
    let zero := new.w0 = 0 ∧ new.w1 = 0
    let v := s.freeNat.2
    let placed := fun (u : State) => (u.setDir fr blk new).modThread fr t fun y => { y with hart := y.hart.destC f.a true }
    (atHome → runs (.tagrd f) (give ((s.homeTag blk).toNat + 4)) ∧
      (drop = false → runs (.tagwr f) (s.setHomeTag blk tag)) ∧ (drop = true → kills (.tagwr f) 0x07)) ∧
    (atDie → ∀ y, s.l2 d blk = some y →
      runs (.tagrd f) (give (y.tag.toNat + 4 + 8 * y.dirty.toNat)) ∧
      runs (.tagwr f) (if drop then (s.setDieTag d blk tag).dropCopy d blk else s.setDieTag d blk tag)) ∧
    (atDie → s.l2 d blk = none → runs (.tagrd f) (give 0) ∧ (tag = 0 → runs (.tagwr f) s) ∧ (tag ≠ 0 → kills (.tagwr f) 0x07)) ∧
    (loc = 0 → homePkg (blk * 64) ≠ fr % 64 → kills (.tagrd f) 0x07 ∧ kills (.tagwr f) 0x07) ∧
    (loc = 9 → kills (.tagrd f) 0x07 ∧ kills (.tagwr f) 0x07) ∧ (10 ≤ loc → kills (.tagrd f) 0x01 ∧ kills (.tagwr f) 0x01) ∧
    (∀ e : BitVec 2, (s.setHomeTag blk e).homeTag blk = e) ∧
    runs (.dirrd f) (s.modThread fr t fun y =>
      { y with hart := (y.hart.setG (gIx f.a) (s.dirOf fr blk).w0).setG (gIx f.a + 1) (s.dirOf fr blk).w1 }) ∧
    (zero ∨ (cache.lookup blk).isSome = true ∨ cache.length < 8 → runs (.dirwr f) (placed s)) ∧
    (¬zero → (cache.lookup blk).isSome = false → 4096 ≤ cache.length →
      ((∀ e ∈ cache, (v.spill fr e.1 e.2).isSome = true) → FarReady fr t (.dirwr f) f s → WellFormed (.dirwr f) →
        ∃ e ∈ cache, ∃ u, v.spill fr e.1 e.2 = some u ∧ FarGoesOn fr t f (placed u) (exec (.dirwr f) s)) ∧
      ((∀ e ∈ cache, v.spill fr e.1 e.2 = none) →
        (∀ c, f.a = .c c → runs (.dirwr f) (s.modThread fr t fun y => { y with hart := y.hart.destC f.a false })) ∧
        (f.a = .none → kills (.dirwr f) 0x07))) ∧
    (∀ (b : Nat) (e : Dir) (u : State),
      (s.spill fr b e = none ↔ ∀ n ∈ (s.far fr).probes b, (s.slotWord (s.far fr) n 0).getLsbD 0 = true ∧
        s.slotWord (s.far fr) n 0 ≠ BitVec.ofNat 64 (b * 64 + 1)) ∧
      (s.spill fr b e = some u → memWf s.mem = true →
        (∀ n ∈ (s.far fr).probes b, let a := (s.far fr).slotAt n
          isHbm a = true ∧ (a / 64 < ctlBlk (homeDie a) ∨ ctlBlk (homeDie a) + 64 ≤ a / 64)) →
        (u.far fr).dir.lookup b = none ∧ u.dirOf fr b = e)) ∧
    (¬zero ∨ s.slotsOf (s.far fr) blk = [] → (s.setDir fr blk new).dirOf fr blk = new)

/-- R333, R336, R338: `btx` copies blocks between home, a die's copy and transfer buffers; `fsto` combines a transfer buffer into
another, into the home block or into a die's copy under its mask, with `.reg` as the region's reduction says, each masked 4-byte
element as its operation gives it; `fpoison` poisons a block where it lies and `fwake` puts the held requests of a block in front of the farrier again. A die with no place for a new copy
keeps `btx` waiting. The cause of a run past buffer 3 is the model's choice (log 103). -/
def Obligations.FarrierBlocks : Prop :=
  ∀ (fr : FarId) (t : Fin 16) (f : Fields) (s : State), s.lag = [] →
    let x := s.thread fr t
    let A := x.hart.opd f.a
    let B := x.hart.opd f.b
    let n := (x.hart.opd f.c).toNat
    let da := (A.extractLsb' 6 52).toNat
    let db := (B.extractLsb' 6 52).toNat
    let la := (A.extractLsb' 60 4).toNat
    let lb := (B.extractLsb' 60 4).toNat
    let clean := A.extractLsb' 58 2 = 0 ∧ A.extractLsb' 0 6 = 0 ∧ B.extractLsb' 58 2 = 0 ∧ B.extractLsb' 0 6 = 0
    let here := fun (b : Nat) => homePkg (b * 64) = fr % 64 ∧ homeOf (b * 64) ≠ .host
    let away := fun (l b : Nat) => 1 ≤ l ∧ l ≤ 8 ∧ ¬(homePkg (b * 64) = fr % 64 ∧ homeDie (b * 64) = fr % 64 * 8 + (l - 1))
    let dieAt := fun (l : Nat) => fr % 64 * 8 + (l - 1)
    let runs := fun (i : Instr) (s' : State) => FarReady fr t i f s → WellFormed i → FarGoesOn fr t f s' (exec i s)
    let kills := fun (i : Instr) (cause : Cause) => FarReady fr t i f s → WellFormed i → Kills fr t cause s (exec i s)
    let bufs := fun (g : Fin 4 → Buf) => s.modThread fr t fun y => { y with buf := Vector.ofFn g }
    let mask : BitVec 64 := if f.c.isNone then BitVec.allOnes 64 else x.hart.opd f.c
    let reg := s.region (fr % 64) ((x.msg.map (·.region)).getD 0)
    let op := if f.bits 17 3 = 7 then stoOpOf reg.rop (BitVec.ofNat 8 reg.rty) else stoOpOf (f.bits 17 3) (f.ty.setWidth 8)
    let d := (x.buf[da % 4]?.getD {})
    let e := (x.buf[db % 4]?.getD {})
    (clean → la = 9 → lb = 0 → 1 ≤ n → da % 4 + n ≤ 4 → (∀ j < n, here (db + j)) →
      runs (.btx f) (bufs fun i => if da % 4 ≤ i.val ∧ i.val < da % 4 + n then s.homeBuf (db + (i.val - da % 4)) else x.buf[i])) ∧
    (clean → la = 0 → lb = 9 → n = 1 → homePkg (da * 64) = fr % 64 →
      let w := s.homeWrite da (BitVec.allOnes 64) e.data (some e.desc)
      runs (.btx f) (if isHbm (da * 64) then w
        else w.setHomeDesc da { (w.sideOf da).desc with fmt := if e.desc.fmt = 0xFF then 0xFF else 0 })) ∧
    (clean → n = 1 → la = 9 → away lb db → ∀ y, s.l2 (dieAt lb) db = some y →
      runs (.btx f) (bufs fun i => if i.val = da % 4 then y.buf else x.buf[i])) ∧
    (clean → n = 1 → la = 9 → away lb db → s.l2 (dieAt lb) db = none → kills (.btx f) 0x07) ∧
    (clean → n = 1 → lb = 9 → away la da → s.l2Full (dieAt la) da = false → runs (.btx f) (s.setL2 (dieAt la) da
      { buf := e, tag := ((s.l2 (dieAt la) da).map (·.tag)).getD 0, dirty := false })) ∧
    (clean → n = 1 → lb = 9 → away la da → s.l2Full (dieAt la) da = true → FarReady fr t (.btx f) f s →
      ∃ w, exec (.btx f) s = .next w ∧ w.issued = s.issued ∧ OnlyThread fr t s w ∧ w.thread fr t = x) ∧
    (clean → n = 0 ∨ 16 < n ∨ (la = 9 ∧ 4 < da % 4 + n) ∨ (lb = 9 ∧ 4 < db % 4 + n) ∨ 9 < la ∨ 9 < lb → kills (.btx f) 0x01) ∧
    (¬clean → kills (.btx f) 0x01 ∧ kills (.fsto f) 0x01) ∧
    (f.bits 17 3 = 7 → reg.rop = 0 → kills (.fsto f) 0x01) ∧
    (clean → lb = 9 → (f.bits 17 3 = 7 → reg.rop ≠ 0) →
      (la = 9 → (∀ w r, stoOn op mask d e = .ok (w, r) →
          runs (.fsto f) (bufs fun i => if i.val = da % 4 then r else x.buf[i])) ∧
        (∀ cause, stoOn op mask d e = .error cause → kills (.fsto f) cause)) ∧
      (la = 0 → homePkg (da * 64) = fr % 64 →
        (∀ w r, stoOn op mask (s.homeBuf da) e = .ok (w, r) →
          let u := s.homeWrite da w r.data (some r.desc)
          runs (.fsto f) (if r.desc.fmt = 0xFF then u.setHomeDesc da { (u.sideOf da).desc with fmt := 0xFF } else u)) ∧
        (∀ cause, stoOn op mask (s.homeBuf da) e = .error cause → kills (.fsto f) cause)) ∧
      (away la da → s.l2 (dieAt la) da = none → kills (.fsto f) 0x07) ∧
      (away la da → ∀ y, s.l2 (dieAt la) da = some y →
        (∀ w r, stoOn op mask y.buf e = .ok (w, r) → runs (.fsto f) (s.setL2 (dieAt la) da { y with buf := r, dirty := true })) ∧
        (∀ cause, stoOn op mask y.buf e = .error cause → kills (.fsto f) cause))) ∧
    (d.desc.fmt ≠ 0xFF → e.desc.fmt ≠ 0xFF → ∃ r : Buf, stoOn .copy mask d e = .ok (mask, r) ∧
      r.desc = (if mask = BitVec.allOnes 64 then e.desc else d.desc) ∧
      ∀ j < 64, r.data.extractLsb' (8 * j) 8 = if mask.getLsbD j then e.data.extractLsb' (8 * j) 8 else d.data.extractLsb' (8 * j) 8) ∧
    (d.desc.fmt = 0xFF ∨ e.desc.fmt = 0xFF → ∀ o m, stoOn o m d e = .ok (0, { d with desc := { d.desc with fmt := 0xFF } })) ∧
    (∀ o ty m, d.desc.fmt ≠ 0xFF → e.desc.fmt ≠ 0xFF → d.desc.fmt ≠ ty → d.desc.fmt ≠ 0 → stoOn (.op o ty) m d e = .error 0x11) ∧
    (∀ o ty, d.desc.fmt ≠ 0xFF → e.desc.fmt ≠ 0xFF → d.desc.fmt = ty ∨ d.desc.fmt = 0 →
      let sel := fun (j : Nat) => mask.extractLsb' (4 * j) 4
      ((∃ j < 16, sel j ≠ 0 ∧ sel j ≠ 0xF) → stoOn (.op o ty) mask d e = .error 0x01) ∧
      ((∀ j < 16, sel j = 0 ∨ sel j = 0xF) → ∃ z : Buf, stoOn (.op o ty) mask d e = .ok (mask, z) ∧ z.desc = { d.desc with fmt := ty } ∧
        ∀ j < 16,
          let x := d.data.extractLsb' (32 * j) 32
          let y := e.data.extractLsb' (32 * j) 32
          let new := z.data.extractLsb' (32 * j) 32
          let fp := fun (v : BitVec 32) => decodeFloat fFP32 v.toNat
          let pick := fun (mx : Bool) => match fminTakesB mx (fp x) (fp y) with | some true => x | some false => y | none => 0x7FC00000
          (sel j = 0 → new = x) ∧
          (sel j = 0xF → (o = .and → new = x &&& y) ∧ (o = .or → new = x ||| y) ∧ (o = .xor → new = x ^^^ y) ∧
            (ty ≠ 9 → (o = .add → new = x + y) ∧ (o = .min → new = if x.slt y then x else y) ∧
              (o = .max → new = if x.slt y then y else x)) ∧
            (ty = 9 → (o = .add → new = BitVec.ofNat 32 (roundTo fFP32 0 0 (valAdd false (fp x) (fp y)).1).1) ∧
              (o = .min → new = pick false) ∧ (o = .max → new = pick true))))) ∧
    (n = 0 → homePkg (db * 64) = fr % 64 → runs (.fpoison f) (s.setHomeDesc db { (s.sideOf db).desc with fmt := 0xFF })) ∧
    (n = 9 → runs (.fpoison f) (bufs fun i => if i.val = db % 4 then { x.buf[i] with desc := { x.buf[i].desc with fmt := 0xFF } }
      else x.buf[i])) ∧
    (away n db → s.l2 (dieAt n) db = none → kills (.fpoison f) 0x07) ∧
    (away n db → ∀ y, s.l2 (dieAt n) db = some y →
      runs (.fpoison f) (s.setL2 (dieAt n) db { y with buf := { y.buf with desc := { y.buf.desc with fmt := 0xFF } } })) ∧
    runs (.fwake f) (s.modFar fr fun y =>
      { y with holds := y.holds.filter (fun m => m.blk != db), reqs := y.reqs ++ y.holds.filter fun m => m.blk == db })

/-- R259, R334, R335, R337: `freq` sends a request to a farrier of the pod, and with W waits for its reply and gives its status;
`frep` answers a thread that awaits a reply; `fblk` waits for every reply counted and gives their number and statuses. Where the token that
`frep` takes holds the farrier, the thread and the request is the model's choice (log 57). -/
def Obligations.FarrierMessages : Prop :=
  ∀ (fr : FarId) (t : Fin 16) (f : Fields) (s : State), s.lag = [] → s.fab = [] →
    let x := s.thread fr t
    let B := x.hart.opd f.b
    let C := x.hart.opd f.c
    let K := x.hart.opd f.a
    let ty : BitVec 6 := f.mi.extractLsb' 17 6
    let dst := B.toNat % 2 ^ 13
    let q := (K.extractLsb' 0 13).toNat
    let u := (K.extractLsb' 13 4).toFin
    let req := (K.extractLsb' 17 46).toNat
    let kind := (4 ≤ ty.toNat ∧ ty.toNat < 0x0C) ∨ (0x10 ≤ ty.toNat ∧ ty.toNat < 0x38)
    let sent := fun (o : Host.Outcome State Fault Refusal) (p : State → Prop) =>
      ∃ w, o = .next w ∧ w.issued = true ∧ w.cores = s.cores ∧ w.mem = s.mem ∧ p w
    (FarReady fr t (.freq f) f s → WellFormed (.freq f) → kind → (x.hart.pc + 12).toNat ≤ 0xFFF0 →
      s.podHas (fr % 64) (dst % 64) = true → dst / 64 ≤ 84 → (s.far fr).reserved < 64 → x.awaits = none →
      (f.bit 24 = true ↔ f.a.isNone = false) →
      sent (exec (.freq f) s) fun w =>
        (∃ m : FMsg, (w.far dst).reqs = (s.far dst).reqs ++ [m] ∧ m.uid = s.ids + 1 ∧ m.ty = ty ∧
          m.blk = (C.extractLsb' 6 52).toNat ∧ m.acc = false ∧ m.party = .far fr t (f.bit 24) ∧
          m.data = (if f.bit 23 then some x.buf[0] else none) ∧ m.g12 = x.hart.g[(12 : Fin 16)] ∧ m.g13 = x.hart.g[(13 : Fin 16)]) ∧
        (w.thread fr t).hart = { x.hart with pc := if f.bit 24 then x.hart.pc else x.hart.pc + 12 } ∧
        (w.thread fr t).awaits = (if f.bit 24 then some (s.ids + 1) else none) ∧
        (w.thread fr t).blk = if f.bit 24 then x.blk else x.blk ++ [s.ids + 1]) ∧
    (∀ id r, FarReady fr t (.freq f) f s → x.awaits = some id → x.answer = some r →
      let answered := fun (y : Thread) =>
        { y with awaits := none, answer := none, hart := y.hart.dest f.a (r.status.setWidth 64), buf := r.data.elim y.buf (y.buf.set 1 ·) }
      FarGoesOn fr t f (s.modThread fr t answered) (exec (.freq f) s)) ∧
    (FarReady fr t (.freq f) f s → x.awaits = none → ¬kind → Kills fr t 0x01 s (exec (.freq f) s)) ∧
    (FarReady fr t (.freq f) f s → WellFormed (.freq f) → kind → x.awaits = none → (f.bit 24 = true ↔ f.a.isNone = false) →
      84 < dst / 64 → Kills fr t 0x07 s (exec (.freq f) s)) ∧
    (FarReady fr t (.frep f) f s → K.getLsbD 63 = true → Kills fr t 0x07 s (exec (.frep f) s)) ∧
    (FarReady fr t (.frep f) f s → K.getLsbD 63 = false → q % 64 = fr % 64 → q ≠ fr → (x.hart.pc + 12).toNat ≤ 0xFFF0 →
      (s.far q).reps = [] →
      sent (exec (.frep f) s) fun w =>
        (w.thread fr t).hart = { x.hart with pc := x.hart.pc + 12 } ∧ (w.far q).reps = [] ∧
        ((s.thread q u).awaits = some req → (w.thread q u).answer =
          some ⟨s.ids + 1, u, req, (x.hart.opd f.b).setWidth 8, if f.bit 17 then some x.buf[0] else none⟩) ∧
        ((s.thread q u).awaits ≠ some req → req ∈ (s.thread q u).blk →
          (w.thread q u).blk = (s.thread q u).blk.erase req ∧ (w.thread q u).blkN = (s.thread q u).blkN + 1 ∧
          (w.thread q u).blkOr = (s.thread q u).blkOr ||| (x.hart.opd f.b).setWidth 8) ∧
        ((s.thread q u).awaits ≠ some req → req ∉ (s.thread q u).blk → (w.thread q u).answer = (s.thread q u).answer ∧
          (w.thread q u).blk = (s.thread q u).blk)) ∧
    (FarReady fr t (.fblk f) f s → WellFormed (.fblk f) → x.blk = [] →
      let told := fun (y : Thread) =>
        { y with
          blkN := 0, blkOr := 0, inBlk := false, hart := y.hart.dest f.a (BitVec.ofNat 64 (y.blkN.toNat + y.blkOr.toNat * 2 ^ 16)) }
      FarGoesOn fr t f (s.modThread fr t told) (exec (.fblk f) s)) ∧
    (FarReady fr t (.fblk f) f s → x.blk ≠ [] → ∃ w, exec (.fblk f) s = .next w ∧ w.issued = s.issued ∧
      OnlyThread fr t s w ∧ w.thread fr t = { x with inBlk := true })

/-- R330: `fdone` frees its thread; a farrier's request is answered with ACK, ACK and the data of buffer 0, or NAK, unless the
handler has answered it itself; an access or request that is held joins the list `fwake` takes from. -/
def Clause.HandlerEnds : Prop :=
  ∀ (fr : FarId) (t : Fin 16) (f : Fields) (s : State) (m : FMsg), s.lag = [] → s.fab = [] →
    let x := s.thread fr t
    x.msg = some m → m.ty ≠ 0x3F →
    let ends := fun (i : Instr) (p : State → Prop) => FarReady fr t i f s → ∃ w, exec i s = .next w ∧ w.issued = true ∧
      (w.thread fr t).busy = false ∧ (w.thread fr t).msg = none ∧ w.cores = s.cores ∧ w.mem = s.mem ∧ p w
    let held := fun (w : State) => (w.far fr).holds = (s.far fr).holds ++ [m]
    (∀ (q : FarId) (u : Fin 16) (b : Bool), m.acc = false → m.party = .far q u b → q % 64 = fr % 64 → q ≠ fr →
      (s.far q).reps = [] → (s.thread q u).awaits = some m.uid →
      let answered := fun (status : Byte) (data : Option Buf) (w : State) =>
        (w.thread q u).answer = some ⟨s.ids + 1, u, m.uid, status, data⟩
      (x.replied = false →
        ends (.fdoneRes f) (answered 0x00 none) ∧ ends (.fdoneSat f) (answered 0x00 (some x.buf[0])) ∧
        ends (.fdoneDeny f) (answered 0x01 none) ∧ ends (.fdoneHold f) held) ∧
      (x.replied = true →
        (∀ i ∈ [Instr.fdoneRes f, .fdoneSat f, .fdoneDeny f], ends i fun w => w.thread q u = s.thread q u) ∧
        (FarReady fr t (.fdoneHold f) f s → Kills fr t 0x01 s (exec (.fdoneHold f) s)))) ∧
    (m.acc = true → (∀ p n, m.party ≠ .snoop p n) → m.ty ≠ 0x09 → ends (.fdoneHold f) held) ∧
    (m.acc = false → m.party = .none → m.ty ≠ 0x09 →
      ends (.fdoneRes f) (fun _ => True) ∧
      ∀ i ∈ [Instr.fdoneSat f, .fdoneDeny f, .fdoneHold f], FarReady fr t i f s → Kills fr t 0x01 s (exec i s))

/-- R330: what `fdone` makes of the element of an access that posted: `.res` has it checked again; `.sat` gives a load buffer 0 with its
description, an atomic g5 or buffer 0 as its old value, completes a store, and installs no copy in L2; `.deny` ends it with 0x14. A load
or store of one element, if prompt, then ends: a satisfied load writes its register, a denied access lists its fault. -/
def Clause.Settlements : Prop :=
  ∀ (fr : FarId) (t : Fin 16) (f : Fields) (m : FMsg) (k : CoreId) (a : Access) (p : Part) (pa : Nat) (s : State),
    let x := s.thread fr t
    x.msg = some m → m.acc = true → m.ty ≠ 0x3F → m.ty ≠ 0x09 → m.party = .acc k a.id 0 → s.acc? k a.id = some a →
    a.parts[0]? = some p → (s.core k).rels = [] → (s.core (s.l1Core k (pa / 128))).l1.all (fun l => l.line != pa / 128) = true ∨ a.kind = .st →
    let b := x.buf[0]
    let ends := fun (i : Instr) (q : State → Prop) => FarReady fr t i f s → ∃ w, exec i s = .next w ∧ w.issued = true ∧
      (w.thread fr t).busy = false ∧ w.mem = s.mem ∧ (∀ d, (w.die d).l2 = (s.die d).l2) ∧ q w
    let becomes := fun (i : Instr) (st : Stage) => s.lag.headD 0 ≠ 0 → ends i fun w => w.stageOf k a.id 0 = some st
    let reads := fun (i : Instr) (bs : List Byte) (d : Desc) => s.lag.headD 0 ≠ 0 → ends i fun w =>
      w.stageOf k a.id 0 = some .served ∧ ((w.acc? k a.id).bind fun e => e.parts[0]?).map (fun e => (e.got, e.gotD)) = some (bs, d)
    (p.stage = .susp pa →
      (∀ sz r, a.kind = .ld sz r →
        becomes (.fdoneRes f) (.ready pa) ∧ becomes (.fdoneDeny f) (.failed 0x14 p.ea) ∧
        (b.desc.fmt ≠ 0xFF → reads (.fdoneSat f) (((bytesB b.data).drop (pa % 64)).take p.bytes.length) b.desc) ∧
        (b.desc.fmt = 0xFF → becomes (.fdoneSat f) (.failed 0x09 p.ea))) ∧
      (∀ r h, a.kind = .ldblk r h → reads (.fdoneSat f) (((bytesB b.data).drop (pa % 64)).take p.bytes.length) b.desc) ∧
      (a.kind = .st → becomes (.fdoneRes f) (.tagReq pa) ∧ becomes (.fdoneSat f) .served ∧ becomes (.fdoneDeny f) (.failed 0x14 p.ea)) ∧
      (∀ op n d v cmp, a.kind = .atomic op n d v cmp →
        becomes (.fdoneRes f) (.sent pa) ∧ becomes (.fdoneDeny f) (.failed 0x14 p.ea) ∧
        reads (.fdoneSat f) (leBytes (n / 8) x.hart.g[(5 : Fin 16)].toNat) b.desc) ∧
      (∀ op ty d v, a.kind = .ablk op ty d v → reads (.fdoneSat f) (bytesB b.data) b.desc)) ∧
    (p.stage = .suspW pa → becomes (.fdoneRes f) (.sent pa) ∧ becomes (.fdoneSat f) .served ∧
      becomes (.fdoneDeny f) (.failed 0x14 (BitVec.ofNat 64 (pa / 64 * 64)))) ∧
    (s.lag = [] → p.stage = .susp pa → (s.core k).accs = [a] → a.parts = [p] → a.hopped = false → a.acq = none → a.far = none →
      (∀ sz r, a.kind = .ld sz r → b.desc.fmt ≠ 0xFF → ends (.fdoneSat f) fun w => (w.core k).accs = [] ∧
        (w.ctx k a.ctx).hart =
          (s.ctx k a.ctx).hart.setG r (extLoad sz (((bytesB b.data).drop (pa % 64)).take p.bytes.length))) ∧
      ((∃ sz r, a.kind = .ld sz r) ∨ a.kind = .st → (s.core k).rfaults = [] → ends (.fdoneDeny f) fun w => (w.core k).accs = [] ∧
        (w.ctx k a.ctx).hart = (s.ctx k a.ctx).hart ∧
        ∃ q, (w.core k).rfaults = [q] ∧ q.ctx = a.ctx ∧ q.cause = 0x14 ∧ q.eaddr = p.ea ∧ q.user = a.user))

/-- R330: the end of a handler, and what becomes of the access or the request it has settled. -/
def Obligations.HandlerEnds : Prop := Clause.HandlerEnds ∧ Clause.Settlements

/-! ### Events of the farriers -/

/-- R259, R320, R322, R328: the next request takes the lowest free thread: a custom set's handler starts at its entry, with the
message in g0 to g13, its budget in g3 and its data in buffer 0 (the data of a host write with the home line's description, R390); an access to a HELD block runs as RCV. `farrierDispatch` and the
event of the message's type do the same. -/
def Clause.HandlerStarts : Prop :=
  ∀ (fr : FarId) (t q : Fin 16) (m : FMsg) (e : Nat) (i : Instr) (s : State),
    (s.far fr).reqs = [m] → s.inFab m.uid = false → (∀ p, p < q → (s.thread fr p).busy = true) → (s.thread fr q).busy = false →
    (∀ p, (s.thread fr p).busy = true → ∀ n, (s.thread fr p).msg = some n → n.blk ≠ m.blk) →
    let blk := m.ty ≠ 0x38
    let held := blk ∧ (s.dirOf fr m.blk).held = true
    let r := s.region (fr % 64) m.region
    let hset := if blk then r.hset.toNat else m.region
    let curb := if blk then r.curb else 4096
    let ty := if held then 0x3F else m.ty
    (held → m.acc = true ∧ m.sup = true) → (¬held → blk → m.ty.toNat ≤ 6 → m.region ∉ (s.pkg (fr % 64)).rebind) →
    (blk → 6 ≤ hset ∧ 6 ≤ r.prot.toNat ∧ (m.acc = true ∨ m.prot = r.prot)) → (s.far fr).entryOf hset ty = some e →
    (i = .farrierDispatch fr ∨ ((s.thread fr t).script = none ∧ ∃ h, HandlerEvent h ∧ i = h.1 fr t ∧ ty.toNat ∈ h.2)) →
    ∃ u, exec i s = .next u ∧ u.cores = s.cores ∧ u.mem = s.mem ∧ (u.far fr).reqs = [] ∧
      (∀ p, p ≠ q → u.thread fr p = s.thread fr p) ∧
      let y := u.thread fr q
      y.busy = true ∧ y.hart.pc = BitVec.ofNat 57 e ∧ y.hart.c = 1 ∧ y.fcurb = curb ∧ y.hset = BitVec.ofNat 8 hset ∧
      y.hart.g[(0 : Fin 16)] = BitVec.ofNat 64 (if blk then m.blk * 64 else 0) ∧
      y.hart.g[(1 : Fin 16)].extractLsb' 0 6 = ty ∧ y.hart.g[(3 : Fin 16)] = BitVec.ofNat 64 curb ∧
      y.hart.g[(4 : Fin 16)] = m.g4 ∧ y.hart.g[(5 : Fin 16)] = m.g5 ∧ y.hart.g[(12 : Fin 16)] = m.g12 ∧
      y.hart.g[(13 : Fin 16)] = m.g13 ∧ (y.msg.map (·.uid)) = some m.uid ∧
      ∀ b, m.data = some b → y.buf[0] = match m.party with | .host _ _ => ⟨b.data, s.homeDesc m.blk⟩ | _ => b

/-- R339, R322 (the model's own acts of the standard handlers, log 20): an event of a standard handler's message performs the next act
of its script: the home tag, the directory entry with HELD kept (an entry that cannot be placed kills it, the model's choice, log 98), the home data into buffer 0, copies invalidated, the held requests
woken, the wait for counted replies. A reply reaches the thread that awaits it; a handler at its budget is killed. -/
def Clause.HandlerActs : Prop :=
  ∀ (fr : FarId) (t : Fin 16) (m : FMsg) (s : State),
    let x := s.thread fr t
    (∀ h, HandlerEvent h → ∀ (a : NAct) (l : List NAct), m.ty.toNat ∈ h.2 → s.lag.headD 0 ≠ 0 → x.busy = true → x.msg = some m →
      x.script = some (a :: l) →
      let acts := fun (p : State → Prop) => ∃ u, exec (h.1 fr t) s = .next u ∧ (u.thread fr t).script = some l ∧ p u
      (∀ tag, a = .home tag → acts fun u => u.homeTag m.blk = tag) ∧
      (∀ w0 w1, a = .dir w0 w1 →
        let new : Dir := ⟨w0 &&& ~~~0x80000000 ||| (if (s.dirOf fr m.blk).held then 0x80000000 else 0), w1⟩
        let cache := (s.far fr).dir
        let zero := new.w0 = 0 ∧ new.w1 = 0
        (zero ∧ s.slotsOf (s.far fr) m.blk = [] ∨ ¬zero ∧ ((cache.lookup m.blk).isSome = true ∨ cache.length < 8) → acts fun u =>
          u.dirOf fr m.blk = new ∧ u.cores = s.cores ∧ u.mem = s.mem) ∧
        (¬zero → (cache.lookup m.blk).isSome = false → 4096 ≤ cache.length → (∀ e ∈ cache, s.freeNat.2.spill fr e.1 e.2 = none) →
          Kills fr t 0x07 s (exec (h.1 fr t) s))) ∧
      (a = .homeBuf → homeOf (m.blk * 64) ≠ .host → acts fun u => (u.thread fr t).buf[0] = s.homeBuf m.blk ∧ u.mem = s.mem) ∧
      (∀ ds, a = .invDies ds → acts fun u => ∀ d < 8, ds.getLsbD d = true → u.l2 (fr % 64 * 8 + d) m.blk = none) ∧
      (a = .wake → acts fun u => (u.far fr).holds = (s.far fr).holds.filter (fun n => n.blk != m.blk) ∧
        (u.far fr).reqs = (s.far fr).reqs ++ (s.far fr).holds.filter fun n => n.blk == m.blk) ∧
      (a = .await → x.blk = [] → acts fun u => u.mem = s.mem) ∧
      (a = .await → x.blk ≠ [] → exec (h.1 fr t) s = .next { s with lag := s.lag.tail })) ∧
    (∀ r, (s.far fr).reps = [r] → s.fab = [] → (s.thread fr r.thread).script = none →
      ∃ u, exec (.farrierReply fr) s = .next u ∧ (u.far fr).reps = [] ∧ u.cores = s.cores ∧ u.mem = s.mem ∧
        ((s.thread fr r.thread).awaits = some r.req → (u.thread fr r.thread).answer = some r) ∧
        ((s.thread fr r.thread).awaits ≠ some r.req → r.req ∈ (s.thread fr r.thread).blk →
          (u.thread fr r.thread).blk = (s.thread fr r.thread).blk.erase r.req ∧
          (u.thread fr r.thread).blkN = (s.thread fr r.thread).blkN + 1)) ∧
    (x.busy = true → x.fcurb = 0 → Kills fr t 0x0E s (exec (.curbKill fr t) s)) ∧
    (x.busy = true → x.fcurb ≠ 0 → exec (.curbKill fr t) s = .next s) ∧
    (x.busy = true → (x.awaits.isSome = true ∧ x.answer = none ∨
        x.blk ≠ [] ∧ (x.script = none ∧ x.inBlk = true ∨ ∃ l, x.script = some (.await :: l))) →
      Kills fr t 0x0E s (exec (.curbWaitTimeout fr t) s)) ∧
    (x.awaits = none → x.blk = [] ∨ x.script = none ∧ x.inBlk = false → exec (.curbWaitTimeout fr t) s = .next s)

/-- R259, R320, R322, R328, R332, R339, R390: handlers from dispatch to kill. -/
def Obligations.Handlers : Prop := Clause.HandlerStarts ∧ Clause.HandlerActs

/-! ### Pre-emption (R379-R385) and job teardown -/

/-- R379, R389, R423: a reason written to REQ in state 0, a time slice that runs out, the host's PREQ and a die above its pre-emption
temperature all put every user core of the die into step 1 of the save, with the reason in pcause. -/
def Clause.SaveBegins : Prop :=
  ∀ (d : DieId) (s : State), (s.die d).state = 0 →
    let begun := fun (i : Instr) (why : Byte) => ∃ u, exec i s = .next u ∧ (u.die d).req = why ∧
      (∀ k ∈ s.dieUsers d, (u.core k).pre = { step := 1 } ∧ (u.core k).pcause = why) ∧ (∀ k, (u.core k).loc = (s.core k).loc) ∧
      ∀ k c, u.ctx k c = s.ctx k c
    (∀ why : Byte, 1 ≤ why.toNat → why.toNat ≤ 5 → begun (.preemptRequest d why) why) ∧
    ((s.die d).slice ≠ 0 → begun (.timeSliceExpiry d) 0x01) ∧
    ((s.die d).slice = 0 → exec (.timeSliceExpiry d) s = .next s) ∧
    (∀ (p : PkgId) (req : Nat) (n : Fin 8), d = p * 8 + n.val → s.barReady ⟨p, req⟩ = true →
      begun (.preqWrite ⟨p, req⟩ n 0x05) 0x05 ∧ ∀ v : Byte, v ≠ 0x05 → exec (.preqWrite ⟨p, req⟩ n v) s = .next s) ∧
    ∀ temp : Int, (s.pkg (d / 8)).pre < temp → begun (.thermalPreempt d temp) 0x04

/-- R380-R383: the steps of a save and of a resume of one core: local memory, sideband and fill bits to the core's slot; every busy
context into the save entry with its record in local memory; the image and the records to the slot; the resume entry with the contexts
and the image that the slot names, local memory back, and the contexts where they stood. That the core's own state and its L1 come back
from a record kept under the slot's address is the model's choice (log 61). -/
def Clause.SaveAndResume : Prop :=
  ∀ (k : CoreId) (s : State), memWf s.mem = true → memWf (s.core k).loc = true →
    let d := dieOf k
    let co := s.core k
    let pre := co.pre
    let a := s.slotBase k
    let apart := ctlBlk d * 64 + 16 ≤ a ∨ a + 0x50000 ≤ ctlBlk d * 64
    let entered := fun (off : Nat) (c : Fin 8) (u : State) =>
      let y := u.ctx k c
      y.hart.pc = co.evec + BitVec.ofNat 57 off ∧ y.hart.g[(15 : Fin 16)] = BitVec.ofNat 64 (0x1FF80 + 16 * c.val) ∧ y.sup = true ∧
      y.inEntry = true ∧ (∀ r : Fin 16, r ≠ 15 → y.hart.g[r] = (s.ctx k c).hart.g[r]) ∧ y.hart.c = (s.ctx k c).hart.c
    let resting := ∀ c r, (s.ctx k c).wait ≠ .finish r ∧ (s.ctx k c).wait ≠ .halting r
    let copied := fun (u : State) => memRead u.mem a 0x20000 = memRead co.loc 0 0x20000 ∧
      (∀ b < 2048, memRead u.mem (a + 0x20000 + 2 * b) 2 = [(co.locDesc (64 * b)).fmt, (co.locDesc (64 * b)).scale]) ∧
      memRead u.mem (a + 0x21000) 128 = leBytes 128 co.fill.toNat
    (pre.step = 1 → s.stopped k = true → resting → apart → ∃ u, exec (.preemptLocalCopy k) s = .next u ∧
      (u.core k).pre.step = (if s.turnOf k 2 then 3 else 2) ∧ (s.turnOf k 2 = true → copied u) ∧ (u.core k).l1 = [] ∧
      (u.core k).saves.lookup a = some co.image ∧ co.image.l1 = co.l1.filterMap L1Line.saved ∧
      (∀ c, (u.ctx k c).hart = (s.ctx k c).hart) ∧ ∀ j, (u.core j).loc = (s.core j).loc) ∧
    (∀ l : L1Line, (l.dirty = 0 → l.ddirty = 0 → l.pin = 0 ∨ l.valid = 0 → l.saved = none) ∧
      (l.pin ≠ 0 → l.dirty ≠ 0 ∨ l.ddirty ≠ 0 ∨ l.valid ≠ 0 → l.saved = some l) ∧
      (l.pin = 0 → l.dirty ≠ 0 ∨ l.ddirty ≠ 0 → l.saved = some { l with valid := l.valid &&& l.dirty })) ∧
    (pre.step = 2 → resting → apart → s.turnOf k 2 = true → ∃ u, exec (.preemptLocalCopy k) s = .next u ∧
      (u.core k).pre.step = 3 ∧ copied u ∧ (u.core k).loc = co.loc ∧ ∀ c, u.ctx k c = s.ctx k c) ∧
    (pre.step = 3 → pre.entered = false → ∃ u, exec (.saveEntry k) s = .next u ∧
      ((u.core k).pre.step = 3 ↔ ∃ c : Fin 8, (s.ctx k c).pool = .busy) ∧
      ((u.core k).pre.step = 4 ↔ ∀ c : Fin 8, (s.ctx k c).pool ≠ .busy) ∧ ∀ c : Fin 8,
      ((u.core k).pre.saved.getLsbD c.val = true ↔ (s.ctx k c).pool = .busy) ∧
      ((s.ctx k c).pool = .busy → entered 192 c u ∧ memRead (u.core k).loc (0x1FF80 + 16 * c.val) 16 =
        leBytes 8 ((s.ctx k c).hart.pc.toNat + if (s.ctx k c).sup then 2 ^ 63 else 0) ++
          leBytes 8 (s.ctx k c).hart.g[(15 : Fin 16)].toNat) ∧
      ((s.ctx k c).pool = .reserved → (u.ctx k c).pool = .free ∧ (u.ctx k c).hart = (s.ctx k c).hart) ∧
      ((s.ctx k c).pool ≠ .busy → (s.ctx k c).pool ≠ .reserved → u.ctx k c = s.ctx k c)) ∧
    (pre.step = 4 → s.turnOf k 4 = true → apart → pre.maxN ≤ 0x20000 →
      ∃ u, exec (.preemptImageCopy k) s = .next u ∧ (u.core k).pre.step = 5 ∧
        memRead u.mem (a + 0x30000) pre.maxN = memRead co.loc 0 pre.maxN ∧
        memRead u.mem (a + 0x4FF80) 0x80 = memRead co.loc 0x1FF80 0x80 ∧
        leNat (memRead u.mem (a + 0x21080) 8) = pre.saved.toNat + co.pcause.toNat * 2 ^ 8 + pre.maxN * 2 ^ 16 ∧
        memRead u.mem (a + 0x21088) 8 = leBytes 8 co.gen.toNat ∧
        (∀ c, u.ctx k c = s.ctx k c) ∧ (u.core k).loc = co.loc) ∧
    (k ∈ s.dieUsers d → (s.die d).state = 5 → pre.step = 5 → pre.out = false → apart →
      let head := leNat (memRead s.mem (a + 0x21080) 8)
      let saved : Byte := BitVec.ofNat 8 head
      let n := min 0x20000 (head / 2 ^ 16 % 2 ^ 18)
      ∃ u, exec (.resumeRequest d) s = .next u ∧ (u.core k).pre.step = 6 ∧ (u.core k).pre.saved = saved ∧
        (∀ b < n, b < 0x1FF80 → memGet (u.core k).loc b = memGet s.mem (a + 0x30000 + b)) ∧
        memRead (u.core k).loc 0x1FF80 0x80 = memRead s.mem (a + 0x4FF80) 0x80 ∧
        ∀ c : Fin 8, (saved.getLsbD c.val = true → entered 384 c u ∧ (u.ctx k c).pool = .busy) ∧
          (saved.getLsbD c.val = false → (u.ctx k c).hart = (s.ctx k c).hart ∧ (u.ctx k c).pool ≠ .busy)) ∧
    (pre.step = 6 → pre.through = pre.saved → (∀ j ∈ (s.dieUsers d).takeWhile fun j => j != k, (s.core j).pre.step ≠ 6 ∨ (s.core j).pre.out = true) →
      let im := (co.saves.lookup a).getD {}
      ∃ u, exec (.resumeWriteback k) s = .next u ∧ (u.core k).pre.step = 7 ∧
        memRead (u.core k).loc 0 0x20000 = memRead s.mem a 0x20000 ∧
        (∀ b < 2048, (u.core k).locDesc (64 * b) = ⟨memGet s.mem (a + 0x20000 + 2 * b), memGet s.mem (a + 0x20000 + 2 * b + 1)⟩) ∧
        (u.core k).fill = BitVec.ofNat 1024 (leNat (memRead s.mem (a + 0x21000) 128)) ∧
        (u.core k).l1.map (fun l => (l.line, l.valid, l.dirty, l.data)) = im.l1.map (fun l => (l.line, l.valid, l.dirty, l.data)) ∧
        (u.core k).ctrs = im.ctrs ∧ (u.core k).slots = im.slots ∧ (u.core k).exch = im.exch ∧
        ∀ c, (u.ctx k c).hart = (s.ctx k c).hart ∧ (u.ctx k c).wait = (s.ctx k c).wait ∧ (u.ctx k c).fences = im.fences[c]) ∧
    (pre.step = 7 → co.refused = [] → ∃ u, exec (.coreResume k) s = .next u ∧ (u.core k).pre = {} ∧ (u.core k).loc = co.loc ∧
      (u.core k).dray = ((co.saves.lookup a).getD {}).dray ++ co.dray ∧
      ∀ c : Fin 8,
        (∀ w0 w1, (s.ctx k c).wait = .restored w0 w1 → (u.ctx k c).wait = .none ∧ (u.ctx k c).sup = w0.getLsbD 63 ∧
          (u.ctx k c).hart = { (s.ctx k c).hart.setG 15 w1 with pc := w0.extractLsb' 0 57 }) ∧
        ((∀ w0 w1, (s.ctx k c).wait ≠ .restored w0 w1) → (u.ctx k c).hart = (s.ctx k c).hart ∧ (u.ctx k c).wait = (s.ctx k c).wait))

/-- R226, R303, R313, R379-R383, R389, R423: pre-emption from its request to the resume. -/
def Obligations.Preemption : Prop := Clause.SaveBegins ∧ Clause.SaveAndResume ∧ Clause.SaveEnds

/-- R17, R256, R257, R311, R315, R358, R401: the teardown of a job leaves its cores with no context busy (free, or reserved for a listed
supervisor message), nothing under way, no counter armed (of those in global windows too), no freeze, fuse or membership, and no packet
of their flows waiting for the fabric, and leaves local memories, every other core's registers and, but for the dirty
words of a fused quad, memory as they are. That it takes what they have under way wherever it stands is the model's reading (log 56). -/
def Obligations.Teardown : Prop :=
  ∀ (ks : List CoreId) (s : State), ∃ u, exec (.jobTeardown ks) s = .next u ∧
    ((∀ k ∈ ks, (s.core k).fused = false) → u.mem = s.mem ∧ ∀ k ∈ ks, (u.core k).wbs = [] ∧ (u.core k).rfaults = []) ∧
    (∀ k, (u.core k).loc = (s.core k).loc) ∧ (∀ k ∉ ks, ∀ c, (u.ctx k c).hart = (s.ctx k c).hart) ∧
    ∀ k ∈ ks, (∀ c, (u.ctx k c).pool ≠ .busy ∧ (u.ctx k c).pool ≠ .discarded ∧
        ((∀ l ∈ (s.core k).refused, l.sup = false) → (u.ctx k c).pool = .free) ∧ (u.ctx k c).wait = .none ∧ (u.ctx k c).flight = [] ∧
        (u.ctx k c).pend = [] ∧ (u.ctx k c).fwd = none) ∧
      (u.core k).accs = [] ∧ (u.core k).rels = [] ∧ (u.core k).anvil = [] ∧ (u.core k).anvRun = none ∧
      (u.core k).dray = [] ∧ (u.core k).drayRun = none ∧ (u.core k).exch = [] ∧
      (u.core k).ctrs = Vector.replicate 16 {} ∧ (u.core k).frozen = false ∧ (u.core k).fused = false ∧ (u.core k).memb = 0 ∧
      (∀ x ∈ u.fab, x.flow ≠ k) ∧ ∀ e ∈ u.dies, ∀ g ∈ e.2.gctrs, g.2.armed = true → g.2.owner ≠ .core k

/-! ### The host -/

/-- R349, R350, R389, R390, R393: a window access below a block: where its window is not valid, Unsupported Request (a read) or an error (a
write); while its region is being bound anew it waits; else the bytes at the home, or, where the tag forbids it, a request to the farrier. A snoop of a line the port does not hold
misses; one of a line it holds becomes HSNP. -/
def Clause.HostAccesses : Prop :=
  ∀ (p : PkgId) (req off len : Nat) (data : List Byte) (relaxed : Bool) (s : State), s.lag = [] → (s.pkg p).hostAccs = [] →
    0 < len → off % 64 + len ≤ 64 → off + len ≤ 2 ^ 36 → data.length = len →
    let w := fmGet 0 (s.pkg p).wins (off / 2 ^ 30)
    let pa := (w.extractLsb' 30 28).toNat * 2 ^ 30 + off % 2 ^ 30
    let blk := pa / 64
    let apart := blk < ctlBlk (homeDie pa) ∨ ctlBlk (homeDie pa) + 64 ≤ blk
    let rd := exec (.hostWindowRead p off len) s
    let wr := exec (.hostWindowWrite ⟨p, req⟩ off data relaxed) s
    let ends := fun (o : Host.Outcome State Fault Refusal) (rep : List HostRep) => ∃ u, o = .next u ∧ u.cores = s.cores ∧
      (u.pkg p).hostAccs = [] ∧ (u.pkg p).hostReps = (s.pkg p).hostReps ++ rep
    let waits := fun (o : Host.Outcome State Fault Refusal) (posted : Bool) => ∃ u a, o = .next u ∧ u.cores = s.cores ∧ u.mem = s.mem ∧
      (u.pkg p).hostAccs = [a] ∧ a.n = s.ids + 1 ∧ a.pa = pa ∧ a.posted = posted
    (w.getLsbD 0 = false → ends rd [.unsupported (s.ids + 1)] ∧ ends wr [.aer (s.ids + 1)]) ∧
    (w.getLsbD 0 = true → s.regionOf p pa = none → ends rd [.unsupported (s.ids + 1)] ∧ ends wr [.aer (s.ids + 1)]) ∧
    (∀ n g, w.getLsbD 0 = true → s.regionOf p pa = some (n, g) → s.rebinding p n = true → waits rd false ∧ waits wr false) ∧
    (∀ n g, w.getLsbD 0 = true → s.regionOf p pa = some (n, g) → s.rebinding p n = false →
      (tagReads (s.homeTag blk) = true →
        ends rd [.data (s.ids + 1) (memRead s.mem pa len) ((s.homeDesc blk).fmt == 0xFF)]) ∧
      (tagWrites (s.homeTag blk) = true → apart → ends wr []) ∧
      (tagWrites (s.homeTag blk) = true → apart → isHbm pa = true → memWf s.mem = true → ∃ u, wr = .next u ∧
        ∀ b, memGet u.mem b = (if pa ≤ b then data[b - pa]? else none).getD (memGet s.mem b)) ∧
      (tagReads (s.homeTag blk) = false → waits rd true) ∧ (tagWrites (s.homeTag blk) = false → waits wr true)) ∧
    ∀ (kind : SnoopKind) (line : Nat),
      (line ∉ (s.pkg p).cxl → exec (.hostSnoop p kind line) s =
        .next (s.modPkg p fun x => { x with hostReps := x.hostReps ++ [.snoop line false none] })) ∧
      (line ∈ (s.pkg p).cxl → ∃ u m, exec (.hostSnoop p kind line) s = .next u ∧ m.ty = 0x0C ∧ m.blk = line ∧
        m.party = .snoop p line ∧ m.g5 = Config.snoopCode (snoopIx kind) ∧ (u.far (postFarrier p (line * 64))).reqs = (s.far (postFarrier p (line * 64))).reqs ++ [m] ∧
        u.cores = s.cores ∧ u.mem = s.mem)

/-- R389, R394, R410, R421, R424: control-BAR writes wait for earlier window writes of their requester; an accepted feature word takes its first write,
masked by what is offered; a window takes a legal value only; PWRLIM and THR keep to their ranges (that a PWRLIM value with a bit above
[12:0] is out of range is the model's choice, log 77); the mailbox takes a command while it is idle; a vector's mask is bit 32 of the
second half of its entry, and a pending vector fires when it is unmasked (the table's layout is the family's, log 76). -/
def Clause.ControlBar : Prop :=
  ∀ (p : PkgId) (req : Nat) (w : Fin 4) (n : Fin 64) (val : W64) (s : State),
    let x := s.pkg p
    let writes := fun (off : Nat) (q : Pkg → Pkg → Prop) => ∃ u, exec (.barRegisterWrite ⟨p, req⟩ off val) s = .next u ∧ u.cores = s.cores ∧
      u.mem = s.mem ∧ q x (u.pkg p)
    let waits := s.barReady ⟨p, req⟩ = false
    let pa := (val.extractLsb' 30 28).toNat * 2 ^ 30
    let fits := val.extractLsb' 1 29 = 0 ∧ val.extractLsb' 58 6 = 0 ∧ (val.getLsbD 0 = true → homePkg pa = p ∧ isHbm pa = true)
    (waits → exec (.featureAcceptWrite ⟨p, req⟩ w val) s = .next s ∧ exec (.winWrite ⟨p, req⟩ n val) s = .next s ∧
      ∀ off, exec (.barRegisterWrite ⟨p, req⟩ off val) s = .next s) ∧
    (¬waits →
      (x.faccSet.getLsbD w.val = true → exec (.featureAcceptWrite ⟨p, req⟩ w val) s = .next s) ∧
      (x.faccSet.getLsbD w.val = false → ∃ u, exec (.featureAcceptWrite ⟨p, req⟩ w val) s = .next u ∧ u.cores = s.cores ∧ u.mem = s.mem ∧
        (u.pkg p).facc[w] = val &&& x.offered w.val ∧ (u.pkg p).faccSet.getLsbD w.val = true ∧
        ∀ v : Fin 4, v ≠ w → (u.pkg p).facc[v] = x.facc[v]) ∧
      (¬fits → exec (.winWrite ⟨p, req⟩ n val) s = .next s) ∧
      (fits → ∃ u, exec (.winWrite ⟨p, req⟩ n val) s = .next u ∧ u.cores = s.cores ∧ u.mem = s.mem ∧
        ∀ j, fmGet 0 (u.pkg p).wins j = if j = n.val then val else fmGet 0 x.wins j) ∧
      writes 0x6010 (fun a b => b = { a with pwrlim := if 1500 ≤ val.toNat ∧ val.toNat ≤ 5000 then val.setWidth 13 else a.pwrlim }) ∧
      (val.toNat < 2 ^ 32 → writes 0x6020 fun a b =>
        b = { a with thr := if val.toNat % 2 ^ 16 < val.toNat / 2 ^ 16 ∧ val.toNat / 2 ^ 16 < 0x7D0 then val.setWidth 32 else a.thr }) ∧
      (val.toNat < 256 → writes 0x80000 fun a b =>
        b = { a with mbCmd := if a.mbCmd = none ∧ 1 ≤ val.toNat ∧ val.toNat ≤ 4 then some (val.setWidth 8) else a.mbCmd }) ∧
      writes 0x80008 (fun a b => b = { a with mbLen := val.setWidth 32 }) ∧
      writes 0x80010 (fun a b => b = { a with mbArg := val.setWidth 8 }) ∧
      (∀ v : Fin 32, let bit := 1#32 <<< v.val
        (val.getLsbD 32 = true → writes (0x5008 + 16 * v.val) fun a b =>
          b = { a with msixTab := b.msixTab, msixMask := a.msixMask ||| bit }) ∧
        (val.getLsbD 32 = false → writes (0x5008 + 16 * v.val) fun a b =>
          b = { a with
            msixTab := b.msixTab, msixMask := a.msixMask &&& ~~~bit, msix := a.msix ||| (a.msixPend &&& bit),
            msixPend := a.msixPend &&& ~~~bit })) ∧
      writes 0x0000 (fun a b => b = a))

/-- R387, R389, R421, R424: what the host reads in the control BAR: the identity, the offered and the accepted words, a die's STATE, FAIL
and ACKS as its controller page shows them, the windows, PODM and PKGN, the carriers of a port that are up and those that went down,
the table of vectors and the pending ones, the boot, power and measurement registers and the mailbox; every other offset reads zero
(the layout of the table of vectors is the family's, log 76). -/
def Clause.BarReads : Prop :=
  ∀ (p : PkgId) (s : State),
    let x := s.pkg p
    let reads := s.barRead p
    let listed := fun (off : Nat) =>
      off ∈ [0x0, 0x3000, 0x3008, 0x5400, 0x6000, 0x6008, 0x6010, 0x6018, 0x6020, 0x80008, 0x80010, 0x80018] ∨
      (∃ r ∈ [(0x100, 4), (0x120, 4), (0x1000, 8), (0x2000, 64), (0x4000, 64), (0x5000, 64), (0x6100, 8), (0x6200, 8), (0x7000, 64)],
        ∃ n < r.2, off = r.1 + 8 * n) ∨ (0x81000 ≤ off ∧ off + 8 ≤ 0x100000)
    reads 0 = 0x00000C08020002B1 ∧ pciIdentity.cls = 0x120000 ∧ pciIdentity.revision = 0xB1 ∧
    (∀ w < 4, reads (0x100 + 8 * w) = (if x.bootst = 0 then x.offered w else 0) ∧ reads (0x120 + 8 * w) = x.facc[w]?.getD 0) ∧
    (∀ d < 8, reads (0x1000 + 8 * d) = BitVec.ofNat 64 (leNat (memRead s.mem (ctlBlk (p * 8 + d) * 64 + 8) 8))) ∧
    (∀ n < 64, reads (0x2000 + 8 * n) = fmGet 0 x.wins n) ∧ reads 0x3000 = x.podm ∧ reads 0x3008 = x.pkgn.setWidth 64 ∧
    (∀ port < 64, ∀ c < 32,
      ((reads (0x4000 + 8 * port)).getLsbD c = true ↔ (s.carrier p (32 * port + c)).st = .up) ∧
      (reads (0x4000 + 8 * port)).getLsbD (32 + c) = (s.carrier p (32 * port + c)).wentDown) ∧
    reads 0x5400 = x.msixPend.setWidth 64 ∧ reads 0x6000 = x.bootst.setWidth 64 ∧ reads 0x6008 = x.fsvn ∧
    reads 0x6010 = x.pwrlim.setWidth 64 ∧ reads 0x6020 = x.thr.setWidth 64 ∧
    (∀ d < 8, (reads 0x6018).extractLsb' (4 * d) 4 = BitVec.ofNat 4 (s.die (p * 8 + d)).freq.val ∧
      (reads (0x6100 + 8 * d)).extractLsb' 0 16 = (s.die (p * 8 + d)).temp ∧ reads (0x6200 + 8 * d) = (s.die (p * 8 + d)).assay) ∧
    (∀ v < 32, reads (0x5000 + 16 * v) = BitVec.ofNat 64 (leNat (memRead x.msixTab (16 * v) 8)) ∧
      (reads (0x5008 + 16 * v)).getLsbD 32 = x.msixMask.getLsbD v) ∧
    (∀ n : Fin 8, ∀ j < 8, reads (0x7000 + 64 * n.val + 8 * j) = x.meas[n].extractLsb' (64 * j) 64) ∧
    (∀ off, off + 8 ≤ 0x7F000 → reads (0x81000 + off) = BitVec.ofNat 64 (leNat (memRead x.mbBuf off 8))) ∧
    reads 0x80010 = x.mbArg.setWidth 64 ∧ reads 0x80008 = x.mbLen.setWidth 64 ∧ (reads 0x80018).getLsbD 0 = x.mbCmd.isSome ∧
    (reads 0x80018).extractLsb' 16 16 = x.mbReply ∧
    ∀ off, ¬listed off → reads off = 0

/-- R349, R350, R387, R389, R390, R393, R394, R410, R421, R424: what the host does to the device. -/
def Obligations.HostInterface : Prop := Clause.HostAccesses ∧ Clause.ControlBar ∧ Clause.BarReads

/-! ### The loader and the mailbox (R404-R422) -/

/-- An MSI-X vector fires, or becomes pending while it is masked (R387). -/
def fires (n : Nat) (a b : Pkg) : Prop := if a.msixMask.getLsbD n then b.msixPend.getLsbD n = true else b.msix.getLsbD n = true

/-- The bytes that a signed handler set takes in handler memory. -/
def setSize (img : List Byte) : Nat := (setPlaces (parseObj (Config.imageObject img)) 0).2

/-- R404, R407-R409, R411, R418-R422: each mailbox command ends with BUSY clear, its reply set and vector 0 fired; firmware and handler
sets pass the key, the signature and (firmware) the rollback check; a handler set for which there is room reaches every farrier and
measurement register 3; an object passes the gates of R407, a supervisor object only by the groom. Where sections, tables and sets go, and how
the groom's own submission comes, are the model's choices (logs 13, 105). -/
def Clause.Mailbox : Prop :=
  ∀ (p : PkgId) (s : State),
    let x := s.pkg p
    let img := x.mail
    let ends := fun (i : Instr) (reply : Nat) (q : State → Prop) => ∃ u, exec i s = .next u ∧ (u.pkg p).mbCmd = none ∧
      (u.pkg p).mbReply = BitVec.ofNat 16 reply ∧ fires 0 x (u.pkg p) ∧ (∀ k c, u.ctx k c = s.ctx k c) ∧ q u
    let key := Config.sha512 (Config.imageKey img) = Config.fusedKey
    let good := key ∧ Config.verify img = true
    (x.mbCmd ≠ some 0x01 → exec (.uploadFirmware p) s = .next s) ∧ (x.mbCmd ≠ some 0x02 → exec (.loadHandlerSet p) s = .next s) ∧
    (x.mbCmd ≠ some 0x03 → exec (.submitCodeObject ⟨p, none⟩) s = .next s) ∧ (x.mbCmd ≠ some 0x04 → exec (.attest p) s = .next s) ∧
    (x.mbCmd = some 0x01 →
      (¬key → ends (.uploadFirmware p) 0x02 fun u => (u.pkg p).flash = x.flash) ∧
      (key → Config.verify img = false → ends (.uploadFirmware p) 0x03 fun u => (u.pkg p).flash = x.flash) ∧
      (good → Config.imageSvn img < x.fsvn.toNat → ends (.uploadFirmware p) 0x04 fun u => (u.pkg p).flash = x.flash) ∧
      (good → x.fsvn.toNat ≤ Config.imageSvn img →
        ends (.uploadFirmware p) 0x00 fun u => (u.pkg p).flash = { x.flash with pending := some img } ∧ u.mem = s.mem)) ∧
    (x.mbCmd = some 0x02 →
      (¬key → ends (.loadHandlerSet p) 0x02 fun u => u.mem = s.mem) ∧
      (key → Config.verify img = false → ends (.loadHandlerSet p) 0x03 fun u => u.mem = s.mem) ∧
      (good → 8 ≤ x.mbArg.toNat → p < 64 → (s.far p).room x.mbArg.toNat (setSize img) ≠ [] → ends (.loadHandlerSet p) 0x00 fun u =>
        (u.pkg p).meas[(3 : Fin 8)] = Config.sha512 (leBytes 64 x.meas[(3 : Fin 8)].toNat ++ leBytes 64 (Config.sha512 img).toNat) ∧
        ∀ n < 85, ∃ m, (u.far (p + 64 * n)).reqs = (s.far (p + 64 * n)).reqs ++ [m] ∧ m.ty = 0x38 ∧ m.region = x.mbArg.toNat ∧
          let set := fmGet {} (u.far (p + 64 * n)).sets x.mbArg.toNat
          set.inittag = BitVec.ofNat 2 ((Config.imageTag img).getD 0) ∧ set.start ∈ (s.far p).room x.mbArg.toNat (setSize img))) ∧
    (x.mbCmd = some 0x04 →
      (x.mbLen = 0 → ends (.attest p) 0x00 fun u => (u.pkg p).mbBuf = memWrite x.mbBuf 0 (Config.deviceCert.map some)) ∧
      (x.mbLen ≠ 0 → ends (.attest p) 0x00 fun u => (u.pkg p).mbBuf = memWrite x.mbBuf 0
        ((let body := memRead x.mbBuf 0 64 ++ (x.meas.toList.flatMap fun m => leBytes 64 m.toNat) ++ leBytes 8 0x00000C08020002B1 ++
            leBytes 8 x.fsvn.toNat
          body ++ (Config.sign body).take 132).map some))) ∧
    -- objects: the gates, in order, and the load of one that asks for no region (its sections' places are the loader's)
    (let o := parseObj img
      let ends := fun (reply : Nat) (q : State → Prop) => x.mbCmd = some 0x03 → ends (.submitCodeObject ⟨p, none⟩) reply q
      let fails := fun (reply : Nat) => ends reply fun u => u.mem = s.mem ∧ (u.pkg p).ranges = x.ranges
      let key := s.imageKey p (img.take (le img 0x58 4))
      let plain := wellFormedObj img o = true ∧ o.sup = false ∧ o.mmrev = 2
      let afresh := plain ∧ needsMet x.facc o = true ∧ ∀ m ∈ x.flash.images, m.key ≠ key
      (wellFormedObj img o = false → fails 0x01) ∧ (wellFormedObj img o = true → o.sup = true → fails 0x01) ∧
      (wellFormedObj img o = true → o.sup = false → o.mmrev ≠ 2 → ¬(o.mmrev = 1 ∧ x.facc[0].getLsbD 8 = true) → fails 0x03) ∧
      (plain → needsMet x.facc o = false → fails 0x04) ∧ (afresh → selectSects o = none → fails 0x02) ∧
      ∀ kept, afresh → selectSects o = some kept →
        (handlersOk o kept = false → fails 0x05) ∧
        (handlersOk o kept = true → o.regs ≠ [] → (∀ n < 4096, (s.region p n).v = true) → fails 0x07) ∧
        (handlersOk o kept = true → o.regs = [] → o.launches = [] → (∀ e ∈ s.cores, e.2.memb.getLsbD 4 = false) →
          let u0 := { s.modPkg p fun y => { y with flash := y.flash.recorded } with fresh := s.fresh + 8192 }
          let plan := placeSects o kept (s.usedVirtual p) (s.fresh + 8192)
          let bound := fun (e : Nat × List (Nat × Nat)) => o.bound (img.take (le img 0x58 4)) kept e.1 e.2 []
          (∀ e b, plan = some e → bound e = some b → u0.finishLoad p [] [(p, key, b, false)] = none → fails 0x08) ∧
          (∀ e, plan = some e → bound e = none → fails 0x06) ∧
          (∀ e b, plan = some e → bound e = some b → x.ranges = [] → (u0.finishLoad p [] [(p, key, b, false)]).isSome = true →
            ends 0x00 fun u => (u.pkg p).ranges = [⟨e.1, b.lsz, false, key⟩]))) ∧
    -- the groom's own submission: never beside the boot, and the mailbox is another's
    (∀ own, x.bootst ≠ 0 → exec (.submitCodeObject ⟨p, some own⟩) s = .next s) ∧
    (∀ (a n : Nat) (bs : List Byte), x.bootst = 0 → bs = s.view a n → wellFormedObj bs (parseObj bs) = false →
      ∃ u, exec (.submitCodeObject ⟨p, some (a, n)⟩) s = .next u ∧ u.mem = s.mem ∧ u.cores = s.cores ∧
        (u.pkg p).mbCmd = x.mbCmd ∧ (u.pkg p).mbReply = x.mbReply ∧ (u.pkg p).msix = x.msix)

/-- R419, R420: a request to load a handler set from memory is accepted, and the loader's notice 0xF21 carries its status. -/
def Clause.ImageLoads : Prop :=
  ∀ (p : PkgId) (n : Nat) (r : RSlot) (s : State), s.fab = [] → p < 64 →
    let src := p * 2 ^ 16 + n / 8 % 2 ^ 16
    let g := fun (i : Nat) => (r.msg.payload.getD i 0).toNat
    let img := memRead s.mem (g 0) (g 1)
    let key := Config.sha512 (Config.imageKey img) = Config.fusedKey
    let told := fun (st : Byte) => ∃ u, exec (.imageLoadRequest p n) s = .next u ∧ u.mem = s.mem ∧
      u.slot ⟨src, n % 8⟩ = some { r with st := .accepted } ∧ (∀ k c, (u.ctx k c).hart = (s.ctx k c).hart) ∧
      ∃ j q, (j, q) ∈ (u.pkg p).notices ∧ q.msg.ty = 0xF21 ∧ q.msg.target = src ∧ q.msg.payload = [st.setWidth 64]
    s.slot ⟨src, n % 8⟩ = some r → r.st = .sent →
    (r.msg.ty ≠ 0xF20 → exec (.imageLoadRequest p n) s = .next s) ∧
    (r.msg.ty = 0xF20 → (¬key → told 0x02) ∧ (key → Config.verify img = false → told 0x03) ∧
      (key → Config.verify img = true → 8 ≤ g 2 → g 2 ≤ 255 → (s.far p).room (g 2) (setSize img) ≠ [] → told 0x00))

/-- R404, R407-R409, R411, R414, R418-R422, R442: the mailbox commands and the loader's answer to the groom. -/
def Obligations.LoaderCommands : Prop := Clause.Mailbox ∧ Clause.ImageLoads

/-! ### Reset, power and platform events (R414, R418, R423-R426) -/

/-- R33, R379, R387, R389, R397, R414, R418-R421, R423, R424: a device or function-level reset and a loss of power leave every core of the
package at its reset value and its controller pages zero, ASSAY with them; boot takes the firmware that flash holds, an upload before it
(in recovery the mailbox's), and stops with its code at the first check that fails; with BOOTST 0 it has measured the firmware, each of its six handler sets
and the groom, placed them, raised the fuse and planned the carriers, each its package's (p + 1 + i mod 63) mod 64; those of other packages toward it
are down. A configuration that names no servers has eight on each die, at y 0 and every sixteenth x; a trip at 125 degrees leaves BOOTST 0x07
and the host die as it was. Other packages' cores keep their registers. The model's choices: no other byte of a controller page holds
anything (log 82), what HBM4 holds after a reset and what a trip keeps (logs 37, 55, 106), and when the fuse rises (logs 50, 104). -/
def Obligations.Resets : Prop :=
  ∀ (p : PkgId) (cfg : BootCfg) (temp : Int) (s : State),
    let x := s.pkg p
    let recovery := 1 ≤ x.bootst.toNat ∧ x.bootst.toNat ≤ 6
    let still := fun (u : State) => (u.pkg p).regions = [] ∧
      (∀ k, pkgOf k ≠ p → ∀ c, (u.ctx k c).hart = (s.ctx k c).hart) ∧
      (memWf s.mem = true → ∀ a, homePkg a = p → isHbm a = true → ctlBlk (homeDie a) * 64 ≤ a → a < ctlBlk (homeDie a) * 64 + 4096 →
        memGet u.mem a = 0) ∧
      ∀ q, q ≠ p → ∀ i, (s.carrier q i).dpkg = p → (u.carrier q i).st = .down
    let cleared := fun (u : State) => still u ∧ (u.pkg p).wins = [] ∧
      ∀ d, d / 8 = p → (u.die d).assay = 0 ∧ (u.die d).assayRec = (s.die d).assayRec ∧ (u.die d).cut = (s.die d).cut
    let bare := fun (u : State) => (∀ k, pkgOf k = p → u.core k = {}) ∧ (u.pkg p).far = []
    let boots := fun (st : Byte) (q : State → Pkg → Prop) => ∀ i ∈ [Instr.deviceReset p cfg, .functionLevelReset p cfg],
      ∃ u, exec i s = .next u ∧ cleared u ∧ (u.pkg p).bootst = st ∧ q u (u.pkg p)
    let extended := fun (old : BitVec 512) (img : List Byte) =>
      Config.sha512 (leBytes 64 old.toNat ++ leBytes 64 (Config.sha512 img).toNat)
    let passes := fun (img : List Byte) => Config.sha512 (Config.imageKey img) = Config.fusedKey ∧ Config.verify img = true
    ∀ img, img = (if recovery then x.mail else x.flash.pending.getD x.flash.firmware) →
    let runs := img ≠ [] ∧ passes img ∧ x.fsvn.toNat ≤ Config.imageSvn img
    let fused := fun (y : Pkg) => y.meas[(0 : Fin 8)] = extended 0 img ∧
      (Config.imageSvn img < 2 ^ 64 → y.fsvn.toNat = if recovery then x.fsvn.toNat else Config.imageSvn img)
    let unfit := fun (u : State) (y : Pkg) => bare u ∧ y.fsvn = x.fsvn ∧ y.meas[(0 : Fin 8)] = 0
    (img = [] → boots 0x01 unfit) ∧
    (img ≠ [] → Config.sha512 (Config.imageKey img) ≠ Config.fusedKey → boots 0x02 unfit) ∧
    (img ≠ [] → Config.sha512 (Config.imageKey img) = Config.fusedKey → Config.verify img = false → boots 0x03 unfit) ∧
    (img ≠ [] → passes img → Config.imageSvn img < x.fsvn.toNat → boots 0x04 unfit) ∧
    (runs → cfg.trainOk = false → boots 0x05 fun u y => bare u ∧ fused y) ∧
    (runs → cfg.trainOk = true → (∃ n : Fin 6, ¬passes cfg.imgSets[n]) ∨ ¬passes cfg.imgGroom → boots 0x06 fun u y =>
      (∀ k, pkgOf k = p → u.core k = {}) ∧ fused y) ∧
    (runs → cfg.trainOk = true → (∀ n : Fin 6, passes cfg.imgSets[n] ∧ setSize cfg.imgSets[n] ≤ 4096) → passes cfg.imgGroom → p < 64 →
      boots 0x00 fun u y => fused y ∧ y.podm = cfg.podm ∧ y.servers = cfg.servers.getD defaultServers ∧
        y.meas[(1 : Fin 8)] = extended 0 cfg.imgGroom ∧ y.meas[(2 : Fin 8)] = cfg.imgSets.toList.foldl extended 0 ∧
        y.flash.pending = none ∧ y.flash.firmware = x.flash.pending.getD x.flash.firmware ∧
        (∀ i < 2048, let q := (p + 1 + i % 63) % 64
          u.carrier p i = if cfg.podm.getLsbD q = true then { plan := BitVec.ofNat 8 (q + 64), retune := true } else {}) ∧
        (∀ k, pkgOf k = p → u.core k = { loc := (u.core k).loc }) ∧
        (∀ yx ∈ y.servers, yx < 2 ^ 16 → ∀ a < (Config.groomLocal cfg.imgGroom yx).length, a < 0x20000 →
          (Config.groomLocal cfg.imgGroom yx)[a]? = some (memGet (u.core (p * 2 ^ 16 + yx)).loc a)) ∧
        ∀ n < 85, ∀ h < 6, ∃ m ∈ (u.far (p + 64 * n)).reqs, m.ty = 0x38 ∧ m.region = h) ∧
    (∃ u, exec (.powerLoss p) s = .next u ∧ cleared u ∧ bare u ∧ (u.pkg p).flash = x.flash ∧ (u.pkg p).fsvn = x.fsvn ∧
      (u.pkg p).bootst = 0xFF) ∧
    (2000 ≤ temp → ∃ u, exec (.thermalTrip p temp) s = .next u ∧ still u ∧ bare u ∧ (u.pkg p).bootst = 0x07 ∧ (u.pkg p).facc = x.facc ∧
      (u.pkg p).wins = x.wins ∧ (u.pkg p).mbBuf = x.mbBuf ∧ (u.pkg p).msixMask = x.msixMask ∧ (u.pkg p).meas = x.meas ∧
      (∀ d, d / 8 = p → (u.die d).temp = (s.die d).temp ∧ (u.die d).assay = (s.die d).assay) ∧
      (memWf s.mem = true → ∀ a, ¬(homePkg a = p ∧ isHbm a = true ∧ ctlBlk (homeDie a) * 64 ≤ a ∧ a < ctlBlk (homeDie a) * 64 + 4096) →
        memGet u.mem a = memGet s.mem a)) ∧
    (temp < 2000 → exec (.thermalTrip p temp) s = .next s) ∧
    ∀ d < 8, ∀ row < 64, ∀ col < 128, (d / 2 * 64 + row) * 256 + d % 2 * 128 + col ∈ defaultServers ↔ row = 0 ∧ col % 16 = 0

/-- R423-R426: above PWRLIM or WARN a die takes its next slower operating point that the assay has left, within both its next faster
one; TEMP follows, and an upward crossing fires its vector; a platform event sets its vector and stays pending for its die's server;
an assay counts its runs, records margins and removes points. -/
def Obligations.PlatformEvents : Prop :=
  ∀ (d : DieId) (power : Nat) (temp : Int) (s : State), -32768 ≤ temp → temp < 32768 →
    let x := s.pkg (d / 8)
    let y := s.die d
    let hot := x.pwrlim.toNat < power ∨ x.warn < temp
    let stands := fun (i : Instr) (point : Fin 5) => ∃ u, exec i s = .next u ∧ Still s u ∧ (u.die d).freq = point ∧
      (u.die d).temp.toInt = temp ∧ (y.temp.toInt ≤ x.warn → x.warn < temp → fires 1 x (u.pkg (d / 8))) ∧
      (y.temp.toInt ≤ x.pre → x.pre < temp → fires 2 x (u.pkg (d / 8)))
    (hot → ∀ n : Fin 5, y.freq < n → n ∉ y.cut → (∀ m, y.freq < m → m < n → m ∈ y.cut) → stands (.frequencyStepDown d power temp) n) ∧
    (hot → (∀ m, y.freq < m → m ∈ y.cut) → stands (.frequencyStepDown d power temp) y.freq) ∧
    (hot → stands (.frequencyStepUp d power temp) y.freq) ∧ (¬hot → stands (.frequencyStepDown d power temp) y.freq) ∧
    (¬hot → ∀ n : Fin 5, n < y.freq → n ∉ y.cut → (∀ m, n < m → m < y.freq → m ∈ y.cut) → stands (.frequencyStepUp d power temp) n) ∧
    (∀ (p : PkgId) (die : Fin 8) (n : BitVec 5), (4 < n.toNat → exec (.platformEvent p die n) s = .next s) ∧
      (n.toNat ≤ 4 → Quietly s (.platformEvent p die n) fun u => fires n.toNat (s.pkg p) (u.pkg p) ∧
        (∀ m < 32, m ≠ n.toNat → (u.pkg p).msix.getLsbD m = (s.pkg p).msix.getLsbD m) ∧
        (n ≠ 0 → (die.val, n) ∈ (u.pkg p).irqs) ∧ (n = 0 → (u.pkg p).irqs = (s.pkg p).irqs))) ∧
    ∀ (margins : List Byte) (removed : List (Fin 5)), Quietly s (.assayRun d margins removed) fun u =>
      (∀ n, n ∈ (u.die d).cut ↔ n ∈ y.cut ∨ n ∈ removed) ∧
      (u.die d).assay.toNat % 2 ^ 16 = (y.assayRec.toNat % 2 ^ 16 + 1) % 2 ^ 16 ∧ (u.die d).assayRec = (u.die d).assay ∧
      (∀ n : Fin 5, (u.die d).assay.extractLsb' (16 + 8 * n.val) 8 = if n ∈ (u.die d).cut then 0 else margins.getD n.val 0) ∧
      fires 4 x (u.pkg (d / 8))

/-! ### The fabric (R395-R402) -/

/-- R227, R300, R360, R397-R401: a carrier retuned trains, behind every carrier in training, and comes up when its receiver
locks and the reverse direction stands, not while eight carriers hold the receive fibre or began to train before it (how
receivers are granted in that order is the model's reading, log 85); a
frame received whole delivers its packet and moves both ends' sequence numbers on, a damaged one is answered with NAK and sent again
with every frame behind it; a copy is known by its number (log 97);
after eight NAKs the carrier goes down and its die's server gets notice 0xF13; an interval whose count is right is confirmed, and one whose
count is wrong is counted on die 0 of its receiver, the model's choice (log 48). -/
def Obligations.FabricEvents : Prop :=
  ∀ (p q : PkgId) (i : Nat) (s : State),
    let c := s.carrier p i
    let set := fun (c : Carrier) => s.modPkg p fun x => { x with carriers := fmSet x.carriers i c }
    (c.st = .down → c.en = true → c.retune = true →
      Quietly s (.carrierRetuneComplete p i) fun u => u.fab = s.fab ∧ ∃ n, (∀ m j, (s.carrier m j).since ≤ s.ids → (s.carrier m j).since < n) ∧
        ∀ m j, u.carrier m j = if m = p ∧ j = i then { c with st := .training, retune := false, since := n } else s.carrier m j) ∧
    (¬(c.st = .down ∧ c.en = true ∧ c.retune = true) → exec (.carrierRetuneComplete p i) s = .next s) ∧
    (c.dpkg = q → s.canLock p i = true → s.upTo q p ≠ [] →
      exec (.carrierUp p i) s = .next (set { c with st := .up, naks := 0, nak := false })) ∧
    (s.canLock p i = false → exec (.carrierUp p i) s = .next s) ∧
    (8 ≤ s.receivers c.dpkg (i / 8) + s.trainees c.dpkg (i / 8) c.since → exec (.carrierUp p i) s = .next s) ∧
    (c.st ≠ .up → exec (.fabricFrame p i true) s = .next s) ∧
    -- a new packet takes its flow's next number and a place in the replay buffer; received whole and in order it is delivered
    (∀ x : FabPkt, c.st = .up → c.nak = false → c.buf = [] → s.nextPkt p i = some x → x.seq = none →
      let n := (s.flowOf x).tx + 1
      let x' := { x with carrier := some i, seq := some n }
      Quietly s (.fabricFrame p i false) (fun u => u.fab = s.fab.replace x x' ∧ (u.flowOf x').carrier = some i ∧ (u.flowOf x').tx = n ∧
        (u.flowOf x').rx = (s.flowOf x).rx ∧ (u.carrier p i).nak = true ∧ (u.carrier p i).buf = [x'] ∧
        (u.carrier p i).txSeq = c.txSeq + 1 ∧ (u.carrier p i).rxSeq = c.rxSeq) ∧
      ((s.flowOf x).tx = (s.flowOf x).rx → (∀ iv, x.body ≠ .close iv) → Quietly s (.fabricFrame p i true) fun u =>
        u.fab.length + 1 = s.fab.length ∧ (∀ y ∈ s.fab, y.uid ≠ x.uid → y ∈ u.fab) ∧ (u.flowOf x').carrier = some i ∧
        (u.flowOf x').tx = n ∧ (u.flowOf x').rx = n ∧ (u.carrier p i).nak = false ∧ (u.carrier p i).buf = [] ∧
        (u.carrier p i).txSeq = c.txSeq + 1 ∧ (u.carrier p i).rxSeq = c.rxSeq + 1 ∧ (u.carrier p i).naks = 0 ∧
        (∀ iv, x.body = .wb iv → ((fmGet {} (u.pkg x.dst).ivs p).rcvd.lookup iv).getD 0 =
          ((fmGet {} (s.pkg x.dst).ivs p).rcvd.lookup iv).getD 0 + 1) ∧
        (∀ k d, x.body = .ack k d → (u.ctx k d).pend = (s.ctx k d).pend.erase x.uid) ∧
        ∀ k e, x.body = .refuse k e → (u.core k).rfaults = (s.core k).rfaults ++ [e])) ∧
    -- the first frame of the buffer is sent again; a copy of what has been delivered is discarded
    (∀ (x : FabPkt) (bs : List FabPkt), c.st = .up → c.nak = false → c.buf = x :: bs →
      exec (.fabricFrame p i false) s = .next (set { c with nak := true }) ∧
      (x.src = p → x ∈ s.fab → (s.flowOf x).follows (x.seq.getD 0) = false → Quietly s (.fabricFrame p i true) fun u => u.fab = s.fab.erase x ∧
        (∀ k d, u.ctx k d = s.ctx k d) ∧ (∀ f, (u.far f).reqs = (s.far f).reqs) ∧ (∀ m, (u.pkg m).ivs = (s.pkg m).ivs) ∧
        (u.carrier p i).buf = bs ∧ (u.carrier p i).txSeq = c.txSeq ∧ (u.carrier p i).rxSeq = c.rxSeq + 1)) ∧
    -- behind a damaged frame the next ones only join the buffer, of 128
    (∀ x : FabPkt, c.st = .up → c.nak = true → c.buf.length < 128 → s.nextPkt p i = some x → ∀ ok, Quietly s (.fabricFrame p i ok) fun u =>
      u.fab.length = s.fab.length ∧ (u.carrier p i).nak = true ∧ (u.carrier p i).txSeq = c.txSeq + 1 ∧ (u.carrier p i).rxSeq = c.rxSeq ∧
      ∃ y, y.uid = x.uid ∧ y.body = x.body ∧ (u.carrier p i).buf = c.buf ++ [y]) ∧
    (∀ ok, c.st = .up → c.nak = true → 128 ≤ c.buf.length → exec (.fabricFrame p i ok) s = .next s) ∧
    (∀ ok, c.st = .up → c.nak = false → c.buf = [] → s.nextPkt p i = none → exec (.fabricFrame p i ok) s = .next s) ∧
    (∀ x, s.nextPkt p i = some x → x.reply = false → ∀ y ∈ s.fab, y.src = p → s.carrierFor y = some i → y ∉ c.buf → y.reply = false) ∧
    (c.nak = true → exec (.frameNak p i) s = .next (set { c with nak := false, naks := c.naks + 1 })) ∧
    (c.nak = false → exec (.frameNak p i) s = .next s) ∧
    (c.st = .up → 8 ≤ c.naks → Quietly s (.carrierDown p i) fun u => (u.carrier p i).st = .down ∧ (u.carrier p i).wentDown = true ∧
      (u.carrier p i).retune = c.en ∧ (∀ y ∈ u.fab, y.src = p → y.carrier ≠ some i) ∧
      ∃ j r, (j, r) ∈ (u.pkg p).notices ∧ r.msg.ty = 0xF13 ∧ r.msg.target = dieServer (p * 8 + i / 32 / 8) ∧
        r.msg.payload = [BitVec.ofNat 64 (i / 32), BitVec.ofNat 64 (i % 32), BitVec.ofNat 64 c.dpkg]) ∧
    (¬(c.st = .up ∧ 8 ≤ c.naks) → exec (.carrierDown p i) s = .next s) ∧
    ∀ (iv n : BitVec 32), (fmGet {} (s.pkg p).ivs q).closed.lookup iv = some n → p ≠ q → s.ivMoving p q iv = false →
      (((fmGet {} (s.pkg q).ivs p).rcvd.lookup iv).getD 0 = n →
        (∀ e ∈ s.cores, e.2.rels = []) → Quietly s (.fabricIntervalConfirm p q iv) fun u =>
          ∀ m, (iv, m) ∉ (fmGet {} (u.pkg p).ivs q).closed) ∧
      (((fmGet {} (s.pkg q).ivs p).rcvd.lookup iv).getD 0 ≠ n → Quietly s (.fabricIntervalConfirm p q iv) fun u =>
        (u.die (q * 8)).mon[(4 : Fin 10)] = (s.die (q * 8)).mon[(4 : Fin 10)] + 1 ∧
        ∀ k r, pkgOf k = p → s.cores.lookup k = some (s.core k) → (s.core k).rels = [r] → (q, iv) ∈ r.ivs → r.failed = false →
          ∃ e ∈ (u.core k).rfaults, e.ctx = r.ctx ∧ e.cause = 0x0D ∧ e.at' = some r.pc ∧ e.eaddr = BitVec.ofNat 64 (iv.toNat + q * 2 ^ 32))

/-! ### An invariant of every step -/

/-- R2 (the model's canonical form of memory): every step keeps the global memory a list of rising addresses without an empty byte, so
that equal memories are equal data. -/
def Obligations.MemoryForm : Prop :=
  ∀ s t : State, memWf s.mem = true → step s = .next t → memWf t.mem = true
end

