-- ==== Sys2Proof/Laws/State.lean ====
section
/-! SUPPORT. Laws/State.lean: what each update of the state leaves of each field, and the maps and vectors they rest on. -/

namespace Sys2Proof.Machine
set_option Elab.async false

/-! ### Maps with a default -/

@[simp] theorem fmGet_fmSet_same {α : Type} (d : α) (m : FMap α) (n : Nat) (x : α) : fmGet d (fmSet m n x) n = x := by
  induction m with
  | nil => simp [fmSet, fmGet]
  | cons e t ih =>
    obtain ⟨k, y⟩ := e
    simp only [fmSet]
    split
    · simp [fmGet]
    · split
      · simp [fmGet]
      · rename_i h
        have : (n == k) = false := by simpa using h
        simpa [fmGet, List.lookup_cons, this] using ih

theorem fmGet_fmSet_ne {α : Type} (d : α) (m : FMap α) {n j : Nat} (x : α) (h : j ≠ n) :
    fmGet d (fmSet m n x) j = fmGet d m j := by
  have hn : (j == n) = false := by simpa using h
  induction m with
  | nil => simp [fmSet, fmGet, List.lookup_cons, hn]
  | cons e t ih =>
    obtain ⟨k, y⟩ := e
    simp only [fmSet]
    split
    · simp [fmGet, List.lookup_cons, hn]
    · split
      · rename_i h2; subst h2; simp [fmGet, List.lookup_cons, hn]
      · simp only [fmGet, List.lookup_cons]
        cases hk : (j == k) <;> simp_all [fmGet]

/-! ### Cores and contexts -/

@[simp] theorem core_setCore_same (s : State) (k : CoreId) (c : Core) : (s.setCore k c).core k = c := by
  simp [State.core, State.setCore]
@[simp] theorem core_modCore_same (s : State) (k : CoreId) (f : Core → Core) : (s.modCore k f).core k = f (s.core k) := by
  simp [State.modCore]
theorem core_modCore_ne (s : State) {k j : CoreId} (f : Core → Core) (h : j ≠ k) : (s.modCore k f).core j = s.core j := by
  simp [State.modCore, State.core, State.setCore, fmGet_fmSet_ne _ _ _ h]
theorem core_modCtx_ne (s : State) {k j : CoreId} (c : Fin 8) (f : Ctx → Ctx) (h : j ≠ k) :
    (s.modCtx k c f).core j = s.core j := core_modCore_ne s _ h
@[simp] theorem core_modCtx_same (s : State) (k : CoreId) (c : Fin 8) (f : Ctx → Ctx) :
    (s.modCtx k c f).core k = (s.core k).modCtx c f := by simp [State.modCtx]
@[simp] theorem ctxs_modCtx_same (co : Core) (c : Fin 8) (f : Ctx → Ctx) : (co.modCtx c f).ctxs[c] = f co.ctxs[c] := by
  simp [Core.modCtx]
theorem ctxs_modCtx_ne (co : Core) {c d : Fin 8} (f : Ctx → Ctx) (h : d ≠ c) : (co.modCtx c f).ctxs[d] = co.ctxs[d] := by
  have : c.val ≠ d.val := fun e => h (Fin.ext e.symm)
  simp [Core.modCtx, this]
@[simp] theorem ctx_modCtx_same (s : State) (k : CoreId) (c : Fin 8) (f : Ctx → Ctx) :
    (s.modCtx k c f).ctx k c = f (s.ctx k c) := by
  simp only [State.ctx, core_modCtx_same, ctxs_modCtx_same]
theorem ctx_modCtx_ne (s : State) (k : CoreId) {c d : Fin 8} (f : Ctx → Ctx) (h : d ≠ c) :
    (s.modCtx k c f).ctx k d = s.ctx k d := by
  simp only [State.ctx, core_modCtx_same, ctxs_modCtx_ne _ _ h]
/-- A core update that leaves the contexts. -/
theorem ctx_modCore (s : State) (k : CoreId) (c : Fin 8) (f : Core → Core) (h : (f (s.core k)).ctxs = (s.core k).ctxs) :
    (s.modCore k f).ctx k c = s.ctx k c := by
  simp only [State.ctx, core_modCore_same, h]
theorem setCore_setCore (s : State) (k : CoreId) (a b : Core) : ((s.setCore k a).setCore k b).core k = b := by simp

/-! ### Dies, packages, farriers, threads -/

@[simp] theorem die_modDie_same (s : State) (d : DieId) (f : Die → Die) : (s.modDie d f).die d = f (s.die d) := by
  simp [State.die, State.modDie]
theorem die_modDie_ne (s : State) {d e : DieId} (f : Die → Die) (h : e ≠ d) : (s.modDie d f).die e = s.die e := by
  simp [State.die, State.modDie, fmGet_fmSet_ne _ _ _ h]
@[simp] theorem pkg_modPkg_same (s : State) (p : PkgId) (f : Pkg → Pkg) : (s.modPkg p f).pkg p = f (s.pkg p) := by
  simp [State.pkg, State.modPkg]
theorem pkg_modPkg_ne (s : State) {p q : PkgId} (f : Pkg → Pkg) (h : q ≠ p) : (s.modPkg p f).pkg q = s.pkg q := by
  simp [State.pkg, State.modPkg, fmGet_fmSet_ne _ _ _ h]
@[simp] theorem far_modFar_same (s : State) (f : FarId) (g : Farrier → Farrier) : (s.modFar f g).far f = g (s.far f) := by
  simp [State.far, State.modFar]
theorem far_modFar_ne (s : State) {f q : FarId} (g : Farrier → Farrier) (h : q ≠ f) : (s.modFar f g).far q = s.far q := by
  by_cases hp : q % 64 = f % 64
  · have hd : q / 64 ≠ f / 64 := fun e => h (by rw [← Nat.div_add_mod q 64, ← Nat.div_add_mod f 64, hp, e])
    simp [State.far, State.modFar, hp, fmGet_fmSet_ne _ _ _ hd]
  · simp [State.far, State.modFar, pkg_modPkg_ne _ _ hp]
@[simp] theorem thread_modThread_same (s : State) (f : FarId) (t : Fin 16) (g : Thread → Thread) :
    (s.modThread f t g).thread f t = g (s.thread f t) := by
  simp [State.thread, State.modThread]
theorem thread_modThread_ne (s : State) (f : FarId) {t q : Fin 16} (g : Thread → Thread) (h : q ≠ t) :
    (s.modThread f t g).thread f q = s.thread f q := by
  have : t.val ≠ q.val := fun e => h (Fin.ext e.symm)
  simp [State.thread, State.modThread, this]

/-! ### One field, one update -/

@[simp] theorem setCore_dies (s : State) (k : CoreId) (c : Core) : (s.setCore k c).dies = s.dies := rfl
@[simp] theorem setCore_pkgs (s : State) (k : CoreId) (c : Core) : (s.setCore k c).pkgs = s.pkgs := rfl
@[simp] theorem setCore_mem (s : State) (k : CoreId) (c : Core) : (s.setCore k c).mem = s.mem := rfl
@[simp] theorem setCore_side (s : State) (k : CoreId) (c : Core) : (s.setCore k c).side = s.side := rfl
@[simp] theorem setCore_fab (s : State) (k : CoreId) (c : Core) : (s.setCore k c).fab = s.fab := rfl
@[simp] theorem setCore_vq (s : State) (k : CoreId) (c : Core) : (s.setCore k c).vq = s.vq := rfl
@[simp] theorem setCore_rets (s : State) (k : CoreId) (c : Core) : (s.setCore k c).rets = s.rets := rfl
@[simp] theorem setCore_recs (s : State) (k : CoreId) (c : Core) : (s.setCore k c).recs = s.recs := rfl
@[simp] theorem setCore_cur (s : State) (k : CoreId) (c : Core) : (s.setCore k c).cur = s.cur := rfl
@[simp] theorem setCore_agenda (s : State) (k : CoreId) (c : Core) : (s.setCore k c).agenda = s.agenda := rfl
@[simp] theorem setCore_lag (s : State) (k : CoreId) (c : Core) : (s.setCore k c).lag = s.lag := rfl
@[simp] theorem setCore_issued (s : State) (k : CoreId) (c : Core) : (s.setCore k c).issued = s.issued := rfl
@[simp] theorem setCore_went (s : State) (k : CoreId) (c : Core) : (s.setCore k c).went = s.went := rfl
@[simp] theorem setCore_fresh (s : State) (k : CoreId) (c : Core) : (s.setCore k c).fresh = s.fresh := rfl
@[simp] theorem setCore_ids (s : State) (k : CoreId) (c : Core) : (s.setCore k c).ids = s.ids := rfl
@[simp] theorem modCore_dies (s : State) (k : CoreId) (f : Core → Core) : (s.modCore k f).dies = s.dies := rfl
@[simp] theorem modCore_pkgs (s : State) (k : CoreId) (f : Core → Core) : (s.modCore k f).pkgs = s.pkgs := rfl
@[simp] theorem modCore_mem (s : State) (k : CoreId) (f : Core → Core) : (s.modCore k f).mem = s.mem := rfl
@[simp] theorem modCore_side (s : State) (k : CoreId) (f : Core → Core) : (s.modCore k f).side = s.side := rfl
@[simp] theorem modCore_fab (s : State) (k : CoreId) (f : Core → Core) : (s.modCore k f).fab = s.fab := rfl
@[simp] theorem modCore_vq (s : State) (k : CoreId) (f : Core → Core) : (s.modCore k f).vq = s.vq := rfl
@[simp] theorem modCore_rets (s : State) (k : CoreId) (f : Core → Core) : (s.modCore k f).rets = s.rets := rfl
@[simp] theorem modCore_recs (s : State) (k : CoreId) (f : Core → Core) : (s.modCore k f).recs = s.recs := rfl
@[simp] theorem modCore_cur (s : State) (k : CoreId) (f : Core → Core) : (s.modCore k f).cur = s.cur := rfl
@[simp] theorem modCore_agenda (s : State) (k : CoreId) (f : Core → Core) : (s.modCore k f).agenda = s.agenda := rfl
@[simp] theorem modCore_lag (s : State) (k : CoreId) (f : Core → Core) : (s.modCore k f).lag = s.lag := rfl
@[simp] theorem modCore_issued (s : State) (k : CoreId) (f : Core → Core) : (s.modCore k f).issued = s.issued := rfl
@[simp] theorem modCore_went (s : State) (k : CoreId) (f : Core → Core) : (s.modCore k f).went = s.went := rfl
@[simp] theorem modCore_fresh (s : State) (k : CoreId) (f : Core → Core) : (s.modCore k f).fresh = s.fresh := rfl
@[simp] theorem modCore_ids (s : State) (k : CoreId) (f : Core → Core) : (s.modCore k f).ids = s.ids := rfl
@[simp] theorem modCtx_dies (s : State) (k : CoreId) (c : Fin 8) (f : Ctx → Ctx) : (s.modCtx k c f).dies = s.dies := rfl
@[simp] theorem modCtx_pkgs (s : State) (k : CoreId) (c : Fin 8) (f : Ctx → Ctx) : (s.modCtx k c f).pkgs = s.pkgs := rfl
@[simp] theorem modCtx_mem (s : State) (k : CoreId) (c : Fin 8) (f : Ctx → Ctx) : (s.modCtx k c f).mem = s.mem := rfl
@[simp] theorem modCtx_side (s : State) (k : CoreId) (c : Fin 8) (f : Ctx → Ctx) : (s.modCtx k c f).side = s.side := rfl
@[simp] theorem modCtx_fab (s : State) (k : CoreId) (c : Fin 8) (f : Ctx → Ctx) : (s.modCtx k c f).fab = s.fab := rfl
@[simp] theorem modCtx_vq (s : State) (k : CoreId) (c : Fin 8) (f : Ctx → Ctx) : (s.modCtx k c f).vq = s.vq := rfl
@[simp] theorem modCtx_rets (s : State) (k : CoreId) (c : Fin 8) (f : Ctx → Ctx) : (s.modCtx k c f).rets = s.rets := rfl
@[simp] theorem modCtx_recs (s : State) (k : CoreId) (c : Fin 8) (f : Ctx → Ctx) : (s.modCtx k c f).recs = s.recs := rfl
@[simp] theorem modCtx_cur (s : State) (k : CoreId) (c : Fin 8) (f : Ctx → Ctx) : (s.modCtx k c f).cur = s.cur := rfl
@[simp] theorem modCtx_agenda (s : State) (k : CoreId) (c : Fin 8) (f : Ctx → Ctx) : (s.modCtx k c f).agenda = s.agenda := rfl
@[simp] theorem modCtx_lag (s : State) (k : CoreId) (c : Fin 8) (f : Ctx → Ctx) : (s.modCtx k c f).lag = s.lag := rfl
@[simp] theorem modCtx_issued (s : State) (k : CoreId) (c : Fin 8) (f : Ctx → Ctx) : (s.modCtx k c f).issued = s.issued := rfl
@[simp] theorem modCtx_went (s : State) (k : CoreId) (c : Fin 8) (f : Ctx → Ctx) : (s.modCtx k c f).went = s.went := rfl
@[simp] theorem modCtx_fresh (s : State) (k : CoreId) (c : Fin 8) (f : Ctx → Ctx) : (s.modCtx k c f).fresh = s.fresh := rfl
@[simp] theorem modCtx_ids (s : State) (k : CoreId) (c : Fin 8) (f : Ctx → Ctx) : (s.modCtx k c f).ids = s.ids := rfl
@[simp] theorem modDie_cores (s : State) (d : DieId) (f : Die → Die) : (s.modDie d f).cores = s.cores := rfl
@[simp] theorem modDie_pkgs (s : State) (d : DieId) (f : Die → Die) : (s.modDie d f).pkgs = s.pkgs := rfl
@[simp] theorem modDie_mem (s : State) (d : DieId) (f : Die → Die) : (s.modDie d f).mem = s.mem := rfl
@[simp] theorem modDie_side (s : State) (d : DieId) (f : Die → Die) : (s.modDie d f).side = s.side := rfl
@[simp] theorem modDie_fab (s : State) (d : DieId) (f : Die → Die) : (s.modDie d f).fab = s.fab := rfl
@[simp] theorem modDie_vq (s : State) (d : DieId) (f : Die → Die) : (s.modDie d f).vq = s.vq := rfl
@[simp] theorem modDie_rets (s : State) (d : DieId) (f : Die → Die) : (s.modDie d f).rets = s.rets := rfl
@[simp] theorem modDie_recs (s : State) (d : DieId) (f : Die → Die) : (s.modDie d f).recs = s.recs := rfl
@[simp] theorem modDie_cur (s : State) (d : DieId) (f : Die → Die) : (s.modDie d f).cur = s.cur := rfl
@[simp] theorem modDie_agenda (s : State) (d : DieId) (f : Die → Die) : (s.modDie d f).agenda = s.agenda := rfl
@[simp] theorem modDie_lag (s : State) (d : DieId) (f : Die → Die) : (s.modDie d f).lag = s.lag := rfl
@[simp] theorem modDie_issued (s : State) (d : DieId) (f : Die → Die) : (s.modDie d f).issued = s.issued := rfl
@[simp] theorem modDie_went (s : State) (d : DieId) (f : Die → Die) : (s.modDie d f).went = s.went := rfl
@[simp] theorem modDie_fresh (s : State) (d : DieId) (f : Die → Die) : (s.modDie d f).fresh = s.fresh := rfl
@[simp] theorem modDie_ids (s : State) (d : DieId) (f : Die → Die) : (s.modDie d f).ids = s.ids := rfl
@[simp] theorem modPkg_cores (s : State) (p : PkgId) (f : Pkg → Pkg) : (s.modPkg p f).cores = s.cores := rfl
@[simp] theorem modPkg_dies (s : State) (p : PkgId) (f : Pkg → Pkg) : (s.modPkg p f).dies = s.dies := rfl
@[simp] theorem modPkg_mem (s : State) (p : PkgId) (f : Pkg → Pkg) : (s.modPkg p f).mem = s.mem := rfl
@[simp] theorem modPkg_side (s : State) (p : PkgId) (f : Pkg → Pkg) : (s.modPkg p f).side = s.side := rfl
@[simp] theorem modPkg_fab (s : State) (p : PkgId) (f : Pkg → Pkg) : (s.modPkg p f).fab = s.fab := rfl
@[simp] theorem modPkg_vq (s : State) (p : PkgId) (f : Pkg → Pkg) : (s.modPkg p f).vq = s.vq := rfl
@[simp] theorem modPkg_rets (s : State) (p : PkgId) (f : Pkg → Pkg) : (s.modPkg p f).rets = s.rets := rfl
@[simp] theorem modPkg_recs (s : State) (p : PkgId) (f : Pkg → Pkg) : (s.modPkg p f).recs = s.recs := rfl
@[simp] theorem modPkg_cur (s : State) (p : PkgId) (f : Pkg → Pkg) : (s.modPkg p f).cur = s.cur := rfl
@[simp] theorem modPkg_agenda (s : State) (p : PkgId) (f : Pkg → Pkg) : (s.modPkg p f).agenda = s.agenda := rfl
@[simp] theorem modPkg_lag (s : State) (p : PkgId) (f : Pkg → Pkg) : (s.modPkg p f).lag = s.lag := rfl
@[simp] theorem modPkg_issued (s : State) (p : PkgId) (f : Pkg → Pkg) : (s.modPkg p f).issued = s.issued := rfl
@[simp] theorem modPkg_went (s : State) (p : PkgId) (f : Pkg → Pkg) : (s.modPkg p f).went = s.went := rfl
@[simp] theorem modPkg_fresh (s : State) (p : PkgId) (f : Pkg → Pkg) : (s.modPkg p f).fresh = s.fresh := rfl
@[simp] theorem modPkg_ids (s : State) (p : PkgId) (f : Pkg → Pkg) : (s.modPkg p f).ids = s.ids := rfl
@[simp] theorem modFar_cores (s : State) (q : FarId) (f : Farrier → Farrier) : (s.modFar q f).cores = s.cores := rfl
@[simp] theorem modFar_dies (s : State) (q : FarId) (f : Farrier → Farrier) : (s.modFar q f).dies = s.dies := rfl
@[simp] theorem modFar_mem (s : State) (q : FarId) (f : Farrier → Farrier) : (s.modFar q f).mem = s.mem := rfl
@[simp] theorem modFar_side (s : State) (q : FarId) (f : Farrier → Farrier) : (s.modFar q f).side = s.side := rfl
@[simp] theorem modFar_fab (s : State) (q : FarId) (f : Farrier → Farrier) : (s.modFar q f).fab = s.fab := rfl
@[simp] theorem modFar_vq (s : State) (q : FarId) (f : Farrier → Farrier) : (s.modFar q f).vq = s.vq := rfl
@[simp] theorem modFar_rets (s : State) (q : FarId) (f : Farrier → Farrier) : (s.modFar q f).rets = s.rets := rfl
@[simp] theorem modFar_recs (s : State) (q : FarId) (f : Farrier → Farrier) : (s.modFar q f).recs = s.recs := rfl
@[simp] theorem modFar_cur (s : State) (q : FarId) (f : Farrier → Farrier) : (s.modFar q f).cur = s.cur := rfl
@[simp] theorem modFar_agenda (s : State) (q : FarId) (f : Farrier → Farrier) : (s.modFar q f).agenda = s.agenda := rfl
@[simp] theorem modFar_lag (s : State) (q : FarId) (f : Farrier → Farrier) : (s.modFar q f).lag = s.lag := rfl
@[simp] theorem modFar_issued (s : State) (q : FarId) (f : Farrier → Farrier) : (s.modFar q f).issued = s.issued := rfl
@[simp] theorem modFar_went (s : State) (q : FarId) (f : Farrier → Farrier) : (s.modFar q f).went = s.went := rfl
@[simp] theorem modFar_fresh (s : State) (q : FarId) (f : Farrier → Farrier) : (s.modFar q f).fresh = s.fresh := rfl
@[simp] theorem modFar_ids (s : State) (q : FarId) (f : Farrier → Farrier) : (s.modFar q f).ids = s.ids := rfl
@[simp] theorem modThread_cores (s : State) (q : FarId) (t : Fin 16) (f : Thread → Thread) : (s.modThread q t f).cores = s.cores := rfl
@[simp] theorem modThread_dies (s : State) (q : FarId) (t : Fin 16) (f : Thread → Thread) : (s.modThread q t f).dies = s.dies := rfl
@[simp] theorem modThread_mem (s : State) (q : FarId) (t : Fin 16) (f : Thread → Thread) : (s.modThread q t f).mem = s.mem := rfl
@[simp] theorem modThread_side (s : State) (q : FarId) (t : Fin 16) (f : Thread → Thread) : (s.modThread q t f).side = s.side := rfl
@[simp] theorem modThread_fab (s : State) (q : FarId) (t : Fin 16) (f : Thread → Thread) : (s.modThread q t f).fab = s.fab := rfl
@[simp] theorem modThread_vq (s : State) (q : FarId) (t : Fin 16) (f : Thread → Thread) : (s.modThread q t f).vq = s.vq := rfl
@[simp] theorem modThread_rets (s : State) (q : FarId) (t : Fin 16) (f : Thread → Thread) : (s.modThread q t f).rets = s.rets := rfl
@[simp] theorem modThread_recs (s : State) (q : FarId) (t : Fin 16) (f : Thread → Thread) : (s.modThread q t f).recs = s.recs := rfl
@[simp] theorem modThread_cur (s : State) (q : FarId) (t : Fin 16) (f : Thread → Thread) : (s.modThread q t f).cur = s.cur := rfl
@[simp] theorem modThread_agenda (s : State) (q : FarId) (t : Fin 16) (f : Thread → Thread) : (s.modThread q t f).agenda = s.agenda := rfl
@[simp] theorem modThread_lag (s : State) (q : FarId) (t : Fin 16) (f : Thread → Thread) : (s.modThread q t f).lag = s.lag := rfl
@[simp] theorem modThread_issued (s : State) (q : FarId) (t : Fin 16) (f : Thread → Thread) : (s.modThread q t f).issued = s.issued := rfl
@[simp] theorem modThread_went (s : State) (q : FarId) (t : Fin 16) (f : Thread → Thread) : (s.modThread q t f).went = s.went := rfl
@[simp] theorem modThread_fresh (s : State) (q : FarId) (t : Fin 16) (f : Thread → Thread) : (s.modThread q t f).fresh = s.fresh := rfl
@[simp] theorem modThread_ids (s : State) (q : FarId) (t : Fin 16) (f : Thread → Thread) : (s.modThread q t f).ids = s.ids := rfl
@[simp] theorem took_cores (s : State) : (s.took).cores = s.cores := rfl
@[simp] theorem took_dies (s : State) : (s.took).dies = s.dies := rfl
@[simp] theorem took_pkgs (s : State) : (s.took).pkgs = s.pkgs := rfl
@[simp] theorem took_mem (s : State) : (s.took).mem = s.mem := rfl
@[simp] theorem took_side (s : State) : (s.took).side = s.side := rfl
@[simp] theorem took_fab (s : State) : (s.took).fab = s.fab := rfl
@[simp] theorem took_vq (s : State) : (s.took).vq = s.vq := rfl
@[simp] theorem took_rets (s : State) : (s.took).rets = s.rets := rfl
@[simp] theorem took_recs (s : State) : (s.took).recs = s.recs := rfl
@[simp] theorem took_cur (s : State) : (s.took).cur = s.cur := rfl
@[simp] theorem took_agenda (s : State) : (s.took).agenda = s.agenda := rfl
@[simp] theorem took_lag (s : State) : (s.took).lag = s.lag := rfl
@[simp] theorem took_went (s : State) : (s.took).went = s.went := rfl
@[simp] theorem took_fresh (s : State) : (s.took).fresh = s.fresh := rfl
@[simp] theorem took_ids (s : State) : (s.took).ids = s.ids := rfl
@[simp] theorem goOn_cores (s : State) : (s.goOn).cores = s.cores := rfl
@[simp] theorem goOn_dies (s : State) : (s.goOn).dies = s.dies := rfl
@[simp] theorem goOn_pkgs (s : State) : (s.goOn).pkgs = s.pkgs := rfl
@[simp] theorem goOn_mem (s : State) : (s.goOn).mem = s.mem := rfl
@[simp] theorem goOn_side (s : State) : (s.goOn).side = s.side := rfl
@[simp] theorem goOn_fab (s : State) : (s.goOn).fab = s.fab := rfl
@[simp] theorem goOn_vq (s : State) : (s.goOn).vq = s.vq := rfl
@[simp] theorem goOn_rets (s : State) : (s.goOn).rets = s.rets := rfl
@[simp] theorem goOn_recs (s : State) : (s.goOn).recs = s.recs := rfl
@[simp] theorem goOn_cur (s : State) : (s.goOn).cur = s.cur := rfl
@[simp] theorem goOn_agenda (s : State) : (s.goOn).agenda = s.agenda := rfl
@[simp] theorem goOn_lag (s : State) : (s.goOn).lag = s.lag := rfl
@[simp] theorem goOn_issued (s : State) : (s.goOn).issued = s.issued := rfl
@[simp] theorem goOn_fresh (s : State) : (s.goOn).fresh = s.fresh := rfl
@[simp] theorem goOn_ids (s : State) : (s.goOn).ids = s.ids := rfl
@[simp] theorem perfEv_dies (s : State) (k : CoreId) (n : Nat) (c : Option (Fin 8)) : (s.perfEv k n c).dies = s.dies := rfl
@[simp] theorem perfEv_pkgs (s : State) (k : CoreId) (n : Nat) (c : Option (Fin 8)) : (s.perfEv k n c).pkgs = s.pkgs := rfl
@[simp] theorem perfEv_mem (s : State) (k : CoreId) (n : Nat) (c : Option (Fin 8)) : (s.perfEv k n c).mem = s.mem := rfl
@[simp] theorem perfEv_side (s : State) (k : CoreId) (n : Nat) (c : Option (Fin 8)) : (s.perfEv k n c).side = s.side := rfl
@[simp] theorem perfEv_fab (s : State) (k : CoreId) (n : Nat) (c : Option (Fin 8)) : (s.perfEv k n c).fab = s.fab := rfl
@[simp] theorem perfEv_vq (s : State) (k : CoreId) (n : Nat) (c : Option (Fin 8)) : (s.perfEv k n c).vq = s.vq := rfl
@[simp] theorem perfEv_rets (s : State) (k : CoreId) (n : Nat) (c : Option (Fin 8)) : (s.perfEv k n c).rets = s.rets := rfl
@[simp] theorem perfEv_recs (s : State) (k : CoreId) (n : Nat) (c : Option (Fin 8)) : (s.perfEv k n c).recs = s.recs := rfl
@[simp] theorem perfEv_cur (s : State) (k : CoreId) (n : Nat) (c : Option (Fin 8)) : (s.perfEv k n c).cur = s.cur := rfl
@[simp] theorem perfEv_agenda (s : State) (k : CoreId) (n : Nat) (c : Option (Fin 8)) : (s.perfEv k n c).agenda = s.agenda := rfl
@[simp] theorem perfEv_lag (s : State) (k : CoreId) (n : Nat) (c : Option (Fin 8)) : (s.perfEv k n c).lag = s.lag := rfl
@[simp] theorem perfEv_issued (s : State) (k : CoreId) (n : Nat) (c : Option (Fin 8)) : (s.perfEv k n c).issued = s.issued := rfl
@[simp] theorem perfEv_went (s : State) (k : CoreId) (n : Nat) (c : Option (Fin 8)) : (s.perfEv k n c).went = s.went := rfl
@[simp] theorem perfEv_fresh (s : State) (k : CoreId) (n : Nat) (c : Option (Fin 8)) : (s.perfEv k n c).fresh = s.fresh := rfl
@[simp] theorem perfEv_ids (s : State) (k : CoreId) (n : Nat) (c : Option (Fin 8)) : (s.perfEv k n c).ids = s.ids := rfl
@[simp] theorem newId_cores (s : State) : s.newId.2.cores = s.cores := rfl
@[simp] theorem freeNat_cores (s : State) : s.freeNat.2.cores = s.cores := rfl
@[simp] theorem popLag_cores (s : State) : s.popLag.2.cores = s.cores := rfl
@[simp] theorem newId_dies (s : State) : s.newId.2.dies = s.dies := rfl
@[simp] theorem freeNat_dies (s : State) : s.freeNat.2.dies = s.dies := rfl
@[simp] theorem popLag_dies (s : State) : s.popLag.2.dies = s.dies := rfl
@[simp] theorem newId_pkgs (s : State) : s.newId.2.pkgs = s.pkgs := rfl
@[simp] theorem freeNat_pkgs (s : State) : s.freeNat.2.pkgs = s.pkgs := rfl
@[simp] theorem popLag_pkgs (s : State) : s.popLag.2.pkgs = s.pkgs := rfl
@[simp] theorem newId_mem (s : State) : s.newId.2.mem = s.mem := rfl
@[simp] theorem freeNat_mem (s : State) : s.freeNat.2.mem = s.mem := rfl
@[simp] theorem popLag_mem (s : State) : s.popLag.2.mem = s.mem := rfl
@[simp] theorem newId_side (s : State) : s.newId.2.side = s.side := rfl
@[simp] theorem freeNat_side (s : State) : s.freeNat.2.side = s.side := rfl
@[simp] theorem popLag_side (s : State) : s.popLag.2.side = s.side := rfl
@[simp] theorem newId_fab (s : State) : s.newId.2.fab = s.fab := rfl
@[simp] theorem freeNat_fab (s : State) : s.freeNat.2.fab = s.fab := rfl
@[simp] theorem popLag_fab (s : State) : s.popLag.2.fab = s.fab := rfl
@[simp] theorem newId_vq (s : State) : s.newId.2.vq = s.vq := rfl
@[simp] theorem freeNat_vq (s : State) : s.freeNat.2.vq = s.vq := rfl
@[simp] theorem popLag_vq (s : State) : s.popLag.2.vq = s.vq := rfl
@[simp] theorem newId_rets (s : State) : s.newId.2.rets = s.rets := rfl
@[simp] theorem freeNat_rets (s : State) : s.freeNat.2.rets = s.rets := rfl
@[simp] theorem popLag_rets (s : State) : s.popLag.2.rets = s.rets := rfl
@[simp] theorem newId_recs (s : State) : s.newId.2.recs = s.recs := rfl
@[simp] theorem freeNat_recs (s : State) : s.freeNat.2.recs = s.recs := rfl
@[simp] theorem popLag_recs (s : State) : s.popLag.2.recs = s.recs := rfl
@[simp] theorem newId_cur (s : State) : s.newId.2.cur = s.cur := rfl
@[simp] theorem freeNat_cur (s : State) : s.freeNat.2.cur = s.cur := rfl
@[simp] theorem popLag_cur (s : State) : s.popLag.2.cur = s.cur := rfl
@[simp] theorem newId_agenda (s : State) : s.newId.2.agenda = s.agenda := rfl
@[simp] theorem freeNat_agenda (s : State) : s.freeNat.2.agenda = s.agenda := rfl
@[simp] theorem popLag_agenda (s : State) : s.popLag.2.agenda = s.agenda := rfl
@[simp] theorem newId_lag (s : State) : s.newId.2.lag = s.lag := rfl
@[simp] theorem freeNat_lag (s : State) : s.freeNat.2.lag = s.lag := rfl
@[simp] theorem newId_issued (s : State) : s.newId.2.issued = s.issued := rfl
@[simp] theorem freeNat_issued (s : State) : s.freeNat.2.issued = s.issued := rfl
@[simp] theorem popLag_issued (s : State) : s.popLag.2.issued = s.issued := rfl
@[simp] theorem newId_went (s : State) : s.newId.2.went = s.went := rfl
@[simp] theorem freeNat_went (s : State) : s.freeNat.2.went = s.went := rfl
@[simp] theorem popLag_went (s : State) : s.popLag.2.went = s.went := rfl
@[simp] theorem newId_fresh (s : State) : s.newId.2.fresh = s.fresh := rfl
@[simp] theorem popLag_fresh (s : State) : s.popLag.2.fresh = s.fresh := rfl
@[simp] theorem freeNat_ids (s : State) : s.freeNat.2.ids = s.ids := rfl
@[simp] theorem popLag_ids (s : State) : s.popLag.2.ids = s.ids := rfl
@[simp] theorem took_issued (s : State) : s.took.issued = true := rfl
@[simp] theorem goOn_went (s : State) : s.goOn.went = true := rfl
@[simp] theorem goOn_core (s : State) (k : CoreId) : s.goOn.core k = s.core k := rfl
@[simp] theorem goOn_ctx (s : State) (k : CoreId) (c : Fin 8) : s.goOn.ctx k c = s.ctx k c := rfl
@[simp] theorem took_core (s : State) (k : CoreId) : s.took.core k = s.core k := rfl
@[simp] theorem took_ctx (s : State) (k : CoreId) (c : Fin 8) : s.took.ctx k c = s.ctx k c := rfl
@[simp] theorem took_pkg (s : State) (p : PkgId) : s.took.pkg p = s.pkg p := rfl
@[simp] theorem took_far (s : State) (f : FarId) : s.took.far f = s.far f := rfl
@[simp] theorem took_thread (s : State) (f : FarId) (t : Fin 16) : s.took.thread f t = s.thread f t := rfl
@[simp] theorem newId_fst (s : State) : s.newId.1 = s.ids + 1 := rfl
@[simp] theorem popLag_fst (s : State) : s.popLag.1 = s.lag.headD 0 := rfl
@[simp] theorem newId_core (s : State) (k : CoreId) : s.newId.2.core k = s.core k := rfl
@[simp] theorem newId_ctx (s : State) (k : CoreId) (c : Fin 8) : s.newId.2.ctx k c = s.ctx k c := rfl
@[simp] theorem popLag_core (s : State) (k : CoreId) : s.popLag.2.core k = s.core k := rfl
@[simp] theorem popLag_ctx (s : State) (k : CoreId) (c : Fin 8) : s.popLag.2.ctx k c = s.ctx k c := rfl

/-! ### Reading across kinds -/

@[simp] theorem modDie_core (s : State) (d : DieId) (f : Die → Die) (k : CoreId) : (s.modDie d f).core k = s.core k := rfl
@[simp] theorem modPkg_core (s : State) (p : PkgId) (f : Pkg → Pkg) (k : CoreId) : (s.modPkg p f).core k = s.core k := rfl
@[simp] theorem modDie_ctx (s : State) (d : DieId) (f : Die → Die) (k : CoreId) (c : Fin 8) :
    (s.modDie d f).ctx k c = s.ctx k c := rfl
@[simp] theorem modPkg_ctx (s : State) (p : PkgId) (f : Pkg → Pkg) (k : CoreId) (c : Fin 8) :
    (s.modPkg p f).ctx k c = s.ctx k c := rfl
@[simp] theorem modCore_die (s : State) (k : CoreId) (f : Core → Core) (d : DieId) : (s.modCore k f).die d = s.die d := rfl
@[simp] theorem modCore_pkg (s : State) (k : CoreId) (f : Core → Core) (p : PkgId) : (s.modCore k f).pkg p = s.pkg p := rfl
@[simp] theorem modCtx_die (s : State) (k : CoreId) (c : Fin 8) (f : Ctx → Ctx) (d : DieId) :
    (s.modCtx k c f).die d = s.die d := rfl
@[simp] theorem modCtx_pkg (s : State) (k : CoreId) (c : Fin 8) (f : Ctx → Ctx) (p : PkgId) :
    (s.modCtx k c f).pkg p = s.pkg p := rfl

end Sys2Proof.Machine
end

