-- ==== Sys2Proof/Laws/Dispatch.lean ====
section
/-! SUPPORT. Laws/Dispatch.lean: each constructor's arm of `exec`. -/

namespace Sys2Proof.Machine
set_option Elab.async false

theorem exec_nop f (s : State) : exec (.nop f) s = execNop f s := rfl
theorem exec_add f (s : State) : exec (.add f) s = execAdd f s := rfl
theorem exec_sub f (s : State) : exec (.sub f) s = execSub f s := rfl
theorem exec_mul f (s : State) : exec (.mul f) s = execMul f s := rfl
theorem exec_mulh f (s : State) : exec (.mulh f) s = execMulh f s := rfl
theorem exec_mulhn f (s : State) : exec (.mulhn f) s = execMulhn f s := rfl
theorem exec_div f (s : State) : exec (.div f) s = execDiv f s := rfl
theorem exec_divn f (s : State) : exec (.divn f) s = execDivn f s := rfl
theorem exec_remI f (s : State) : exec (.remI f) s = execRemI f s := rfl
theorem exec_remn f (s : State) : exec (.remn f) s = execRemn f s := rfl
theorem exec_andI f (s : State) : exec (.andI f) s = execAndI f s := rfl
theorem exec_orI f (s : State) : exec (.orI f) s = execOrI f s := rfl
theorem exec_xorI f (s : State) : exec (.xorI f) s = execXorI f s := rfl
theorem exec_andn f (s : State) : exec (.andn f) s = execAndn f s := rfl
theorem exec_shl f (s : State) : exec (.shl f) s = execShl f s := rfl
theorem exec_shr f (s : State) : exec (.shr f) s = execShr f s := rfl
theorem exec_sra f (s : State) : exec (.sra f) s = execSra f s := rfl
theorem exec_minI f (s : State) : exec (.minI f) s = execMinI f s := rfl
theorem exec_maxI f (s : State) : exec (.maxI f) s = execMaxI f s := rfl
theorem exec_minn f (s : State) : exec (.minn f) s = execMinn f s := rfl
theorem exec_maxn f (s : State) : exec (.maxn f) s = execMaxn f s := rfl
theorem exec_clz f (s : State) : exec (.clz f) s = execClz f s := rfl
theorem exec_ctz f (s : State) : exec (.ctz f) s = execCtz f s := rfl
theorem exec_popc f (s : State) : exec (.popc f) s = execPopc f s := rfl
theorem exec_extI f (s : State) : exec (.extI f) s = execExtI f s := rfl
theorem exec_li f (s : State) : exec (.li f) s = execLi f s := rfl
theorem exec_lih f (s : State) : exec (.lih f) s = execLih f s := rfl
theorem exec_sel f (s : State) : exec (.sel f) s = execSel f s := rfl
theorem exec_mkadr f (s : State) : exec (.mkadr f) s = execMkadr f s := rfl
theorem exec_adrx f (s : State) : exec (.adrx f) s = execAdrx f s := rfl
theorem exec_ceq f (s : State) : exec (.ceq f) s = execCeq f s := rfl
theorem exec_cne f (s : State) : exec (.cne f) s = execCne f s := rfl
theorem exec_clt f (s : State) : exec (.clt f) s = execClt f s := rfl
theorem exec_cle f (s : State) : exec (.cle f) s = execCle f s := rfl
theorem exec_cltn f (s : State) : exec (.cltn f) s = execCltn f s := rfl
theorem exec_clen f (s : State) : exec (.clen f) s = execClen f s := rfl
theorem exec_cand f (s : State) : exec (.cand f) s = execCand f s := rfl
theorem exec_cor f (s : State) : exec (.cor f) s = execCor f s := rfl
theorem exec_cxor f (s : State) : exec (.cxor f) s = execCxor f s := rfl
theorem exec_cset f (s : State) : exec (.cset f) s = execCset f s := rfl
theorem exec_cget f (s : State) : exec (.cget f) s = execCget f s := rfl
theorem exec_br f (s : State) : exec (.br f) s = execBr f s := rfl
theorem exec_jr f (s : State) : exec (.jr f) s = execJr f s := rfl
theorem exec_call f (s : State) : exec (.call f) s = execCall f s := rfl
theorem exec_callr f (s : State) : exec (.callr f) s = execCallr f s := rfl
theorem exec_ret f (s : State) : exec (.ret f) s = execRet f s := rfl
theorem exec_loopI f (s : State) : exec (.loopI f) s = execLoopI f s := rfl
theorem exec_lbrk f (s : State) : exec (.lbrk f) s = execLbrk f s := rfl
theorem exec_doneI f (s : State) : exec (.doneI f) s = execDoneI f s := rfl
theorem exec_waitUnack f (s : State) : exec (.waitUnack f) s = execWaitUnack f s := rfl
theorem exec_waitEng f (s : State) : exec (.waitEng f) s = execWaitEng f s := rfl
theorem exec_waitAll f (s : State) : exec (.waitAll f) s = execWaitAll f s := rfl
theorem exec_waitTime f (s : State) : exec (.waitTime f) s = execWaitTime f s := rfl
theorem exec_halt f (s : State) : exec (.halt f) s = execHalt f s := rfl
theorem exec_csrr f (s : State) : exec (.csrr f) s = execCsrr f s := rfl
theorem exec_csrw f (s : State) : exec (.csrw f) s = execCsrw f s := rfl
theorem exec_csrs f (s : State) : exec (.csrs f) s = execCsrs f s := rfl
theorem exec_csrc f (s : State) : exec (.csrc f) s = execCsrc f s := rfl
theorem exec_sysI f (s : State) : exec (.sysI f) s = execSysI f s := rfl
theorem exec_brk f (s : State) : exec (.brk f) s = execBrk f s := rfl
theorem exec_eret f (s : State) : exec (.eret f) s = execEret f s := rfl
theorem exec_vadd f (s : State) : exec (.vadd f) s = execVadd f s := rfl
theorem exec_vsub f (s : State) : exec (.vsub f) s = execVsub f s := rfl
theorem exec_vmul f (s : State) : exec (.vmul f) s = execVmul f s := rfl
theorem exec_vfma f (s : State) : exec (.vfma f) s = execVfma f s := rfl
theorem exec_vfms f (s : State) : exec (.vfms f) s = execVfms f s := rfl
theorem exec_vfnm f (s : State) : exec (.vfnm f) s = execVfnm f s := rfl
theorem exec_vdiv f (s : State) : exec (.vdiv f) s = execVdiv f s := rfl
theorem exec_vmin f (s : State) : exec (.vmin f) s = execVmin f s := rfl
theorem exec_vmax f (s : State) : exec (.vmax f) s = execVmax f s := rfl
theorem exec_vabs f (s : State) : exec (.vabs f) s = execVabs f s := rfl
theorem exec_vneg f (s : State) : exec (.vneg f) s = execVneg f s := rfl
theorem exec_vsqrt f (s : State) : exec (.vsqrt f) s = execVsqrt f s := rfl
theorem exec_vrcp f (s : State) : exec (.vrcp f) s = execVrcp f s := rfl
theorem exec_vrsq f (s : State) : exec (.vrsq f) s = execVrsq f s := rfl
theorem exec_vexp f (s : State) : exec (.vexp f) s = execVexp f s := rfl
theorem exec_vlog f (s : State) : exec (.vlog f) s = execVlog f s := rfl
theorem exec_vsin f (s : State) : exec (.vsin f) s = execVsin f s := rfl
theorem exec_vcos f (s : State) : exec (.vcos f) s = execVcos f s := rfl
theorem exec_vtanh f (s : State) : exec (.vtanh f) s = execVtanh f s := rfl
theorem exec_vsigm f (s : State) : exec (.vsigm f) s = execVsigm f s := rfl
theorem exec_vcmp f (s : State) : exec (.vcmp f) s = execVcmp f s := rfl
theorem exec_vsel f (s : State) : exec (.vsel f) s = execVsel f s := rfl
theorem exec_vbound f (s : State) : exec (.vbound f) s = execVbound f s := rfl
theorem exec_vwidth f (s : State) : exec (.vwidth f) s = execVwidth f s := rfl
theorem exec_vsplat f (s : State) : exec (.vsplat f) s = execVsplat f s := rfl
theorem exec_vins f (s : State) : exec (.vins f) s = execVins f s := rfl
theorem exec_vextr f (s : State) : exec (.vextr f) s = execVextr f s := rfl
theorem exec_vperm f (s : State) : exec (.vperm f) s = execVperm f s := rfl
theorem exec_vslide f (s : State) : exec (.vslide f) s = execVslide f s := rfl
theorem exec_vred f (s : State) : exec (.vred f) s = execVred f s := rfl
theorem exec_vcvt f (s : State) : exec (.vcvt f) s = execVcvt f s := rfl
theorem exec_vquant f (s : State) : exec (.vquant f) s = execVquant f s := rfl
theorem exec_vqmax f (s : State) : exec (.vqmax f) s = execVqmax f s := rfl
theorem exec_vcomp f (s : State) : exec (.vcomp f) s = execVcomp f s := rfl
theorem exec_vexpd f (s : State) : exec (.vexpd f) s = execVexpd f s := rfl
theorem exec_viadd f (s : State) : exec (.viadd f) s = execViadd f s := rfl
theorem exec_visub f (s : State) : exec (.visub f) s = execVisub f s := rfl
theorem exec_vimul f (s : State) : exec (.vimul f) s = execVimul f s := rfl
theorem exec_vand f (s : State) : exec (.vand f) s = execVand f s := rfl
theorem exec_vor f (s : State) : exec (.vor f) s = execVor f s := rfl
theorem exec_vxor f (s : State) : exec (.vxor f) s = execVxor f s := rfl
theorem exec_vshl f (s : State) : exec (.vshl f) s = execVshl f s := rfl
theorem exec_vshr f (s : State) : exec (.vshr f) s = execVshr f s := rfl
theorem exec_vmov f (s : State) : exec (.vmov f) s = execVmov f s := rfl
theorem exec_mand f (s : State) : exec (.mand f) s = execMand f s := rfl
theorem exec_mor f (s : State) : exec (.mor f) s = execMor f s := rfl
theorem exec_mxor f (s : State) : exec (.mxor f) s = execMxor f s := rfl
theorem exec_mcnt f (s : State) : exec (.mcnt f) s = execMcnt f s := rfl
theorem exec_jseed f (s : State) : exec (.jseed f) s = execJseed f s := rfl
theorem exec_jconst f (s : State) : exec (.jconst f) s = execJconst f s := rfl
theorem exec_jget f (s : State) : exec (.jget f) s = execJget f s := rfl
theorem exec_jset f (s : State) : exec (.jset f) s = execJset f s := rfl
theorem exec_jshift f (s : State) : exec (.jshift f) s = execJshift f s := rfl
theorem exec_jdiff f (s : State) : exec (.jdiff f) s = execJdiff f s := rfl
theorem exec_jint f (s : State) : exec (.jint f) s = execJint f s := rfl
theorem exec_jtrunc f (s : State) : exec (.jtrunc f) s = execJtrunc f s := rfl
theorem exec_amma f (s : State) : exec (.amma f) s = execAmma f s := rfl
theorem exec_azero f (s : State) : exec (.azero f) s = execAzero f s := rfl
theorem exec_ald f (s : State) : exec (.ald f) s = execAld f s := rfl
theorem exec_ast f (s : State) : exec (.ast f) s = execAst f s := rfl
theorem exec_arow f (s : State) : exec (.arow f) s = execArow f s := rfl
theorem exec_adrain f (s : State) : exec (.adrain f) s = execAdrain f s := rfl
theorem exec_ascale f (s : State) : exec (.ascale f) s = execAscale f s := rfl
theorem exec_ld f (s : State) : exec (.ld f) s = execLd f s := rfl
theorem exec_st f (s : State) : exec (.st f) s = execSt f s := rfl
theorem exec_vld f (s : State) : exec (.vld f) s = execVld f s := rfl
theorem exec_vst f (s : State) : exec (.vst f) s = execVst f s := rfl
theorem exec_vldx f (s : State) : exec (.vldx f) s = execVldx f s := rfl
theorem exec_vstx f (s : State) : exec (.vstx f) s = execVstx f s := rfl
theorem exec_ldblk f (s : State) : exec (.ldblk f) s = execLdblk f s := rfl
theorem exec_stblk f (s : State) : exec (.stblk f) s = execStblk f s := rfl
theorem exec_ldmeta f (s : State) : exec (.ldmeta f) s = execLdmeta f s := rfl
theorem exec_stmeta f (s : State) : exec (.stmeta f) s = execStmeta f s := rfl
theorem exec_phase f (s : State) : exec (.phase f) s = execPhase f s := rfl
theorem exec_fence f (s : State) : exec (.fence f) s = execFence f s := rfl
theorem exec_aadd f (s : State) : exec (.aadd f) s = execAadd f s := rfl
theorem exec_aand f (s : State) : exec (.aand f) s = execAand f s := rfl
theorem exec_aor f (s : State) : exec (.aor f) s = execAor f s := rfl
theorem exec_axor f (s : State) : exec (.axor f) s = execAxor f s := rfl
theorem exec_amin f (s : State) : exec (.amin f) s = execAmin f s := rfl
theorem exec_amax f (s : State) : exec (.amax f) s = execAmax f s := rfl
theorem exec_axchg f (s : State) : exec (.axchg f) s = execAxchg f s := rfl
theorem exec_acas f (s : State) : exec (.acas f) s = execAcas f s := rfl
theorem exec_afadd f (s : State) : exec (.afadd f) s = execAfadd f s := rfl
theorem exec_ablk f (s : State) : exec (.ablk f) s = execAblk f s := rfl
theorem exec_pref f (s : State) : exec (.pref f) s = execPref f s := rfl
theorem exec_fset f (s : State) : exec (.fset f) s = execFset f s := rfl
theorem exec_fclr f (s : State) : exec (.fclr f) s = execFclr f s := rfl
theorem exec_send f (s : State) : exec (.send f) s = execSend f s := rfl
theorem exec_sendr f (s : State) : exec (.sendr f) s = execSendr f s := rfl
theorem exec_hop f (s : State) : exec (.hop f) s = execHop f s := rfl
theorem exec_dcopy f (s : State) : exec (.dcopy f) s = execDcopy f s := rfl
theorem exec_dgath f (s : State) : exec (.dgath f) s = execDgath f s := rfl
theorem exec_dscad f (s : State) : exec (.dscad f) s = execDscad f s := rfl
theorem exec_slacqP f (s : State) : exec (.slacqP f) s = execSlacqP f s := rfl
theorem exec_slacqC f (s : State) : exec (.slacqC f) s = execSlacqC f s := rfl
theorem exec_slrel f (s : State) : exec (.slrel f) s = execSlrel f s := rfl
theorem exec_slinit f (s : State) : exec (.slinit f) s = execSlinit f s := rfl
theorem exec_tjoin f (s : State) : exec (.tjoin f) s = execTjoin f s := rfl
theorem exec_tread f (s : State) : exec (.tread f) s = execTread f s := rfl
theorem exec_bar f (s : State) : exec (.bar f) s = execBar f s := rfl
theorem exec_qfence f (s : State) : exec (.qfence f) s = execQfence f s := rfl
theorem exec_carm f (s : State) : exec (.carm f) s = execCarm f s := rfl
theorem exec_cdis f (s : State) : exec (.cdis f) s = execCdis f s := rfl
theorem exec_crdCnt f (s : State) : exec (.crdCnt f) s = execCrdCnt f s := rfl
theorem exec_crdStat f (s : State) : exec (.crdStat f) s = execCrdStat f s := rfl
theorem exec_crdStatW f (s : State) : exec (.crdStatW f) s = execCrdStatW f s := rfl
theorem exec_crdTot f (s : State) : exec (.crdTot f) s = execCrdTot f s := rfl
theorem exec_crdCons f (s : State) : exec (.crdCons f) s = execCrdCons f s := rfl
theorem exec_crdProd f (s : State) : exec (.crdProd f) s = execCrdProd f s := rfl
theorem exec_crdFab f (s : State) : exec (.crdFab f) s = execCrdFab f s := rfl
theorem exec_crdMon f (s : State) : exec (.crdMon f) s = execCrdMon f s := rfl
theorem exec_cadd f (s : State) : exec (.cadd f) s = execCadd f s := rfl
theorem exec_pcrd f (s : State) : exec (.pcrd f) s = execPcrd f s := rfl
theorem exec_pccfg f (s : State) : exec (.pccfg f) s = execPccfg f s := rfl
theorem exec_rtset f (s : State) : exec (.rtset f) s = execRtset f s := rfl
theorem exec_rtget f (s : State) : exec (.rtget f) s = execRtget f s := rfl
theorem exec_rkset f (s : State) : exec (.rkset f) s = execRkset f s := rfl
theorem exec_rkmovHold f (s : State) : exec (.rkmovHold f) s = execRkmovHold f s := rfl
theorem exec_rkmovRel f (s : State) : exec (.rkmovRel f) s = execRkmovRel f s := rfl
theorem exec_tlbinvPage f (s : State) : exec (.tlbinvPage f) s = execTlbinvPage f s := rfl
theorem exec_tlbinvAll f (s : State) : exec (.tlbinvAll f) s = execTlbinvAll f s := rfl
theorem exec_fbrd f (s : State) : exec (.fbrd f) s = execFbrd f s := rfl
theorem exec_replay f (s : State) : exec (.replay f) s = execReplay f s := rfl
theorem exec_replayDeny f (s : State) : exec (.replayDeny f) s = execReplayDeny f s := rfl
theorem exec_pgownHost f (s : State) : exec (.pgownHost f) s = execPgownHost f s := rfl
theorem exec_pgownDev f (s : State) : exec (.pgownDev f) s = execPgownDev f s := rfl
theorem exec_htset f (s : State) : exec (.htset f) s = execHtset f s := rfl
theorem exec_genAck f (s : State) : exec (.genAck f) s = execGenAck f s := rfl
theorem exec_genRd f (s : State) : exec (.genRd f) s = execGenRd f s := rfl
theorem exec_genRet f (s : State) : exec (.genRet f) s = execGenRet f s := rfl
theorem exec_genFree f (s : State) : exec (.genFree f) s = execGenFree f s := rfl
theorem exec_qcfgFuse f (s : State) : exec (.qcfgFuse f) s = execQcfgFuse f s := rfl
theorem exec_qcfgRoot f (s : State) : exec (.qcfgRoot f) s = execQcfgRoot f s := rfl
theorem exec_qcfgMemb f (s : State) : exec (.qcfgMemb f) s = execQcfgMemb f s := rfl
theorem exec_qcfgRankt f (s : State) : exec (.qcfgRankt f) s = execQcfgRankt f s := rfl
theorem exec_qcfgHtab f (s : State) : exec (.qcfgHtab f) s = execQcfgHtab f s := rfl
theorem exec_qcfgCplan f (s : State) : exec (.qcfgCplan f) s = execQcfgCplan f s := rfl
theorem exec_qcfgFeat f (s : State) : exec (.qcfgFeat f) s = execQcfgFeat f s := rfl
theorem exec_frzOn f (s : State) : exec (.frzOn f) s = execFrzOn f s := rfl
theorem exec_frzOff f (s : State) : exec (.frzOff f) s = execFrzOff f s := rfl
theorem exec_pdoneSave f (s : State) : exec (.pdoneSave f) s = execPdoneSave f s := rfl
theorem exec_pdoneRest f (s : State) : exec (.pdoneRest f) s = execPdoneRest f s := rfl
theorem exec_fdoneRes f (s : State) : exec (.fdoneRes f) s = execFdoneRes f s := rfl
theorem exec_fdoneSat f (s : State) : exec (.fdoneSat f) s = execFdoneSat f s := rfl
theorem exec_fdoneDeny f (s : State) : exec (.fdoneDeny f) s = execFdoneDeny f s := rfl
theorem exec_fdoneHold f (s : State) : exec (.fdoneHold f) s = execFdoneHold f s := rfl
theorem exec_tagrd f (s : State) : exec (.tagrd f) s = execTagrd f s := rfl
theorem exec_tagwr f (s : State) : exec (.tagwr f) s = execTagwr f s := rfl
theorem exec_dirrd f (s : State) : exec (.dirrd f) s = execDirrd f s := rfl
theorem exec_dirwr f (s : State) : exec (.dirwr f) s = execDirwr f s := rfl
theorem exec_btx f (s : State) : exec (.btx f) s = execBtx f s := rfl
theorem exec_frep f (s : State) : exec (.frep f) s = execFrep f s := rfl
theorem exec_freq f (s : State) : exec (.freq f) s = execFreq f s := rfl
theorem exec_fwake f (s : State) : exec (.fwake f) s = execFwake f s := rfl
theorem exec_fpoison f (s : State) : exec (.fpoison f) s = execFpoison f s := rfl
theorem exec_fblk f (s : State) : exec (.fblk f) s = execFblk f s := rfl
theorem exec_fsto f (s : State) : exec (.fsto f) s = execFsto f s := rfl
theorem exec_gapCountExpiry k c (s : State) : exec (.gapCountExpiry k c) s = execGapCountExpiry k c s := rfl
theorem exec_messageArrival k arr (s : State) : exec (.messageArrival k arr) s = execMessageArrival k arr s := rfl
theorem exec_hopMessageArrival k arr (s : State) : exec (.hopMessageArrival k arr) s = execHopMessageArrival k arr s := rfl
theorem exec_refusal k slot (s : State) : exec (.refusal k slot) s = execRefusal k slot s := rfl
theorem exec_backoffRetry k slot (s : State) : exec (.backoffRetry k slot) s = execBackoffRetry k slot s := rfl
theorem exec_contextFreeNotice k slot (s : State) : exec (.contextFreeNotice k slot) s = execContextFreeNotice k slot s := rfl
theorem exec_reservationLapse k c (s : State) : exec (.reservationLapse k c) s = execReservationLapse k c s := rfl
theorem exec_contextFree k c (s : State) : exec (.contextFree k c) s = execContextFree k c s := rfl
theorem exec_messageAcceptance k slot (s : State) : exec (.messageAcceptance k slot) s = execMessageAcceptance k slot s := rfl
theorem exec_forwardedLoadReply k id (s : State) : exec (.forwardedLoadReply k id) s = execForwardedLoadReply k id s := rfl
theorem exec_accessReply k id (s : State) : exec (.accessReply k id) s = execAccessReply k id s := rfl
theorem exec_storeAck k id (s : State) : exec (.storeAck k id) s = execStoreAck k id s := rfl
theorem exec_tagReply k id (s : State) : exec (.tagReply k id) s = execTagReply k id s := rfl
theorem exec_replyFaultEntry k c (s : State) : exec (.replyFaultEntry k c) s = execReplyFaultEntry k c s := rfl
theorem exec_interruptEntry k (s : State) : exec (.interruptEntry k) s = execInterruptEntry k s := rfl
theorem exec_releaseComplete k (s : State) : exec (.releaseComplete k) s = execReleaseComplete k s := rfl
theorem exec_fabricIntervalConfirm p q iv (s : State) : exec (.fabricIntervalConfirm p q iv) s = execFabricIntervalConfirm p q iv s := rfl
theorem exec_dflagsUpdate d bits (s : State) : exec (.dflagsUpdate d bits) s = execDflagsUpdate d bits s := rfl
theorem exec_anvilEntryStart k (s : State) : exec (.anvilEntryStart k) s = execAnvilEntryStart k s := rfl
theorem exec_anvilEntryComplete k late (s : State) : exec (.anvilEntryComplete k late) s = execAnvilEntryComplete k late s := rfl
theorem exec_drainWakeup k id (s : State) : exec (.drainWakeup k id) s = execDrainWakeup k id s := rfl
theorem exec_drayEntryStart k (s : State) : exec (.drayEntryStart k) s = execDrayEntryStart k s := rfl
theorem exec_drayFaultReport k (s : State) : exec (.drayFaultReport k) s = execDrayFaultReport k s := rfl
theorem exec_remoteWritePerformed k arr (s : State) : exec (.remoteWritePerformed k arr) s = execRemoteWritePerformed k arr s := rfl
theorem exec_remoteLoadRequest k id part (s : State) : exec (.remoteLoadRequest k id part) s = execRemoteLoadRequest k id part s := rfl
theorem exec_atomicAtHome k id (s : State) : exec (.atomicAtHome k id) s = execAtomicAtHome k id s := rfl
theorem exec_countedStore k id part (s : State) : exec (.countedStore k id part) s = execCountedStore k id part s := rfl
theorem exec_countMessage p n (s : State) : exec (.countMessage p n) s = execCountMessage p n s := rfl
theorem exec_counterFire h (s : State) : exec (.counterFire h) s = execCounterFire h s := rfl
theorem exec_launchEnqueue h (s : State) : exec (.launchEnqueue h) s = execLaunchEnqueue h s := rfl
theorem exec_slotFilled k b (s : State) : exec (.slotFilled k b) s = execSlotFilled k b s := rfl
theorem exec_slotReturn k n (s : State) : exec (.slotReturn k n) s = execSlotReturn k n s := rfl
theorem exec_slinitRecord k n (s : State) : exec (.slinitRecord k n) s = execSlinitRecord k n s := rfl
theorem exec_treeInject k (s : State) : exec (.treeInject k) s = execTreeInject k s := rfl
theorem exec_treeResult k scope (s : State) : exec (.treeResult k scope) s = execTreeResult k scope s := rfl
theorem exec_barrierComplete k scope (s : State) : exec (.barrierComplete k scope) s = execBarrierComplete k scope s := rfl
theorem exec_vqmaxContribution k n (s : State) : exec (.vqmaxContribution k n) s = execVqmaxContribution k n s := rfl
theorem exec_translationWalk k id part evict (s : State) : exec (.translationWalk k id part evict) s = execTranslationWalk k id part evict s := rfl
theorem exec_accessPark k id part (s : State) : exec (.accessPark k id part) s = execAccessPark k id part s := rfl
theorem exec_farrierDispatch f (s : State) : exec (.farrierDispatch f) s = execFarrierDispatch f s := rfl
theorem exec_gets f t (s : State) : exec (.gets f t) s = execGets f t s := rfl
theorem exec_getx f t (s : State) : exec (.getx f t) s = execGetx f t s := rfl
theorem exec_wrI f t (s : State) : exec (.wrI f t) s = execWrI f t s := rfl
theorem exec_atI f t (s : State) : exec (.atI f t) s = execAtI f t s := rfl
theorem exec_rgets f t (s : State) : exec (.rgets f t) s = execRgets f t s := rfl
theorem exec_rgetx f t (s : State) : exec (.rgetx f t) s = execRgetx f t s := rfl
theorem exec_rwr f t (s : State) : exec (.rwr f t) s = execRwr f t s := rfl
theorem exec_inv f t (s : State) : exec (.inv f t) s = execInv f t s := rfl
theorem exec_fwd f t (s : State) : exec (.fwd f t) s = execFwd f t s := rfl
theorem exec_wbk f t (s : State) : exec (.wbk f t) s = execWbk f t s := rfl
theorem exec_push f t (s : State) : exec (.push f t) s = execPush f t s := rfl
theorem exec_upd f t (s : State) : exec (.upd f t) s = execUpd f t s := rfl
theorem exec_hsnp f t (s : State) : exec (.hsnp f t) s = execHsnp f t s := rfl
theorem exec_customRequest f t (s : State) : exec (.customRequest f t) s = execCustomRequest f t s := rfl
theorem exec_initI f t (s : State) : exec (.initI f t) s = execInitI f t s := rfl
theorem exec_rebind f t (s : State) : exec (.rebind f t) s = execRebind f t s := rfl
theorem exec_rcv f t (s : State) : exec (.rcv f t) s = execRcv f t s := rfl
theorem exec_farrierReply f (s : State) : exec (.farrierReply f) s = execFarrierReply f s := rfl
theorem exec_curbKill f t (s : State) : exec (.curbKill f t) s = execCurbKill f t s := rfl
theorem exec_curbWaitTimeout f t (s : State) : exec (.curbWaitTimeout f t) s = execCurbWaitTimeout f t s := rfl
theorem exec_jobTeardown ks (s : State) : exec (.jobTeardown ks) s = execJobTeardown ks s := rfl
theorem exec_uncorrectableError e (s : State) : exec (.uncorrectableError e) s = execUncorrectableError e s := rfl
theorem exec_preemptRequest d reason (s : State) : exec (.preemptRequest d reason) s = execPreemptRequest d reason s := rfl
theorem exec_timeSliceExpiry d (s : State) : exec (.timeSliceExpiry d) s = execTimeSliceExpiry d s := rfl
theorem exec_preemptLocalCopy k (s : State) : exec (.preemptLocalCopy k) s = execPreemptLocalCopy k s := rfl
theorem exec_saveEntry k (s : State) : exec (.saveEntry k) s = execSaveEntry k s := rfl
theorem exec_preemptImageCopy k (s : State) : exec (.preemptImageCopy k) s = execPreemptImageCopy k s := rfl
theorem exec_resumeRequest d (s : State) : exec (.resumeRequest d) s = execResumeRequest d s := rfl
theorem exec_resumeWriteback k (s : State) : exec (.resumeWriteback k) s = execResumeWriteback k s := rfl
theorem exec_coreResume k (s : State) : exec (.coreResume k) s = execCoreResume k s := rfl
theorem exec_hostWindowRead p off len (s : State) : exec (.hostWindowRead p off len) s = execHostWindowRead p off len s := rfl
theorem exec_hostWindowWrite r off data relaxed (s : State) : exec (.hostWindowWrite r off data relaxed) s = execHostWindowWrite r off data relaxed s := rfl
theorem exec_hostSnoop p snp line (s : State) : exec (.hostSnoop p snp line) s = execHostSnoop p snp line s := rfl
theorem exec_featureAcceptWrite r w val (s : State) : exec (.featureAcceptWrite r w val) s = execFeatureAcceptWrite r w val s := rfl
theorem exec_preqWrite r die val (s : State) : exec (.preqWrite r die val) s = execPreqWrite r die val s := rfl
theorem exec_winWrite r w val (s : State) : exec (.winWrite r w val) s = execWinWrite r w val s := rfl
theorem exec_barRegisterWrite r off val (s : State) : exec (.barRegisterWrite r off val) s = execBarRegisterWrite r off val s := rfl
theorem exec_uploadFirmware p (s : State) : exec (.uploadFirmware p) s = execUploadFirmware p s := rfl
theorem exec_loadHandlerSet p (s : State) : exec (.loadHandlerSet p) s = execLoadHandlerSet p s := rfl
theorem exec_submitCodeObject o (s : State) : exec (.submitCodeObject o) s = execSubmitCodeObject o s := rfl
theorem exec_attest p (s : State) : exec (.attest p) s = execAttest p s := rfl
theorem exec_imageLoadRequest p n (s : State) : exec (.imageLoadRequest p n) s = execImageLoadRequest p n s := rfl
theorem exec_deviceReset p cfg (s : State) : exec (.deviceReset p cfg) s = execDeviceReset p cfg s := rfl
theorem exec_functionLevelReset p cfg (s : State) : exec (.functionLevelReset p cfg) s = execFunctionLevelReset p cfg s := rfl
theorem exec_frequencyStepDown d power temp (s : State) : exec (.frequencyStepDown d power temp) s = execFrequencyStepDown d power temp s := rfl
theorem exec_frequencyStepUp d power temp (s : State) : exec (.frequencyStepUp d power temp) s = execFrequencyStepUp d power temp s := rfl
theorem exec_thermalPreempt d temp (s : State) : exec (.thermalPreempt d temp) s = execThermalPreempt d temp s := rfl
theorem exec_thermalTrip p temp (s : State) : exec (.thermalTrip p temp) s = execThermalTrip p temp s := rfl
theorem exec_platformEvent p die n (s : State) : exec (.platformEvent p die n) s = execPlatformEvent p die n s := rfl
theorem exec_assayRun d margins removed (s : State) : exec (.assayRun d margins removed) s = execAssayRun d margins removed s := rfl
theorem exec_carrierRetuneComplete p i (s : State) : exec (.carrierRetuneComplete p i) s = execCarrierRetuneComplete p i s := rfl
theorem exec_carrierUp p i (s : State) : exec (.carrierUp p i) s = execCarrierUp p i s := rfl
theorem exec_fabricFrame p i crcOk (s : State) : exec (.fabricFrame p i crcOk) s = execFabricFrame p i crcOk s := rfl
theorem exec_frameNak p i (s : State) : exec (.frameNak p i) s = execFrameNak p i s := rfl
theorem exec_carrierDown p i (s : State) : exec (.carrierDown p i) s = execCarrierDown p i s := rfl
theorem exec_powerLoss p (s : State) : exec (.powerLoss p) s = execPowerLoss p s := rfl
theorem exec_correctedSoftError d m (s : State) : exec (.correctedSoftError d m) s = execCorrectedSoftError d m s := rfl
theorem exec_waitTimeDeadline k c (s : State) : exec (.waitTimeDeadline k c) s = execWaitTimeDeadline k c s := rfl
theorem exec_instructionCompletion k c id (s : State) : exec (.instructionCompletion k c id) s = execInstructionCompletion k c id s := rfl
theorem exec_occupancyEnd k c (s : State) : exec (.occupancyEnd k c) s = execOccupancyEnd k c s := rfl
theorem exec_tableInstructionComplete k c (s : State) : exec (.tableInstructionComplete k c) s = execTableInstructionComplete k c s := rfl
theorem exec_windowRegistrationComplete k c (s : State) : exec (.windowRegistrationComplete k c) s = execWindowRegistrationComplete k c s := rfl

end Sys2Proof.Machine
end

