-- ==== Sys2Proof/Laws/Issue.lean ====
section
/-! SUPPORT. Laws/Issue.lean: what issuing an instruction comes to, once for every instruction: the frame of `retire`, the
effect of a ready instruction, and its trap. -/

namespace Sys2Proof.Machine
set_option Elab.async false

/-! ### The frame of one context -/

theorem OnlyCtx.refl (k : CoreId) (c : Fin 8) (s : State) : OnlyCtx k c s s :=
  ⟨fun _ _ => rfl, rfl, fun _ _ => rfl, rfl⟩

theorem OnlyCtx.trans {k : CoreId} {c : Fin 8} {s t u : State} (a : OnlyCtx k c s t) (b : OnlyCtx k c t u) : OnlyCtx k c s u :=
  ⟨fun j h => (b.cores j h).trans (a.cores j h), b.core.trans a.core, fun d h => (b.ctxs d h).trans (a.ctxs d h),
    b.rest.trans a.rest⟩

/-- An update of the context alone. -/
theorem onlyCtx_modCtx (k : CoreId) (c : Fin 8) (f : Ctx → Ctx) (s : State) : OnlyCtx k c s (s.modCtx k c f) where
  cores j h := core_modCtx_ne s c f h
  core := by rw [core_modCtx_same]; rfl
  ctxs d h := ctx_modCtx_ne s k f h
  rest := rfl

/-- An update of the core that leaves its contexts and all that `apart` keeps. -/
theorem onlyCtx_modCore (k : CoreId) (c : Fin 8) (f : Core → Core) (s : State) (ha : (f (s.core k)).apart = (s.core k).apart)
    (hc : (f (s.core k)).ctxs = (s.core k).ctxs) : OnlyCtx k c s (s.modCore k f) where
  cores j h := core_modCore_ne s f h
  core := by rw [core_modCore_same]; exact ha
  ctxs d _ := ctx_modCore s k d f hc
  rest := rfl

theorem onlyCtx_took (k : CoreId) (c : Fin 8) (s : State) : OnlyCtx k c s s.took := ⟨fun _ _ => rfl, rfl, fun _ _ => rfl, rfl⟩
theorem onlyCtx_newId (k : CoreId) (c : Fin 8) (s : State) : OnlyCtx k c s s.newId.2 :=
  ⟨fun _ _ => rfl, rfl, fun _ _ => rfl, rfl⟩
theorem onlyCtx_popLag (k : CoreId) (c : Fin 8) (s : State) : OnlyCtx k c s s.popLag.2 :=
  ⟨fun _ _ => rfl, rfl, fun _ _ => rfl, rfl⟩

/-! ### `retire` -/

@[simp] theorem moveEnd_ctxs (co : Core) (c : Fin 8) : (co.moveEnd c).ctxs = co.ctxs := rfl
@[simp] theorem perfEv_ctxs (co : Core) (n : Nat) (c : Option (Fin 8)) : (co.perfEv n c).ctxs = co.ctxs := rfl
theorem moveEnd_apart (co : Core) (c : Fin 8) : (co.moveEnd c).apart = co.apart := rfl
theorem perfEv_apart (co : Core) (n : Nat) (c : Option (Fin 8)) : (co.perfEv n c).apart = co.apart := rfl
theorem issueCounts_apart (co : Core) (c : Fin 8) (b : Bool) (n : Option Nat) : (co.issueCounts c b n).apart = co.apart := by
  cases b <;> cases n <;> rfl
theorem issueCounts_ctxs (co : Core) (c : Fin 8) (b : Bool) (n : Option Nat) : (co.issueCounts c b n).ctxs = co.ctxs := by
  cases b <;> cases n <;> rfl
@[simp] theorem perfEv_ctx (s : State) (j k : CoreId) (n : Nat) (d : Option (Fin 8)) (c : Fin 8) :
    (s.perfEv j n d).ctx k c = s.ctx k c := by
  by_cases h : k = j
  · subst h; exact ctx_modCore s k c _ rfl
  · unfold State.ctx State.perfEv; rw [core_modCore_ne s _ h]

/-- What issue leaves besides the effect in a context that waits for nothing: nothing but its own counts, which `arch` forgets. -/
theorem retire_arch (s : State) (k : CoreId) (c : Fin 8) (i : Instr) (f : Fields) (b : Bool) (new : List Flight)
    (hn : (s.ctx k c).wait = .none) : ((s.retire k c i f b new).ctx k c).arch = (s.ctx k c).arch := by
  unfold State.retire
  simp only []
  rw [ctx_modCore]
  · rw [ctx_modCtx_same, took_ctx]
    simp only [hn]
    rw [Ctx.arch, Ctx.arch, ← hn]
  · exact issueCounts_ctxs ..

theorem retire_issued (s : State) (k : CoreId) (c : Fin 8) (i : Instr) (f : Fields) (b : Bool) (new : List Flight) :
    (s.retire k c i f b new).issued = true := rfl

theorem retire_only (s : State) (k : CoreId) (c : Fin 8) (i : Instr) (f : Fields) (b : Bool) (new : List Flight) :
    OnlyCtx k c s (s.retire k c i f b new) := by
  unfold State.retire
  exact ((onlyCtx_took k c s).trans (onlyCtx_modCtx k c _ _)).trans
    (onlyCtx_modCore k c _ _ (issueCounts_apart ..) (issueCounts_ctxs ..))

/-- `advance` reads and writes nothing that `arch` forgets. -/
theorem loopTest_arch (x : Ctx) (l : Fin 2) :
    (x.arch.loopTest l).1 = (x.loopTest l).1 ∧ (x.arch.loopTest l).2 = (x.loopTest l).2.arch := by
  unfold Ctx.loopTest
  have h : (x.arch.lc[l] ≠ 0 ∧ (x.arch.pair l).2 = x.arch.hart.pc) = (x.lc[l] ≠ 0 ∧ (x.pair l).2 = x.hart.pc) := rfl
  simp only [h]
  have h2 : x.arch.lc[l] = x.lc[l] := rfl
  simp only [h2]
  split
  · split <;> exact ⟨rfl, rfl⟩
  · exact ⟨rfl, rfl⟩

theorem advance_arch (x : Ctx) : x.advance.arch = x.arch.advance := by
  have h1 := loopTest_arch x 1
  unfold Ctx.advance
  generalize ha : x.arch.loopTest 1 = a at h1
  generalize hb : x.loopTest 1 = b at h1
  obtain ⟨a1, a2⟩ := a
  obtain ⟨b1, b2⟩ := b
  simp only at h1
  obtain ⟨rfl, rfl⟩ := h1
  cases a1 with
  | some p => rfl
  | none =>
    have h0 := loopTest_arch b2 0
    generalize hc : b2.arch.loopTest 0 = a at h0
    generalize hd : b2.loopTest 0 = b at h0
    obtain ⟨a1, a2⟩ := a
    obtain ⟨b1, b3⟩ := b
    simp only at h0
    obtain ⟨rfl, rfl⟩ := h0
    simp only [hc, hd]
    cases a1 <;> rfl

theorem advance_arch_congr {x y : Ctx} (h : x.arch = y.arch) : x.advance.arch = y.advance.arch := by
  rw [advance_arch, advance_arch, h]

/-! ### A ready instruction -/

section
variable {k : CoreId} {c : Fin 8} {i : Instr} {f : Fields} {s : State}

/-- A ready instruction whose own wait is over comes to its effect. -/
theorem issue_ready (h : Ready k c i f s) {w : State → Bool} {eff : State → Res} (hw : w s = false) :
    issue i f w eff s = .next (match eff s with
      | .ok s new => (s.retire k c i f true new).modCtx k c (·.advance)
      | .jump pc s => (s.retire k c i f true []).modCtx k c fun x => { x with hart := { x.hart with pc := pc } }
      | .trap cause eaddr next st =>
        if (s.ctx k c).undone then s
        else (st.getD s).trapCtx k c cause (if next then (s.ctx k c).hart.pc + 12 else (s.ctx k c).hart.pc) eaddr true
      | .hold s => s
      | .wait s => s.began k c i f) := by
  have hlk : (if (s.ctx k c).lkchk = true then
      lkBroken (s.ctx k c) (.c f.hd.gc :: (if (s.ctx k c).hart.guard f.hd = true then readsOf (s.ctx k c).jord.toNat i f else []))
        (if (s.ctx k c).hart.guard f.hd = true then writesOf (s.ctx k c).jord.toNat i f else []) else none) = none := by
    split
    · simp only [h.guarded, if_true]; exact h.lookahead (by assumption)
    · rfl
  have hser : (serial i && (s.ctx k c).undone) = false := by
    cases hs : serial i with
    | false => rfl
    | true => simp [h.alone hs]
  have hb : (s.ctx k c).wait.begun = false := by rw [h.anew]; rfl
  simp only [issue, h.turn, issueCtx, h.window, h.forwarded, h.word, h.guarded, hw, hser] at hlk ⊢
  simp only [Bool.false_or, bne_self_eq_false, Bool.false_eq_true, if_false, Bool.not_true, if_true, hb] at hlk ⊢
  rw [hlk]
  all_goals (cases eff s <;> rfl)

/-- An effect that goes on to the next instruction. -/
theorem issue_goesOn (h : Ready k c i f s) {w : State → Bool} {eff : State → Res} {s' : State} {new : List Flight}
    (hw : w s = false) (he : eff s = .ok s' new) (hn : (s'.ctx k c).wait = .none) : GoesOn k c s' (issue i f w eff s) := by
  refine ⟨_, issue_ready h hw, ?_, ?_, ?_⟩
  · rw [he]; rfl
  · rw [he]; simp only []; rw [ctx_modCtx_same]
    exact advance_arch_congr (retire_arch _ _ _ _ _ _ _ hn)
  · rw [he]; exact (retire_only ..).trans (onlyCtx_modCtx ..)

/-- An effect that jumps. -/
theorem issue_jump (h : Ready k c i f s) {w : State → Bool} {eff : State → Res} {s' : State} {pc : PcW}
    (hw : w s = false) (he : eff s = .jump pc s') (hn : (s'.ctx k c).wait = .none) :
    RunsTo k c ((s'.ctx k c).at pc) s' (issue i f w eff s) := by
  refine ⟨_, issue_ready h hw, ?_, ?_, ?_⟩
  · rw [he]; rfl
  · rw [he]; simp only []; rw [ctx_modCtx_same]
    have := retire_arch s' k c i f true [] hn
    have e : ∀ x y : Ctx, x.arch = y.arch → (x.at pc).arch = (y.at pc).arch := fun x y h => by
      simp only [Ctx.arch, Ctx.at, Ctx.mk.injEq] at h ⊢; simp_all
    exact e _ _ this
  · rw [he]; exact (retire_only ..).trans (onlyCtx_modCtx ..)

/-- An update of the context alone, then on: seen from the state before. -/
theorem RunsTo.before {x : Ctx} {s s' : State} {o : Host.Outcome State Fault Refusal} (h : RunsTo k c x s' o)
    (hs : OnlyCtx k c s s') : RunsTo k c x s o := by
  obtain ⟨t, h1, h2, h3, h4⟩ := h
  exact ⟨t, h1, h2, h3, hs.trans h4⟩

/-- The state an instruction on the context's own registers leaves. -/
theorem modHart_ctx (h : s.cur = .ctx k c) (g : Hart → Hart) :
    s.modHart g = s.modCtx k c fun x => x.withHart (g x.hart) := by
  simp only [State.modHart, h]; rfl

theorem hart_ctx (h : s.cur = .ctx k c) : s.hart = (s.ctx k c).hart := by simp only [State.hart, h]
theorem kc_ctx (h : s.cur = .ctx k c) : s.kc = (k, c) := by simp only [State.kc, h]
theorem me_ctx (h : s.cur = .ctx k c) : s.me = s.ctx k c := by simp only [State.me, kc_ctx h]
theorem myCore_ctx (h : s.cur = .ctx k c) : s.myCore = s.core k := by simp only [State.myCore, kc_ctx h]

/-- A ready instruction on the registers of its hart alone. -/
theorem onHart_runsTo (h : Ready k c i f s) (g : Hart → Hart) :
    RunsTo k c ((s.ctx k c).withHart (g (s.ctx k c).hart)).advance s (onHart i f g s) := by
  have := issue_goesOn (w := never) (eff := fun s => .ok (s.modHart g)) h rfl rfl (by
    rw [modHart_ctx h.turn, ctx_modCtx_same]; exact h.anew)
  rw [GoesOn] at this
  rw [modHart_ctx h.turn, ctx_modCtx_same] at this
  exact this.before (onlyCtx_modCtx ..)

/-! ### Traps -/

theorem entered_enter (x : Ctx) (evec : PcW) (cause : Cause) (epc : PcW) (eaddr : W64) :
    Entered x evec cause epc eaddr (x.enter evec cause epc eaddr) := by
  constructor <;> first | rfl | exact ⟨rfl, rfl, rfl, rfl⟩ | exact ⟨rfl, rfl, rfl⟩ | exact ⟨rfl, rfl, rfl, rfl, rfl, rfl, rfl⟩

/-- A trap that is no double fault, as one update of the core and one of the context (R371). -/
theorem trapCtx_eq (cause : Cause) (epc : PcW) (eaddr : W64) (hw : (s.ctx k c).wait = .none) (hf : s.faultsOnce k c) :
    ∃ G : Core → Core, (∀ co : Core, (G co).ctxs = co.ctxs ∧ (G co).loc = co.loc) ∧
      s.trapCtx k c cause epc eaddr true =
        (s.took.modCore k G).modCtx k c fun x => x.enter (s.core k).evec cause epc eaddr := by
  obtain ⟨G, hG⟩ : ∃ G : Core → Core, G = fun co =>
    { co.moveEnd c with accs := co.accs.filter fun a => !(a.ctx == c && a.kind == .xlate) } := ⟨_, rfl⟩
  have h1 : ∀ co : Core, (G co).ctxs = co.ctxs ∧ (G co).loc = co.loc ∧ (G co).evec = co.evec := fun co => by
    subst hG; exact ⟨rfl, rfl, rfl⟩
  refine ⟨G, fun co => ⟨(h1 co).1, (h1 co).2.1⟩, ?_⟩
  have hc : (s.took.modCore k G).ctx k c = s.ctx k c := ctx_modCore _ _ _ _ (h1 _).1
  have he : ((s.took.modCore k G).core k).evec = (s.core k).evec := by
    rw [core_modCore_same, took_core]; exact (h1 _).2.2
  have hd : (s.took.modCore k G).doubleFault k c = false := by
    have : s.doubleFault k c = false := hf
    simpa only [State.doubleFault, State.inBundle, hc, he] using this
  unfold State.trapCtx
  rw [← hG]
  simp only [hc, hw, hd, he, Bool.and_false, Bool.false_eq_true, if_false]

/-- A trap that is no double fault is the normal entry (R371) and leaves every other context, core and memory. -/
theorem trapCtx_traps (cause : Cause) (epc : PcW) (eaddr : W64) (hw : (s.ctx k c).wait = .none) (hf : s.faultsOnce k c) :
    Traps k c cause epc eaddr s (.next (s.trapCtx k c cause epc eaddr true)) := by
  obtain ⟨G, hG, e⟩ := trapCtx_eq cause epc eaddr hw hf
  have hx : ∀ d, (s.took.modCore k G).ctx k d = s.ctx k d := fun d => ctx_modCore _ _ _ _ (hG _).1
  refine ⟨_, rfl, ?_⟩
  rw [e]
  refine ⟨rfl, ?_, fun d hd => ?_, fun j hj => ?_, ?_, rfl, rfl⟩
  · rw [ctx_modCtx_same, hx]; exact entered_enter ..
  · rw [ctx_modCtx_ne _ _ _ hd, hx]
  · rw [State.modCtx, core_modCore_ne _ _ hj, core_modCore_ne _ _ hj, took_core]
  · rw [State.modCtx, core_modCore_same, core_modCore_same, took_core]; exact (hG _).2

/-- The effect of a ready instruction that traps. -/
theorem issue_trap (h : Ready k c i f s) {w : State → Bool} {eff : State → Res} {cause : Cause} {eaddr : W64} {next : Bool}
    (hw : w s = false) (he : eff s = .trap cause eaddr next none) (hu : (s.ctx k c).undone = false)
    (hf : s.faultsOnce k c) :
    Traps k c cause (if next then (s.ctx k c).hart.pc + 12 else (s.ctx k c).hart.pc) eaddr s (issue i f w eff s) := by
  rw [issue_ready h hw, he]
  simp only [hu]
  exact trapCtx_traps _ _ _ h.anew hf

/-! ### A farrier's thread -/

section
variable {fr : FarId} {t : Fin 16}

/-- Where nothing is in flight, landing results changes no thread. -/
theorem landed_id {x : Thread} (h : x.flight = []) : x.landed = x := by
  cases x
  simp only at h
  subst h
  rfl

theorem wordCause_thread (h : s.cur = .thread fr t) {u : State} (hu : u.cur = s.cur) : wordCause i f u = wordCause i f s := by
  simp only [wordCause, hu, h]

/-- A ready instruction of a thread comes to its effect, on the state with the thread's landed results, of which it has none. -/
theorem issue_farReady (h : FarReady fr t i f s) {w : State → Bool} {eff : State → Res}
    (hw : w s = false) :
    issue i f w eff s = .next (match eff (s.modThread fr t Thread.landed) with
      | .ok u _ => retireThread fr t f ((s.thread fr t).hart.pc + 12) (cost 0 i f).1 u
      | .jump pc u => retireThread fr t f pc 1 u
      | .trap cause _ _ st => (st.getD (s.modThread fr t Thread.landed)).kill fr t cause
      | .hold u => u
      | .wait u => u.took) := by
  have hx : (s.modThread fr t Thread.landed).thread fr t = s.thread fr t := by
    rw [thread_modThread_same, landed_id h.landed]
  have hc : wordCause i f (s.modThread fr t Thread.landed) = none := by
    rw [wordCause_thread h.turn (modThread_cur ..)]; exact h.word
  unfold issue
  rw [h.turn]
  simp only [issueThread, hx, hc, h.budget, h.guarded, hw, if_false, Bool.not_true, Bool.false_eq_true]
  all_goals (cases eff (s.modThread fr t Thread.landed) <;> rfl)
end

end

end Sys2Proof.Machine
end

