-- ==== Sys2Proof/Laws/Loader.lean ====
section
/-! SUPPORT. Laws/Loader.lean: the loader's places: what `freePlace` answers, and where pages, sections and loads find one
(R407, R411). -/

namespace Sys2Proof.Machine
set_option Elab.async false

/-- A place lies within its bounds, on its alignment and apart from all that is in use. -/
theorem freePlace_spec {used : List (Nat × Nat)} {lo hi size align seed a : Nat}
    (h : freePlace used lo hi size align seed = some a) :
    lo ≤ a ∧ a + size ≤ hi ∧ apart used a size = true ∧ a % align = 0 := by
  have hp := List.find?_some h
  simp only [Bool.and_eq_true, decide_eq_true_eq] at hp
  refine ⟨hp.1.1, hp.1.2, hp.2, ?_⟩
  have hm := List.mem_of_find?_eq_some h
  simp only [List.mem_cons, List.mem_map] at hm
  rcases hm with rfl | rfl | ⟨r, -, rfl⟩ <;> simp [Nat.add_mod, Nat.mul_mod_left]

/-- Where one place is free, one is found. -/
theorem freePlace_isSome {used : List (Nat × Nat)} {lo hi size align a : Nat} (seed : Nat)
    (hm : a = (lo + align - 1) / align * align ∨ ∃ r ∈ used, a = (r.1 + r.2 + align - 1) / align * align)
    (hl : lo ≤ a) (hh : a + size ≤ hi) (hu : apart used a size = true) : (freePlace used lo hi size align seed).isSome = true := by
  rw [freePlace, List.find?_isSome]
  refine ⟨a, ?_, by simp [hl, hh, hu]⟩
  simp only [List.mem_cons, List.mem_map]
  rcases hm with rfl | ⟨r, hr, rfl⟩
  · exact .inr (.inl rfl)
  · exact .inr (.inr ⟨r, hr, rfl⟩)

/-- Where no root is valid, a page is mapped nowhere. -/
theorem mapPage_none {s : State} {p : PkgId} (h : ∀ d, (s.die d).root.toNat % 2 = 0) (key : BitVec 512) (va pa : Nat) (w x u : Bool) :
    s.mapPage p key va pa w x u = some s := by
  simp [State.mapPage, List.range, List.range.loop, h]

/-- A code section inside one page is placed where there is a page for it. -/
theorem placeSect_isSome {s : State} {p : PkgId} {key : BitVec 512} {t : BoundSect} (h : ∀ d, (s.die d).root.toNat % 2 = 0)
    (hp : (s.pkg p).pages = []) (h1 : 0 < t.bytes.length) (h2 : t.va % 65536 + t.bytes.length ≤ 65536)
    (ht : ∀ va, (s.takePage p key va).isSome = true) : (s.placeSect p key false t).isSome = true := by
  have e : (t.va + t.bytes.length + 65535) / 65536 - t.va / 65536 = 1 := by omega
  obtain ⟨r, hr⟩ := Option.isSome_iff_exists.mp (ht ((t.va / 65536 + 0) * 65536))
  have hd : ∀ d, (r.2.die d).root.toNat % 2 = 0 := by
    intro d
    have : r.2.die d = s.die d := by
      simp only [State.takePage, Option.map_eq_some_iff] at hr
      obtain ⟨a, -, rfl⟩ := hr
      rfl
    rw [this]; exact h d
  simp only [State.placeSect, e, List.range, List.range.loop, List.foldl, Option.bind_some, State.pageFor, hp, List.find?_nil, hr,
    mapPage_none hd, Option.map_some, Option.isSome_some]

/-- Where no root is valid, nothing is mapped. -/
theorem translations_none {s : State} (h : ∀ d, (s.die d).root.toNat % 2 = 0) (p : PkgId) : s.translations p = [] := by
  simp [State.translations, h]

/-- The code ranges take none of the physical memory. -/
theorem usedMem_ranges {s : State} (h : ∀ d, (s.die d).root.toNat % 2 = 0) (p : PkgId) (f : Pkg → List Placed) :
    (s.modPkg p fun x => { x with ranges := f x }).usedMem p = s.usedMem p := by
  have h' : ∀ d, ((s.modPkg p fun x => { x with ranges := f x }).die d).root.toNat % 2 = 0 := h
  have hd : ∀ d, (s.modPkg p fun x => { x with ranges := f x }).die d = s.die d := fun _ => rfl
  simp only [State.usedMem, State.region, translations_none h, translations_none h', pkg_modPkg_same, hd]

theorem pageRegions_ranges (s : State) (p : PkgId) (f : Pkg → List Placed) :
    (s.modPkg p fun x => { x with ranges := f x }).pageRegions p = s.pageRegions p := by
  simp only [State.pageRegions, pkg_modPkg_same]

/-- Where a region has room for a page, one is taken. -/
theorem takePage_isSome {s : State} {p : PkgId} {r : Region} {a : Nat} (key : BitVec 512) (va : Nat) (hr : r ∈ s.pageRegions p)
    (hm : a = (r.base + 65536 - 1) / 65536 * 65536 ∨ ∃ e ∈ s.usedMem p, a = (e.1 + e.2 + 65536 - 1) / 65536 * 65536)
    (hl : r.base ≤ a) (hh : a + 65536 ≤ r.base + 2 ^ r.lsz) (hu : apart (s.usedMem p) a 65536 = true) :
    (s.takePage p key va).isSome = true := by
  have := freePlace_isSome (pick s.fresh 0) hm hl hh hu
  simp only [State.takePage, Option.isSome_map, List.findSome?_isSome_iff]
  exact ⟨r, hr, this⟩

/-- An object of one section is stored where its section is placed. -/
theorem storeBound_one {s : State} {p : PkgId} {key : BitVec 512} {b : Bound} {t : BoundSect} (h : b.sects = [t]) :
    s.storeBound p key b = (s.modPkg p fun x =>
      { x with ranges := (x.ranges.filter fun r => r.key != key || r.base != b.base) ++ [⟨b.base, b.lsz, b.sup, key⟩] }).placeSect p key b.sup t := by
  unfold State.storeBound
  generalize State.modPkg s p _ = u
  rw [h, List.foldl_cons, List.foldl_nil, Option.bind_some]

/-- A load with no launch counter ends well in one package where there is room and its sections can be stored. -/
theorem finishLoad_isSome {s : State} {p : PkgId} {key : BitVec 512} {b : Bound} {d : Bool} (h1 : s.roomFor p key b = true)
    (h2 : (s.storeBound p key b).isSome = true) (h3 : b.launches = []) : (s.finishLoad p [] [(p, key, b, d)]).isSome = true := by
  simp only [State.finishLoad, State.publish, Option.isSome_map, List.map_cons, List.map_nil, List.any_cons, List.any_nil, h1, h3,
    Bool.not_true, Bool.or_false, Bool.false_eq_true, if_false, List.foldl_cons, List.foldl_nil, Option.bind_some, h2]

end Sys2Proof.Machine
end

