-- ==== Sys2Proof/Laws/Memory.lean ====
section
/-! SUPPORT. Laws/Memory.lean: byte memories: what a write leaves and what it changes, and the canonical form that every
write of bytes keeps. -/

namespace Sys2Proof.Machine
set_option Elab.async false

/-! ### Bytes -/

/-- The addresses listed lie above `l`. -/
def MemAbove (l : Nat) (m : Memory) : Prop := ∀ e ∈ m, l < e.1

theorem memWf_cons {a : Nat} {b : Byte} {m : Memory} :
    memWf ((a, b) :: m) = true ↔ b ≠ emptyByte ∧ MemAbove a m ∧ memWf m = true := by
  induction m generalizing a b with
  | nil => simp [memWf, MemAbove]
  | cons e t ih =>
    obtain ⟨c, d⟩ := e
    simp only [memWf, Bool.and_eq_true, bne_iff_ne, decide_eq_true_eq]
    constructor
    · rintro ⟨⟨hb, hac⟩, hw⟩
      refine ⟨hb, fun e he => ?_, hw⟩
      rcases List.mem_cons.mp he with rfl | h
      · exact hac
      · exact Nat.lt_trans hac ((ih.mp hw).2.1 e h)
    · rintro ⟨hb, ha, hw⟩
      exact ⟨⟨hb, ha (c, d) (by simp)⟩, hw⟩

theorem memAbove_cons {l a : Nat} {b : Byte} {m : Memory} : MemAbove l ((a, b) :: m) ↔ l < a ∧ MemAbove l m := by
  simp [MemAbove]

theorem memSet_above {l a : Nat} {b : Byte} {m : Memory} (h : MemAbove l m) (ha : l < a) : MemAbove l (memSet m a b) := by
  induction m with
  | nil =>
    simp only [memSet]
    split <;> simp_all [MemAbove]
  | cons e t ih =>
    obtain ⟨c, d⟩ := e
    obtain ⟨hc, ht⟩ := memAbove_cons.mp h
    have := ih ht
    unfold memSet
    repeat' split
    all_goals simp_all [memAbove_cons]

/-- A byte written keeps the canonical form. -/
theorem memSet_wf {m : Memory} (a : Nat) (b : Byte) (h : memWf m = true) : memWf (memSet m a b) = true := by
  induction m with
  | nil =>
    simp only [memSet]
    split
    · rfl
    · simpa [memWf]
  | cons e t ih =>
    obtain ⟨c, d⟩ := e
    obtain ⟨hd, hc, ht⟩ := memWf_cons.mp h
    simp only [memSet]
    split
    · next hac =>
      split
      · exact h
      · refine memWf_cons.mpr ⟨by assumption, fun e he => ?_, h⟩
        rcases List.mem_cons.mp he with rfl | he
        · exact hac
        · exact Nat.lt_trans hac (hc e he)
    · split
      · next hac =>
        subst hac
        split
        · exact ht
        · exact memWf_cons.mpr ⟨by assumption, hc, ht⟩
      · exact memWf_cons.mpr ⟨hd, memSet_above hc (by omega), ih ht⟩

/-- Every write of bytes keeps the canonical form. -/
theorem memWrite_wf {m : Memory} (a : Nat) (bs : List (Option Byte)) (h : memWf m = true) : memWf (memWrite m a bs) = true := by
  induction bs generalizing m a with
  | nil => exact h
  | cons b t ih =>
    cases b with
    | none => exact ih _ h
    | some b => exact ih _ (memSet_wf a b h)

theorem memGet_cons (c : Nat) (d : Byte) (t : Memory) (x : Nat) :
    memGet ((c, d) :: t) x = if x = c then d else memGet t x := by
  by_cases h : x = c
  · simp [memGet, h]
  · have : (x == c) = false := by simpa
    simp [memGet, List.lookup_cons, this, h]

theorem memGet_above {l a : Nat} {m : Memory} (h : MemAbove l m) (ha : a ≤ l) : memGet m a = emptyByte := by
  induction m with
  | nil => rfl
  | cons e t ih =>
    obtain ⟨hc, ht⟩ := memAbove_cons.mp h
    rw [memGet_cons, if_neg (by omega), ih ht]

/-- A byte is read back, and every other byte is as before. -/
theorem memGet_memSet {m : Memory} (a x : Nat) (b : Byte) (h : memWf m = true) :
    memGet (memSet m a b) x = if x = a then b else memGet m x := by
  induction m with
  | nil =>
    simp only [memSet]
    split
    · next hb => split <;> simp_all [memGet]
    · rw [memGet_cons]
  | cons e t ih =>
    obtain ⟨c, d⟩ := e
    obtain ⟨-, hc, ht⟩ := memWf_cons.mp h
    simp only [memSet]
    split
    · next hac =>
      split
      · next hb =>
        by_cases hx : x = a
        · subst hx
          rw [if_pos rfl, memGet_cons, if_neg (by omega), memGet_above hc (by omega), hb]
        · rw [if_neg hx]
      · rw [memGet_cons]
    · split
      · next hac =>
        subst hac
        split
        · next hb =>
          by_cases hx : x = a
          · subst hx
            rw [if_pos rfl, memGet_above hc (Nat.le_refl _), hb]
          · rw [if_neg hx, memGet_cons, if_neg hx]
        · rw [memGet_cons, memGet_cons]
          split <;> rfl
      · next hac =>
        rw [memGet_cons, memGet_cons, ih ht]
        by_cases hx : x = a
        · subst hx; rw [if_neg (by omega)]; simp
        · simp [hx]

/-- Reset lists nothing, which is canonical. -/
theorem reset_mem_wf : memWf State.reset.mem = true := rfl

/-! ### Numbers and bytes -/

theorem leBytes_length (n x : Nat) : (leBytes n x).length = n := by
  induction n generalizing x with
  | zero => rfl
  | succ n ih => simp [leBytes, ih]

theorem leNat_lt (l : List Byte) : leNat l < 256 ^ l.length := by
  induction l with
  | nil => simp [leNat]
  | cons b t ih =>
    have := b.isLt
    simp only [leNat, List.length_cons, Nat.pow_succ]
    omega

/-- The little-endian number of a number's bytes. -/
theorem leNat_leBytes (n x : Nat) : leNat (leBytes n x) = x % 256 ^ n := by
  induction n generalizing x with
  | zero => simp [leNat, leBytes, Nat.mod_one]
  | succ n ih =>
    simp only [leBytes, leNat, ih, BitVec.toNat_ofNat]
    have h : 256 ^ (n + 1) = 256 * 256 ^ n := Nat.pow_succ'
    rw [h, Nat.mod_mul]

end Sys2Proof.Machine
end

