-- ==== Sys2Proof/Laws/PerInstr.lean ====
section
/-! SUPPORT. Laws/PerInstr.lean: the opcode and the fields of a legal instruction name it (R50), one lemma per constructor. -/

namespace Sys2Proof.Laws
set_option Elab.async false

/-- A legal instruction is the one that the opcode map names by its opcode and fields; an event has no fields. -/
def Named.Statement (i : Instr) : Prop :=
  ∀ f, i.fields = some f → Machine.legal i = true → build i.opcode.toNat f = some i

/-- A modifier bit outside the fields an instruction uses is clear. -/
theorem bit_of_only (f : Fields) (m : BitVec 32) (n : Nat) (h : f.only m = true) (hm : m.getLsbD n = false) (hn : n < 32) : f.bit n = false := by
  have h0 : f.mi &&& ~~~m = 0 := by simpa [Fields.only] using h
  have h1 : (f.mi &&& ~~~m).getLsbD n = false := by rw [h0]; exact BitVec.getLsbD_zero
  rw [BitVec.getLsbD_and, BitVec.getLsbD_not, hm] at h1
  simpa [Fields.bit, hn] using h1

theorem Named.nop f : Named.Statement (.nop f) := by rintro _ ⟨⟩ _; rfl
theorem Named.add f : Named.Statement (.add f) := by rintro _ ⟨⟩ _; rfl
theorem Named.sub f : Named.Statement (.sub f) := by rintro _ ⟨⟩ _; rfl
theorem Named.mul f : Named.Statement (.mul f) := by rintro _ ⟨⟩ _; rfl
theorem Named.mulh f : Named.Statement (.mulh f) := by rintro _ ⟨⟩ _; rfl
theorem Named.mulhn f : Named.Statement (.mulhn f) := by rintro _ ⟨⟩ _; rfl
theorem Named.div f : Named.Statement (.div f) := by rintro _ ⟨⟩ _; rfl
theorem Named.divn f : Named.Statement (.divn f) := by rintro _ ⟨⟩ _; rfl
theorem Named.remI f : Named.Statement (.remI f) := by rintro _ ⟨⟩ _; rfl
theorem Named.remn f : Named.Statement (.remn f) := by rintro _ ⟨⟩ _; rfl
theorem Named.andI f : Named.Statement (.andI f) := by rintro _ ⟨⟩ _; rfl
theorem Named.orI f : Named.Statement (.orI f) := by rintro _ ⟨⟩ _; rfl
theorem Named.xorI f : Named.Statement (.xorI f) := by rintro _ ⟨⟩ _; rfl
theorem Named.andn f : Named.Statement (.andn f) := by rintro _ ⟨⟩ _; rfl
theorem Named.shl f : Named.Statement (.shl f) := by rintro _ ⟨⟩ _; rfl
theorem Named.shr f : Named.Statement (.shr f) := by rintro _ ⟨⟩ _; rfl
theorem Named.sra f : Named.Statement (.sra f) := by rintro _ ⟨⟩ _; rfl
theorem Named.minI f : Named.Statement (.minI f) := by rintro _ ⟨⟩ _; rfl
theorem Named.maxI f : Named.Statement (.maxI f) := by rintro _ ⟨⟩ _; rfl
theorem Named.minn f : Named.Statement (.minn f) := by rintro _ ⟨⟩ _; rfl
theorem Named.maxn f : Named.Statement (.maxn f) := by rintro _ ⟨⟩ _; rfl
theorem Named.clz f : Named.Statement (.clz f) := by rintro _ ⟨⟩ _; rfl
theorem Named.ctz f : Named.Statement (.ctz f) := by rintro _ ⟨⟩ _; rfl
theorem Named.popc f : Named.Statement (.popc f) := by rintro _ ⟨⟩ _; rfl
theorem Named.extI f : Named.Statement (.extI f) := by rintro _ ⟨⟩ _; rfl
theorem Named.li f : Named.Statement (.li f) := by rintro _ ⟨⟩ _; rfl
theorem Named.lih f : Named.Statement (.lih f) := by rintro _ ⟨⟩ _; rfl
theorem Named.sel f : Named.Statement (.sel f) := by rintro _ ⟨⟩ _; rfl
theorem Named.mkadr f : Named.Statement (.mkadr f) := by rintro _ ⟨⟩ _; rfl
theorem Named.adrx f : Named.Statement (.adrx f) := by rintro _ ⟨⟩ _; rfl
theorem Named.ceq f : Named.Statement (.ceq f) := by rintro _ ⟨⟩ _; rfl
theorem Named.cne f : Named.Statement (.cne f) := by rintro _ ⟨⟩ _; rfl
theorem Named.clt f : Named.Statement (.clt f) := by rintro _ ⟨⟩ _; rfl
theorem Named.cle f : Named.Statement (.cle f) := by rintro _ ⟨⟩ _; rfl
theorem Named.cltn f : Named.Statement (.cltn f) := by rintro _ ⟨⟩ _; rfl
theorem Named.clen f : Named.Statement (.clen f) := by rintro _ ⟨⟩ _; rfl
theorem Named.cand f : Named.Statement (.cand f) := by rintro _ ⟨⟩ _; rfl
theorem Named.cor f : Named.Statement (.cor f) := by rintro _ ⟨⟩ _; rfl
theorem Named.cxor f : Named.Statement (.cxor f) := by rintro _ ⟨⟩ _; rfl
theorem Named.cset f : Named.Statement (.cset f) := by rintro _ ⟨⟩ _; rfl
theorem Named.cget f : Named.Statement (.cget f) := by rintro _ ⟨⟩ _; rfl
theorem Named.br f : Named.Statement (.br f) := by rintro _ ⟨⟩ _; rfl
theorem Named.jr f : Named.Statement (.jr f) := by rintro _ ⟨⟩ _; rfl
theorem Named.call f : Named.Statement (.call f) := by rintro _ ⟨⟩ _; rfl
theorem Named.callr f : Named.Statement (.callr f) := by rintro _ ⟨⟩ _; rfl
theorem Named.ret f : Named.Statement (.ret f) := by rintro _ ⟨⟩ _; rfl
theorem Named.loopI f : Named.Statement (.loopI f) := by rintro _ ⟨⟩ _; rfl
theorem Named.lbrk f : Named.Statement (.lbrk f) := by rintro _ ⟨⟩ _; rfl
theorem Named.doneI f : Named.Statement (.doneI f) := by rintro _ ⟨⟩ _; rfl
theorem Named.waitUnack f : Named.Statement (.waitUnack f) := by
  rintro _ ⟨⟩ h
  show waitForm f = _
  simp only [Machine.legal, Machine.waitLegal, Bool.and_eq_true, beq_iff_eq] at h
  simp [waitForm, h]
theorem Named.waitEng f : Named.Statement (.waitEng f) := by
  rintro _ ⟨⟩ h
  show waitForm f = _
  simp only [Machine.legal, Machine.waitLegal, Bool.and_eq_true, beq_iff_eq] at h
  simp [waitForm, h]
theorem Named.waitAll f : Named.Statement (.waitAll f) := by
  rintro _ ⟨⟩ h
  show waitForm f = _
  simp only [Machine.legal, Machine.waitLegal, Bool.and_eq_true, beq_iff_eq] at h
  simp [waitForm, h]
theorem Named.waitTime f : Named.Statement (.waitTime f) := by
  rintro _ ⟨⟩ h
  show waitForm f = _
  simp only [Machine.legal, Machine.waitLegal, Bool.and_eq_true, beq_iff_eq] at h
  simp [waitForm, h]
theorem Named.halt f : Named.Statement (.halt f) := by rintro _ ⟨⟩ _; rfl
theorem Named.csrr f : Named.Statement (.csrr f) := by rintro _ ⟨⟩ _; rfl
theorem Named.csrw f : Named.Statement (.csrw f) := by rintro _ ⟨⟩ _; rfl
theorem Named.csrs f : Named.Statement (.csrs f) := by rintro _ ⟨⟩ _; rfl
theorem Named.csrc f : Named.Statement (.csrc f) := by rintro _ ⟨⟩ _; rfl
theorem Named.sysI f : Named.Statement (.sysI f) := by rintro _ ⟨⟩ _; rfl
theorem Named.brk f : Named.Statement (.brk f) := by rintro _ ⟨⟩ _; rfl
theorem Named.eret f : Named.Statement (.eret f) := by rintro _ ⟨⟩ _; rfl
theorem Named.vadd f : Named.Statement (.vadd f) := by rintro _ ⟨⟩ _; rfl
theorem Named.vsub f : Named.Statement (.vsub f) := by rintro _ ⟨⟩ _; rfl
theorem Named.vmul f : Named.Statement (.vmul f) := by rintro _ ⟨⟩ _; rfl
theorem Named.vfma f : Named.Statement (.vfma f) := by rintro _ ⟨⟩ _; rfl
theorem Named.vfms f : Named.Statement (.vfms f) := by rintro _ ⟨⟩ _; rfl
theorem Named.vfnm f : Named.Statement (.vfnm f) := by rintro _ ⟨⟩ _; rfl
theorem Named.vdiv f : Named.Statement (.vdiv f) := by rintro _ ⟨⟩ _; rfl
theorem Named.vmin f : Named.Statement (.vmin f) := by rintro _ ⟨⟩ _; rfl
theorem Named.vmax f : Named.Statement (.vmax f) := by rintro _ ⟨⟩ _; rfl
theorem Named.vabs f : Named.Statement (.vabs f) := by rintro _ ⟨⟩ _; rfl
theorem Named.vneg f : Named.Statement (.vneg f) := by rintro _ ⟨⟩ _; rfl
theorem Named.vsqrt f : Named.Statement (.vsqrt f) := by rintro _ ⟨⟩ _; rfl
theorem Named.vrcp f : Named.Statement (.vrcp f) := by rintro _ ⟨⟩ _; rfl
theorem Named.vrsq f : Named.Statement (.vrsq f) := by rintro _ ⟨⟩ _; rfl
theorem Named.vexp f : Named.Statement (.vexp f) := by rintro _ ⟨⟩ _; rfl
theorem Named.vlog f : Named.Statement (.vlog f) := by rintro _ ⟨⟩ _; rfl
theorem Named.vsin f : Named.Statement (.vsin f) := by rintro _ ⟨⟩ _; rfl
theorem Named.vcos f : Named.Statement (.vcos f) := by rintro _ ⟨⟩ _; rfl
theorem Named.vtanh f : Named.Statement (.vtanh f) := by rintro _ ⟨⟩ _; rfl
theorem Named.vsigm f : Named.Statement (.vsigm f) := by rintro _ ⟨⟩ _; rfl
theorem Named.vcmp f : Named.Statement (.vcmp f) := by rintro _ ⟨⟩ _; rfl
theorem Named.vsel f : Named.Statement (.vsel f) := by rintro _ ⟨⟩ _; rfl
theorem Named.vbound f : Named.Statement (.vbound f) := by rintro _ ⟨⟩ _; rfl
theorem Named.vwidth f : Named.Statement (.vwidth f) := by rintro _ ⟨⟩ _; rfl
theorem Named.vsplat f : Named.Statement (.vsplat f) := by rintro _ ⟨⟩ _; rfl
theorem Named.vins f : Named.Statement (.vins f) := by rintro _ ⟨⟩ _; rfl
theorem Named.vextr f : Named.Statement (.vextr f) := by rintro _ ⟨⟩ _; rfl
theorem Named.vperm f : Named.Statement (.vperm f) := by rintro _ ⟨⟩ _; rfl
theorem Named.vslide f : Named.Statement (.vslide f) := by rintro _ ⟨⟩ _; rfl
theorem Named.vred f : Named.Statement (.vred f) := by rintro _ ⟨⟩ _; rfl
theorem Named.vcvt f : Named.Statement (.vcvt f) := by rintro _ ⟨⟩ _; rfl
theorem Named.vquant f : Named.Statement (.vquant f) := by rintro _ ⟨⟩ _; rfl
theorem Named.vqmax f : Named.Statement (.vqmax f) := by rintro _ ⟨⟩ _; rfl
theorem Named.vcomp f : Named.Statement (.vcomp f) := by rintro _ ⟨⟩ _; rfl
theorem Named.vexpd f : Named.Statement (.vexpd f) := by rintro _ ⟨⟩ _; rfl
theorem Named.viadd f : Named.Statement (.viadd f) := by rintro _ ⟨⟩ _; rfl
theorem Named.visub f : Named.Statement (.visub f) := by rintro _ ⟨⟩ _; rfl
theorem Named.vimul f : Named.Statement (.vimul f) := by rintro _ ⟨⟩ _; rfl
theorem Named.vand f : Named.Statement (.vand f) := by rintro _ ⟨⟩ _; rfl
theorem Named.vor f : Named.Statement (.vor f) := by rintro _ ⟨⟩ _; rfl
theorem Named.vxor f : Named.Statement (.vxor f) := by rintro _ ⟨⟩ _; rfl
theorem Named.vshl f : Named.Statement (.vshl f) := by rintro _ ⟨⟩ _; rfl
theorem Named.vshr f : Named.Statement (.vshr f) := by rintro _ ⟨⟩ _; rfl
theorem Named.vmov f : Named.Statement (.vmov f) := by rintro _ ⟨⟩ _; rfl
theorem Named.mand f : Named.Statement (.mand f) := by rintro _ ⟨⟩ _; rfl
theorem Named.mor f : Named.Statement (.mor f) := by rintro _ ⟨⟩ _; rfl
theorem Named.mxor f : Named.Statement (.mxor f) := by rintro _ ⟨⟩ _; rfl
theorem Named.mcnt f : Named.Statement (.mcnt f) := by rintro _ ⟨⟩ _; rfl
theorem Named.jseed f : Named.Statement (.jseed f) := by rintro _ ⟨⟩ _; rfl
theorem Named.jconst f : Named.Statement (.jconst f) := by rintro _ ⟨⟩ _; rfl
theorem Named.jget f : Named.Statement (.jget f) := by rintro _ ⟨⟩ _; rfl
theorem Named.jset f : Named.Statement (.jset f) := by rintro _ ⟨⟩ _; rfl
theorem Named.jshift f : Named.Statement (.jshift f) := by rintro _ ⟨⟩ _; rfl
theorem Named.jdiff f : Named.Statement (.jdiff f) := by rintro _ ⟨⟩ _; rfl
theorem Named.jint f : Named.Statement (.jint f) := by rintro _ ⟨⟩ _; rfl
theorem Named.jtrunc f : Named.Statement (.jtrunc f) := by rintro _ ⟨⟩ _; rfl
theorem Named.amma f : Named.Statement (.amma f) := by rintro _ ⟨⟩ _; rfl
theorem Named.azero f : Named.Statement (.azero f) := by rintro _ ⟨⟩ _; rfl
theorem Named.ald f : Named.Statement (.ald f) := by rintro _ ⟨⟩ _; rfl
theorem Named.ast f : Named.Statement (.ast f) := by rintro _ ⟨⟩ _; rfl
theorem Named.arow f : Named.Statement (.arow f) := by rintro _ ⟨⟩ _; rfl
theorem Named.adrain f : Named.Statement (.adrain f) := by rintro _ ⟨⟩ _; rfl
theorem Named.ascale f : Named.Statement (.ascale f) := by rintro _ ⟨⟩ _; rfl
theorem Named.ld f : Named.Statement (.ld f) := by rintro _ ⟨⟩ _; rfl
theorem Named.st f : Named.Statement (.st f) := by rintro _ ⟨⟩ _; rfl
theorem Named.vld f : Named.Statement (.vld f) := by rintro _ ⟨⟩ _; rfl
theorem Named.vst f : Named.Statement (.vst f) := by rintro _ ⟨⟩ _; rfl
theorem Named.vldx f : Named.Statement (.vldx f) := by rintro _ ⟨⟩ _; rfl
theorem Named.vstx f : Named.Statement (.vstx f) := by rintro _ ⟨⟩ _; rfl
theorem Named.ldblk f : Named.Statement (.ldblk f) := by rintro _ ⟨⟩ _; rfl
theorem Named.stblk f : Named.Statement (.stblk f) := by rintro _ ⟨⟩ _; rfl
theorem Named.ldmeta f : Named.Statement (.ldmeta f) := by rintro _ ⟨⟩ _; rfl
theorem Named.stmeta f : Named.Statement (.stmeta f) := by rintro _ ⟨⟩ _; rfl
theorem Named.phase f : Named.Statement (.phase f) := by rintro _ ⟨⟩ _; rfl
theorem Named.fence f : Named.Statement (.fence f) := by rintro _ ⟨⟩ _; rfl
theorem Named.aadd f : Named.Statement (.aadd f) := by rintro _ ⟨⟩ _; rfl
theorem Named.aand f : Named.Statement (.aand f) := by rintro _ ⟨⟩ _; rfl
theorem Named.aor f : Named.Statement (.aor f) := by rintro _ ⟨⟩ _; rfl
theorem Named.axor f : Named.Statement (.axor f) := by rintro _ ⟨⟩ _; rfl
theorem Named.amin f : Named.Statement (.amin f) := by rintro _ ⟨⟩ _; rfl
theorem Named.amax f : Named.Statement (.amax f) := by rintro _ ⟨⟩ _; rfl
theorem Named.axchg f : Named.Statement (.axchg f) := by rintro _ ⟨⟩ _; rfl
theorem Named.acas f : Named.Statement (.acas f) := by rintro _ ⟨⟩ _; rfl
theorem Named.afadd f : Named.Statement (.afadd f) := by rintro _ ⟨⟩ _; rfl
theorem Named.ablk f : Named.Statement (.ablk f) := by rintro _ ⟨⟩ _; rfl
theorem Named.pref f : Named.Statement (.pref f) := by rintro _ ⟨⟩ _; rfl
theorem Named.fset f : Named.Statement (.fset f) := by rintro _ ⟨⟩ _; rfl
theorem Named.fclr f : Named.Statement (.fclr f) := by rintro _ ⟨⟩ _; rfl
theorem Named.send f : Named.Statement (.send f) := by rintro _ ⟨⟩ _; rfl
theorem Named.sendr f : Named.Statement (.sendr f) := by rintro _ ⟨⟩ _; rfl
theorem Named.hop f : Named.Statement (.hop f) := by rintro _ ⟨⟩ _; rfl
theorem Named.dcopy f : Named.Statement (.dcopy f) := by rintro _ ⟨⟩ _; rfl
theorem Named.dgath f : Named.Statement (.dgath f) := by rintro _ ⟨⟩ _; rfl
theorem Named.dscad f : Named.Statement (.dscad f) := by rintro _ ⟨⟩ _; rfl
theorem Named.slacqP f : Named.Statement (.slacqP f) := by
  rintro _ ⟨⟩ h
  show slacqForm f = _
  simp only [Machine.legal, Bool.and_eq_true, beq_iff_eq] at h
  simp [slacqForm, Fields.bit, h]
theorem Named.slacqC f : Named.Statement (.slacqC f) := by
  rintro _ ⟨⟩ h
  show slacqForm f = _
  simp only [Machine.legal, Bool.and_eq_true, beq_iff_eq] at h
  simp [slacqForm, Fields.bit, h]
theorem Named.slrel f : Named.Statement (.slrel f) := by rintro _ ⟨⟩ _; rfl
theorem Named.slinit f : Named.Statement (.slinit f) := by rintro _ ⟨⟩ _; rfl
theorem Named.tjoin f : Named.Statement (.tjoin f) := by rintro _ ⟨⟩ _; rfl
theorem Named.tread f : Named.Statement (.tread f) := by rintro _ ⟨⟩ _; rfl
theorem Named.bar f : Named.Statement (.bar f) := by rintro _ ⟨⟩ _; rfl
theorem Named.qfence f : Named.Statement (.qfence f) := by rintro _ ⟨⟩ _; rfl
theorem Named.carm f : Named.Statement (.carm f) := by rintro _ ⟨⟩ _; rfl
theorem Named.cdis f : Named.Statement (.cdis f) := by rintro _ ⟨⟩ _; rfl
theorem Named.crdCnt f : Named.Statement (.crdCnt f) := by
  rintro _ ⟨⟩ h
  show crdForm f = _
  simp only [Machine.legal, Machine.crdLegal, Bool.and_eq_true, beq_iff_eq] at h
  have hb : f.bit 20 = false := bit_of_only f 0xE0000 20 h.1.2 (by decide) (by decide)
  simp [crdForm, hb, h]
theorem Named.crdStat f : Named.Statement (.crdStat f) := by
  rintro _ ⟨⟩ h
  show crdForm f = _
  simp only [Machine.legal, Machine.crdLegal, Bool.and_eq_true, beq_iff_eq] at h
  have hb : f.bit 20 = false := bit_of_only f 0xE0000 20 h.1.2 (by decide) (by decide)
  simp [crdForm, hb, h]
theorem Named.crdStatW f : Named.Statement (.crdStatW f) := by
  rintro _ ⟨⟩ h
  show crdForm f = _
  simp only [Machine.legal, Bool.and_eq_true, beq_iff_eq, Fields.bits] at h
  have h9 : f.mi.extractLsb' 17 4 = 9#4 := by apply BitVec.eq_of_toNat_eq; exact h.1.2
  have h20 : f.bit 20 = true := by
    have := congrArg (fun x => x.getLsbD 3) h9
    simpa [Fields.bit] using this
  have h1 : f.bits 17 3 = 1 := by
    have h3 : f.mi.extractLsb' 17 3 = (f.mi.extractLsb' 17 4).extractLsb' 0 3 := by
      apply BitVec.eq_of_getLsbD_eq
      intro j hj
      simp [hj, show j < 4 by omega]
    simp [Fields.bits, h3, h9]
  simp [crdForm, h20, h1]
theorem Named.crdTot f : Named.Statement (.crdTot f) := by
  rintro _ ⟨⟩ h
  show crdForm f = _
  simp only [Machine.legal, Machine.crdLegal, Bool.and_eq_true, beq_iff_eq] at h
  have hb : f.bit 20 = false := bit_of_only f 0xE0000 20 h.1.2 (by decide) (by decide)
  simp [crdForm, hb, h]
theorem Named.crdCons f : Named.Statement (.crdCons f) := by
  rintro _ ⟨⟩ h
  show crdForm f = _
  simp only [Machine.legal, Machine.crdLegal, Bool.and_eq_true, beq_iff_eq] at h
  have hb : f.bit 20 = false := bit_of_only f 0xE0000 20 h.1.2 (by decide) (by decide)
  simp [crdForm, hb, h]
theorem Named.crdProd f : Named.Statement (.crdProd f) := by
  rintro _ ⟨⟩ h
  show crdForm f = _
  simp only [Machine.legal, Machine.crdLegal, Bool.and_eq_true, beq_iff_eq] at h
  have hb : f.bit 20 = false := bit_of_only f 0xE0000 20 h.1.2 (by decide) (by decide)
  simp [crdForm, hb, h]
theorem Named.crdFab f : Named.Statement (.crdFab f) := by
  rintro _ ⟨⟩ h
  show crdForm f = _
  simp only [Machine.legal, Machine.crdLegal, Bool.and_eq_true, beq_iff_eq] at h
  have hb : f.bit 20 = false := bit_of_only f 0xE0000 20 h.1.2 (by decide) (by decide)
  simp [crdForm, hb, h]
theorem Named.crdMon f : Named.Statement (.crdMon f) := by
  rintro _ ⟨⟩ h
  show crdForm f = _
  simp only [Machine.legal, Machine.crdLegal, Bool.and_eq_true, beq_iff_eq] at h
  have hb : f.bit 20 = false := bit_of_only f 0xE0000 20 h.1.2 (by decide) (by decide)
  simp [crdForm, hb, h]
theorem Named.cadd f : Named.Statement (.cadd f) := by rintro _ ⟨⟩ _; rfl
theorem Named.pcrd f : Named.Statement (.pcrd f) := by rintro _ ⟨⟩ _; rfl
theorem Named.pccfg f : Named.Statement (.pccfg f) := by rintro _ ⟨⟩ _; rfl
theorem Named.rtset f : Named.Statement (.rtset f) := by rintro _ ⟨⟩ _; rfl
theorem Named.rtget f : Named.Statement (.rtget f) := by rintro _ ⟨⟩ _; rfl
theorem Named.rkset f : Named.Statement (.rkset f) := by rintro _ ⟨⟩ _; rfl
theorem Named.rkmovHold f : Named.Statement (.rkmovHold f) := by
  rintro _ ⟨⟩ h
  show rkmovForm f = _
  simp only [Machine.legal, Bool.and_eq_true, beq_iff_eq] at h
  simp [rkmovForm, Fields.bit, h]
theorem Named.rkmovRel f : Named.Statement (.rkmovRel f) := by
  rintro _ ⟨⟩ h
  show rkmovForm f = _
  simp only [Machine.legal, Bool.and_eq_true, beq_iff_eq] at h
  simp [rkmovForm, Fields.bit, h]
theorem Named.tlbinvPage f : Named.Statement (.tlbinvPage f) := by
  rintro _ ⟨⟩ h
  show tlbinvForm f = _
  have hb : f.bit 17 = false := bit_of_only f 0x1C00 17 (by simp only [Machine.legal, Bool.and_eq_true] at h; exact h.1.2) (by decide) (by decide)
  simp [tlbinvForm, hb]
theorem Named.tlbinvAll f : Named.Statement (.tlbinvAll f) := by
  rintro _ ⟨⟩ h
  show tlbinvForm f = _
  simp only [Machine.legal, Bool.and_eq_true] at h
  simp [tlbinvForm, h.1.2]
theorem Named.fbrd f : Named.Statement (.fbrd f) := by rintro _ ⟨⟩ _; rfl
theorem Named.replay f : Named.Statement (.replay f) := by
  rintro _ ⟨⟩ h
  show replayForm f = _
  have hb : f.bit 17 = false := bit_of_only f 0x1C00 17 (by simp only [Machine.legal, Bool.and_eq_true] at h; exact h.1.2) (by decide) (by decide)
  simp [replayForm, hb]
theorem Named.replayDeny f : Named.Statement (.replayDeny f) := by
  rintro _ ⟨⟩ h
  show replayForm f = _
  simp only [Machine.legal, Bool.and_eq_true] at h
  simp [replayForm, h.1.2]
theorem Named.pgownHost f : Named.Statement (.pgownHost f) := by
  rintro _ ⟨⟩ h
  show pgownForm f = _
  simp only [Machine.legal, Bool.and_eq_true, beq_iff_eq] at h
  simp [pgownForm, Fields.bit, h]
theorem Named.pgownDev f : Named.Statement (.pgownDev f) := by
  rintro _ ⟨⟩ h
  show pgownForm f = _
  simp only [Machine.legal, Bool.and_eq_true, beq_iff_eq] at h
  simp [pgownForm, Fields.bit, h]
theorem Named.htset f : Named.Statement (.htset f) := by rintro _ ⟨⟩ _; rfl
theorem Named.genAck f : Named.Statement (.genAck f) := by
  rintro _ ⟨⟩ h
  show genForm f = _
  simp only [Machine.legal, Machine.genLegal, Bool.and_eq_true, beq_iff_eq] at h
  simp [genForm, h]
theorem Named.genRd f : Named.Statement (.genRd f) := by
  rintro _ ⟨⟩ h
  show genForm f = _
  simp only [Machine.legal, Machine.genLegal, Bool.and_eq_true, beq_iff_eq] at h
  simp [genForm, h]
theorem Named.genRet f : Named.Statement (.genRet f) := by
  rintro _ ⟨⟩ h
  show genForm f = _
  simp only [Machine.legal, Machine.genLegal, Bool.and_eq_true, beq_iff_eq] at h
  simp [genForm, h]
theorem Named.genFree f : Named.Statement (.genFree f) := by
  rintro _ ⟨⟩ h
  show genForm f = _
  simp only [Machine.legal, Machine.genLegal, Bool.and_eq_true, beq_iff_eq] at h
  simp [genForm, h]
theorem Named.qcfgFuse f : Named.Statement (.qcfgFuse f) := by
  rintro _ ⟨⟩ h
  show qcfgForm f = _
  simp only [Machine.legal, Machine.qcfgLegal, Bool.and_eq_true, beq_iff_eq] at h
  simp [qcfgForm, h]
theorem Named.qcfgRoot f : Named.Statement (.qcfgRoot f) := by
  rintro _ ⟨⟩ h
  show qcfgForm f = _
  simp only [Machine.legal, Machine.qcfgLegal, Bool.and_eq_true, beq_iff_eq] at h
  simp [qcfgForm, h]
theorem Named.qcfgMemb f : Named.Statement (.qcfgMemb f) := by
  rintro _ ⟨⟩ h
  show qcfgForm f = _
  simp only [Machine.legal, Machine.qcfgLegal, Bool.and_eq_true, beq_iff_eq] at h
  simp [qcfgForm, h]
theorem Named.qcfgRankt f : Named.Statement (.qcfgRankt f) := by
  rintro _ ⟨⟩ h
  show qcfgForm f = _
  simp only [Machine.legal, Machine.qcfgLegal, Bool.and_eq_true, beq_iff_eq] at h
  simp [qcfgForm, h]
theorem Named.qcfgHtab f : Named.Statement (.qcfgHtab f) := by
  rintro _ ⟨⟩ h
  show qcfgForm f = _
  simp only [Machine.legal, Machine.qcfgLegal, Bool.and_eq_true, beq_iff_eq] at h
  simp [qcfgForm, h]
theorem Named.qcfgCplan f : Named.Statement (.qcfgCplan f) := by
  rintro _ ⟨⟩ h
  show qcfgForm f = _
  simp only [Machine.legal, Machine.qcfgLegal, Bool.and_eq_true, beq_iff_eq] at h
  simp [qcfgForm, h]
theorem Named.qcfgFeat f : Named.Statement (.qcfgFeat f) := by
  rintro _ ⟨⟩ h
  show qcfgForm f = _
  simp only [Machine.legal, Machine.qcfgLegal, Bool.and_eq_true, beq_iff_eq] at h
  simp [qcfgForm, h]
theorem Named.frzOn f : Named.Statement (.frzOn f) := by
  rintro _ ⟨⟩ h
  show frzForm f = _
  simp only [Machine.legal, Bool.and_eq_true, beq_iff_eq] at h
  simp [frzForm, Fields.bit, h]
theorem Named.frzOff f : Named.Statement (.frzOff f) := by
  rintro _ ⟨⟩ h
  show frzForm f = _
  simp only [Machine.legal, Bool.and_eq_true, beq_iff_eq] at h
  simp [frzForm, Fields.bit, h]
theorem Named.pdoneSave f : Named.Statement (.pdoneSave f) := by
  rintro _ ⟨⟩ h
  show pdoneForm f = _
  simp only [Machine.legal, Bool.and_eq_true, beq_iff_eq] at h
  simp [pdoneForm, Fields.bit, h]
theorem Named.pdoneRest f : Named.Statement (.pdoneRest f) := by
  rintro _ ⟨⟩ h
  show pdoneForm f = _
  simp only [Machine.legal, Bool.and_eq_true, beq_iff_eq] at h
  simp [pdoneForm, Fields.bit, h]
theorem Named.fdoneRes f : Named.Statement (.fdoneRes f) := by
  rintro _ ⟨⟩ h
  show fdoneForm f = _
  simp only [Machine.legal, Machine.fdoneLegal, Bool.and_eq_true, beq_iff_eq] at h
  simp [fdoneForm, h]
theorem Named.fdoneSat f : Named.Statement (.fdoneSat f) := by
  rintro _ ⟨⟩ h
  show fdoneForm f = _
  simp only [Machine.legal, Machine.fdoneLegal, Bool.and_eq_true, beq_iff_eq] at h
  simp [fdoneForm, h]
theorem Named.fdoneDeny f : Named.Statement (.fdoneDeny f) := by
  rintro _ ⟨⟩ h
  show fdoneForm f = _
  simp only [Machine.legal, Machine.fdoneLegal, Bool.and_eq_true, beq_iff_eq] at h
  simp [fdoneForm, h]
theorem Named.fdoneHold f : Named.Statement (.fdoneHold f) := by
  rintro _ ⟨⟩ h
  show fdoneForm f = _
  simp only [Machine.legal, Machine.fdoneLegal, Bool.and_eq_true, beq_iff_eq] at h
  simp [fdoneForm, h]
theorem Named.tagrd f : Named.Statement (.tagrd f) := by rintro _ ⟨⟩ _; rfl
theorem Named.tagwr f : Named.Statement (.tagwr f) := by rintro _ ⟨⟩ _; rfl
theorem Named.dirrd f : Named.Statement (.dirrd f) := by rintro _ ⟨⟩ _; rfl
theorem Named.dirwr f : Named.Statement (.dirwr f) := by rintro _ ⟨⟩ _; rfl
theorem Named.btx f : Named.Statement (.btx f) := by rintro _ ⟨⟩ _; rfl
theorem Named.frep f : Named.Statement (.frep f) := by rintro _ ⟨⟩ _; rfl
theorem Named.freq f : Named.Statement (.freq f) := by rintro _ ⟨⟩ _; rfl
theorem Named.fwake f : Named.Statement (.fwake f) := by rintro _ ⟨⟩ _; rfl
theorem Named.fpoison f : Named.Statement (.fpoison f) := by rintro _ ⟨⟩ _; rfl
theorem Named.fblk f : Named.Statement (.fblk f) := by rintro _ ⟨⟩ _; rfl
theorem Named.fsto f : Named.Statement (.fsto f) := by rintro _ ⟨⟩ _; rfl
theorem Named.gapCountExpiry a b : Named.Statement (.gapCountExpiry a b) := fun _ h => nomatch h
theorem Named.messageArrival a b : Named.Statement (.messageArrival a b) := fun _ h => nomatch h
theorem Named.hopMessageArrival a b : Named.Statement (.hopMessageArrival a b) := fun _ h => nomatch h
theorem Named.refusal a b : Named.Statement (.refusal a b) := fun _ h => nomatch h
theorem Named.backoffRetry a b : Named.Statement (.backoffRetry a b) := fun _ h => nomatch h
theorem Named.contextFreeNotice a b : Named.Statement (.contextFreeNotice a b) := fun _ h => nomatch h
theorem Named.reservationLapse a b : Named.Statement (.reservationLapse a b) := fun _ h => nomatch h
theorem Named.contextFree a b : Named.Statement (.contextFree a b) := fun _ h => nomatch h
theorem Named.messageAcceptance a b : Named.Statement (.messageAcceptance a b) := fun _ h => nomatch h
theorem Named.forwardedLoadReply a b : Named.Statement (.forwardedLoadReply a b) := fun _ h => nomatch h
theorem Named.accessReply a b : Named.Statement (.accessReply a b) := fun _ h => nomatch h
theorem Named.storeAck a b : Named.Statement (.storeAck a b) := fun _ h => nomatch h
theorem Named.tagReply a b : Named.Statement (.tagReply a b) := fun _ h => nomatch h
theorem Named.replyFaultEntry a b : Named.Statement (.replyFaultEntry a b) := fun _ h => nomatch h
theorem Named.interruptEntry a : Named.Statement (.interruptEntry a) := fun _ h => nomatch h
theorem Named.releaseComplete a : Named.Statement (.releaseComplete a) := fun _ h => nomatch h
theorem Named.fabricIntervalConfirm a b d : Named.Statement (.fabricIntervalConfirm a b d) := fun _ h => nomatch h
theorem Named.dflagsUpdate a b : Named.Statement (.dflagsUpdate a b) := fun _ h => nomatch h
theorem Named.anvilEntryStart a : Named.Statement (.anvilEntryStart a) := fun _ h => nomatch h
theorem Named.anvilEntryComplete a b : Named.Statement (.anvilEntryComplete a b) := fun _ h => nomatch h
theorem Named.drainWakeup a b : Named.Statement (.drainWakeup a b) := fun _ h => nomatch h
theorem Named.drayEntryStart a : Named.Statement (.drayEntryStart a) := fun _ h => nomatch h
theorem Named.drayFaultReport a : Named.Statement (.drayFaultReport a) := fun _ h => nomatch h
theorem Named.remoteWritePerformed a b : Named.Statement (.remoteWritePerformed a b) := fun _ h => nomatch h
theorem Named.remoteLoadRequest a b d : Named.Statement (.remoteLoadRequest a b d) := fun _ h => nomatch h
theorem Named.atomicAtHome a b : Named.Statement (.atomicAtHome a b) := fun _ h => nomatch h
theorem Named.countedStore a b d : Named.Statement (.countedStore a b d) := fun _ h => nomatch h
theorem Named.countMessage a b : Named.Statement (.countMessage a b) := fun _ h => nomatch h
theorem Named.counterFire a : Named.Statement (.counterFire a) := fun _ h => nomatch h
theorem Named.launchEnqueue a : Named.Statement (.launchEnqueue a) := fun _ h => nomatch h
theorem Named.slotFilled a b : Named.Statement (.slotFilled a b) := fun _ h => nomatch h
theorem Named.slotReturn a b : Named.Statement (.slotReturn a b) := fun _ h => nomatch h
theorem Named.slinitRecord a b : Named.Statement (.slinitRecord a b) := fun _ h => nomatch h
theorem Named.treeInject a : Named.Statement (.treeInject a) := fun _ h => nomatch h
theorem Named.treeResult a b : Named.Statement (.treeResult a b) := fun _ h => nomatch h
theorem Named.barrierComplete a b : Named.Statement (.barrierComplete a b) := fun _ h => nomatch h
theorem Named.vqmaxContribution a b : Named.Statement (.vqmaxContribution a b) := fun _ h => nomatch h
theorem Named.translationWalk a b d e : Named.Statement (.translationWalk a b d e) := fun _ h => nomatch h
theorem Named.accessPark a b d : Named.Statement (.accessPark a b d) := fun _ h => nomatch h
theorem Named.farrierDispatch a : Named.Statement (.farrierDispatch a) := fun _ h => nomatch h
theorem Named.gets a b : Named.Statement (.gets a b) := fun _ h => nomatch h
theorem Named.getx a b : Named.Statement (.getx a b) := fun _ h => nomatch h
theorem Named.wrI a b : Named.Statement (.wrI a b) := fun _ h => nomatch h
theorem Named.atI a b : Named.Statement (.atI a b) := fun _ h => nomatch h
theorem Named.rgets a b : Named.Statement (.rgets a b) := fun _ h => nomatch h
theorem Named.rgetx a b : Named.Statement (.rgetx a b) := fun _ h => nomatch h
theorem Named.rwr a b : Named.Statement (.rwr a b) := fun _ h => nomatch h
theorem Named.inv a b : Named.Statement (.inv a b) := fun _ h => nomatch h
theorem Named.fwd a b : Named.Statement (.fwd a b) := fun _ h => nomatch h
theorem Named.wbk a b : Named.Statement (.wbk a b) := fun _ h => nomatch h
theorem Named.push a b : Named.Statement (.push a b) := fun _ h => nomatch h
theorem Named.upd a b : Named.Statement (.upd a b) := fun _ h => nomatch h
theorem Named.hsnp a b : Named.Statement (.hsnp a b) := fun _ h => nomatch h
theorem Named.customRequest a b : Named.Statement (.customRequest a b) := fun _ h => nomatch h
theorem Named.initI a b : Named.Statement (.initI a b) := fun _ h => nomatch h
theorem Named.rebind a b : Named.Statement (.rebind a b) := fun _ h => nomatch h
theorem Named.rcv a b : Named.Statement (.rcv a b) := fun _ h => nomatch h
theorem Named.farrierReply a : Named.Statement (.farrierReply a) := fun _ h => nomatch h
theorem Named.curbKill a b : Named.Statement (.curbKill a b) := fun _ h => nomatch h
theorem Named.curbWaitTimeout a b : Named.Statement (.curbWaitTimeout a b) := fun _ h => nomatch h
theorem Named.jobTeardown a : Named.Statement (.jobTeardown a) := fun _ h => nomatch h
theorem Named.uncorrectableError a : Named.Statement (.uncorrectableError a) := fun _ h => nomatch h
theorem Named.preemptRequest a b : Named.Statement (.preemptRequest a b) := fun _ h => nomatch h
theorem Named.timeSliceExpiry a : Named.Statement (.timeSliceExpiry a) := fun _ h => nomatch h
theorem Named.preemptLocalCopy a : Named.Statement (.preemptLocalCopy a) := fun _ h => nomatch h
theorem Named.saveEntry a : Named.Statement (.saveEntry a) := fun _ h => nomatch h
theorem Named.preemptImageCopy a : Named.Statement (.preemptImageCopy a) := fun _ h => nomatch h
theorem Named.resumeRequest a : Named.Statement (.resumeRequest a) := fun _ h => nomatch h
theorem Named.resumeWriteback a : Named.Statement (.resumeWriteback a) := fun _ h => nomatch h
theorem Named.coreResume a : Named.Statement (.coreResume a) := fun _ h => nomatch h
theorem Named.hostWindowRead a b d : Named.Statement (.hostWindowRead a b d) := fun _ h => nomatch h
theorem Named.hostWindowWrite a b d e : Named.Statement (.hostWindowWrite a b d e) := fun _ h => nomatch h
theorem Named.hostSnoop a b d : Named.Statement (.hostSnoop a b d) := fun _ h => nomatch h
theorem Named.featureAcceptWrite a b d : Named.Statement (.featureAcceptWrite a b d) := fun _ h => nomatch h
theorem Named.preqWrite a b d : Named.Statement (.preqWrite a b d) := fun _ h => nomatch h
theorem Named.winWrite a b d : Named.Statement (.winWrite a b d) := fun _ h => nomatch h
theorem Named.barRegisterWrite a b d : Named.Statement (.barRegisterWrite a b d) := fun _ h => nomatch h
theorem Named.uploadFirmware a : Named.Statement (.uploadFirmware a) := fun _ h => nomatch h
theorem Named.loadHandlerSet a : Named.Statement (.loadHandlerSet a) := fun _ h => nomatch h
theorem Named.submitCodeObject a : Named.Statement (.submitCodeObject a) := fun _ h => nomatch h
theorem Named.attest a : Named.Statement (.attest a) := fun _ h => nomatch h
theorem Named.imageLoadRequest a b : Named.Statement (.imageLoadRequest a b) := fun _ h => nomatch h
theorem Named.deviceReset a b : Named.Statement (.deviceReset a b) := fun _ h => nomatch h
theorem Named.functionLevelReset a b : Named.Statement (.functionLevelReset a b) := fun _ h => nomatch h
theorem Named.frequencyStepDown a b d : Named.Statement (.frequencyStepDown a b d) := fun _ h => nomatch h
theorem Named.frequencyStepUp a b d : Named.Statement (.frequencyStepUp a b d) := fun _ h => nomatch h
theorem Named.thermalPreempt a b : Named.Statement (.thermalPreempt a b) := fun _ h => nomatch h
theorem Named.thermalTrip a b : Named.Statement (.thermalTrip a b) := fun _ h => nomatch h
theorem Named.platformEvent a b d : Named.Statement (.platformEvent a b d) := fun _ h => nomatch h
theorem Named.assayRun a b d : Named.Statement (.assayRun a b d) := fun _ h => nomatch h
theorem Named.carrierRetuneComplete a b : Named.Statement (.carrierRetuneComplete a b) := fun _ h => nomatch h
theorem Named.carrierUp a b : Named.Statement (.carrierUp a b) := fun _ h => nomatch h
theorem Named.fabricFrame a b d : Named.Statement (.fabricFrame a b d) := fun _ h => nomatch h
theorem Named.frameNak a b : Named.Statement (.frameNak a b) := fun _ h => nomatch h
theorem Named.carrierDown a b : Named.Statement (.carrierDown a b) := fun _ h => nomatch h
theorem Named.powerLoss a : Named.Statement (.powerLoss a) := fun _ h => nomatch h
theorem Named.correctedSoftError a b : Named.Statement (.correctedSoftError a b) := fun _ h => nomatch h
theorem Named.waitTimeDeadline a b : Named.Statement (.waitTimeDeadline a b) := fun _ h => nomatch h
theorem Named.instructionCompletion a b d : Named.Statement (.instructionCompletion a b d) := fun _ h => nomatch h
theorem Named.occupancyEnd a b : Named.Statement (.occupancyEnd a b) := fun _ h => nomatch h
theorem Named.tableInstructionComplete a b : Named.Statement (.tableInstructionComplete a b) := fun _ h => nomatch h
theorem Named.windowRegistrationComplete a b : Named.Statement (.windowRegistrationComplete a b) := fun _ h => nomatch h

end Sys2Proof.Laws
end

