-- ==== Sys2Proof/Tests/Slice0.lean ====
section
/-! SUPPORT. Tests/Slice0.lean: terms the checks of `legal` refuse, single steps with results taken from the rules, and for
each statement a state and operands that meet its hypotheses. -/

namespace Sys2Proof.Tests

open Sys2Proof.Machine
set_option Elab.async false

/-! ### Ill-formed terms, one for each check of R40, R42, R43, R46 and R67 -/

/-- Fields with an empty header. -/
def fld (a b c : Opd) (mi : BitVec 32) : Fields := ⟨⟨false, 0, 0, false, 0, 0⟩, a, b, c, mi⟩

theorem test_ill_class : ¬WellFormed (.add (fld (.v 1) (.g 2) (.g 3) 0)) := by decide +kernel
theorem test_ill_missing : ¬WellFormed (.clz (fld .none (.g 2) .none 0)) := by decide +kernel
theorem test_ill_extra : ¬WellFormed (.nop (fld (.g 1) .none .none 0)) := by decide +kernel
theorem test_ill_reserved_mi : ¬WellFormed (.clz (fld (.g 1) (.g 2) .none 1)) := by decide +kernel
theorem test_ill_imm_and_mi : ¬WellFormed (.add (fld (.g 1) (.g 2) (.g 3) 1)) := by decide +kernel
theorem test_ill_type : ¬WellFormed (.vadd (fld (.v 1) (.v 2) (.v 3) 0x1)) := by decide +kernel
theorem test_ill_rounding : ¬WellFormed (.vadd (fld (.v 1) (.v 2) (.v 3) 0x69)) := by decide +kernel
theorem test_ill_no_rounding : ¬WellFormed (.vmin (fld (.v 1) (.v 2) (.v 3) 0x09)) := by decide +kernel
theorem test_ill_field_sum : ¬WellFormed (.extI (fld (.g 1) (.g 2) .none (1 <<< 17 ||| 63 <<< 23))) := by decide +kernel
theorem test_ill_pair : ¬WellFormed (.amma (fld (.z 0) (.g 3) (.g 4) (7 ||| 7 <<< 18))) := by decide +kernel
theorem test_ill_mode_pair : ¬WellFormed (.amma (fld (.z 0) (.g 2) (.g 4) (7 ||| 4 <<< 18))) := by decide +kernel
theorem test_ill_post_increment : ¬WellFormed (.ld (fld (.g 1) (.g 2) (.g 3) 0)) := by decide +kernel
theorem test_ill_post_same : ¬WellFormed (.ld (fld (.g 2) (.g 2) (.g 2) 0)) := by decide +kernel
theorem test_ill_scope : ¬WellFormed (.fence (fld .none .none .none (5 <<< 10))) := by decide +kernel
theorem test_ill_order : ¬WellFormed (.aadd (fld (.g 1) (.g 2) (.g 3) (0xA ||| 2 <<< 10))) := by decide +kernel
theorem test_ill_signature : ¬WellFormed (.tjoin (fld .none (.v 1) .none (7 ||| 9 <<< 8 ||| 1 <<< 16 ||| 1 <<< 21))) := by decide +kernel
theorem test_ill_payload : ¬WellFormed (.send (fld (.g 1) (.g 10) .none (7 <<< 16))) := by decide +kernel
theorem test_ill_read_only : ¬WellFormed (.csrw (fld (.cr .rank) (.g 1) .none 0)) := by decide +kernel
theorem test_ill_sub_code : ¬WellFormed (.crdCnt (fld (.g 1) (.g 2) .none (1 <<< 17))) := by decide +kernel
theorem test_ill_loop : ¬WellFormed (.loopI (fld (.cr .lc0) (.g 1) .none 0)) := by decide +kernel
/-- An event is no word. -/
theorem test_ill_event : ¬WellFormed (.releaseComplete 0) := by decide +kernel
/-- Words refused: EXT not zero, an index past its class, a reserved opcode, a missing control register. -/
theorem test_ill_words : decode 0x000000100E00E00E00000000 = none ∧ decode 0x0040000014001002000000000 = none ∧
    decode 0x0A4000000000100200000000 = none ∧ decode 0x12400000001AFFE000000000 = none := by decide +kernel
/-- The words of EXT, class 7 with an index, and a reserved sub-code of `gen`'s neighbour `crd`. -/
theorem test_sub_code_words : decode 0x7280000001E0020300FE0000 = none ∧ decode 0x000000000E01E00E00000000 = none := by decide +kernel

/-! ### Two small machines -/

/-- A context at 0x180 in user mode, with its guards set but c5, and a few register values. -/
def ctxA : Ctx :=
  { hart := { g := Vector.ofFn fun n : Fin 16 => BitVec.ofNat 64 (256 * n.val), c := 0xDF, pc := 0x180 }, pool := .busy, sup := false }
/-- Core 5 with that context. -/
def coreA : Core := { ctxs := (Vector.replicate 8 ({} : Ctx)).set 0 ctxA, memb := 0x1F, evec := 0x3000 }
/-- Core 5, in whose context 0 the next instruction issues. -/
def onCore (x : Ctx → Ctx) (co : Core → Core) : State :=
  { cores := [(5, co { coreA with ctxs := (Vector.replicate 8 ({} : Ctx)).set 0 (x ctxA) })], pkgs := [(0, { bootst := 0 })], cur := .ctx 5 0 }
/-- The core at rest, in user and in supervisor mode. -/
def userS : State := onCore id id
def supS : State := onCore (fun x => { x with sup := true }) id
/-- The same with registers changed. -/
def withG (l : List (Fin 16 × W64)) : State := onCore (fun x => { x with hart := l.foldl (fun h p => h.setG p.1 p.2) x.hart }) id

/-- A request of a core of package 0 to its farrier. -/
def msgA : FMsg :=
  { uid := 3, ty := 0x00, blk := 0x40, region := 0, prot := 0, sup := true, acc := true, die := 0, pkg := 0, party := .acc 5 1 0 }
def threadA : Thread :=
  { hart := { g := Vector.ofFn fun n : Fin 16 => BitVec.ofNat 64 (64 * n.val), c := 0xDF, pc := 0x60 }, busy := true, fcurb := 16,
    msg := some msgA }
/-- Farrier 0, in whose thread 0 the next instruction issues. -/
def onThread (x : Thread → Thread) (g : Farrier → Farrier) : State :=
  { pkgs := [(0, { bootst := 0, far := [(0, g { threads := (Vector.replicate 16 ({} : Thread)).set 0 (x threadA) })] })], cur := .thread 0 0 }
def farS : State := onThread id id
def farG (l : List (Fin 16 × W64)) : State := onThread (fun x => { x with hart := l.foldl (fun h p => h.setG p.1 p.2) x.hart }) id

/-- `Eligible`, as a test. -/
def eligibleNow (k : CoreId) (c : Fin 8) (i : Instr) (f : Fields) (s : State) : Bool :=
  let x := s.ctx k c
  s.cur == .ctx k c && !x.windowWait && x.fwdIn == 0 && wordCause i f s == none &&
  (!x.lkchk || lkBroken x (.c f.hd.gc :: readsOf x.jord.toNat i f) (writesOf x.jord.toNat i f) == none) &&
  x.hart.guard f.hd && (!serial i || !x.undone)

theorem eligible_of {k : CoreId} {c : Fin 8} {i : Instr} {f : Fields} {s : State} (h : eligibleNow k c i f s = true) :
    Eligible k c i f s := by
  simp only [eligibleNow, Bool.and_eq_true, beq_iff_eq, Bool.or_eq_true, Bool.not_eq_true', and_assoc] at h
  obtain ⟨turn, window, forwarded, word, look, guarded, alone⟩ := h
  exact { turn, window, forwarded, word, guarded, lookahead := fun e => by simpa [e] using look, alone := fun e => by simpa [e] using alone }

/-- `Ready`, as a test. -/
def readyNow (k : CoreId) (c : Fin 8) (i : Instr) (f : Fields) (s : State) : Bool :=
  eligibleNow k c i f s && (s.ctx k c).wait == .none

theorem ready_of {k : CoreId} {c : Fin 8} {i : Instr} {f : Fields} {s : State} (h : readyNow k c i f s = true) :
    Ready k c i f s := by
  simp only [readyNow, Bool.and_eq_true, beq_iff_eq] at h
  exact ⟨eligible_of h.1, h.2⟩

/-- `FarReady`, as a test. -/
def farReadyNow (fr : FarId) (t : Fin 16) (i : Instr) (f : Fields) (s : State) : Bool :=
  let x := s.thread fr t
  s.cur == .thread fr t && x.fcurb != 0 && x.flight == [] && wordCause i f s == none && x.hart.guard f.hd

theorem farReady_of {fr : FarId} {t : Fin 16} {i : Instr} {f : Fields} {s : State} (h : farReadyNow fr t i f s = true) :
    FarReady fr t i f s := by
  simp only [farReadyNow, Bool.and_eq_true, beq_iff_eq, bne_iff_ne] at h
  obtain ⟨⟨⟨⟨h1, h2⟩, h3⟩, h4⟩, h5⟩ := h
  exact ⟨h1, h2, h3, h4, h5⟩

/-- `Quiet`, as a test. -/
def quietNow (k : CoreId) (c : Fin 8) (s : State) : Bool :=
  let x := s.ctx k c
  let co := s.core k
  s.lag == [] && x.wait == .none && x.flight == [] && x.fences == [] && x.pend == [] && co.accs == [] && co.rels == [] &&
  co.l1 == [] && co.wbs == [] && (co.anvil == [] && co.anvRun == none && co.drains == []) &&
  (co.dray == [] && co.drayRun == none && co.drayOut == [] && co.drayBad == []) &&
  (co.wiq == [] && co.ports == [] && co.refused == [] && co.rfaults == []) && co.retry == Vector.replicate 8 none &&
  co.pre.step == 0 && (!co.frozen && !co.fused) && s.fab == [] && (memWf s.mem && memWf co.loc)

theorem quiet_of {k : CoreId} {c : Fin 8} {s : State} (h : quietNow k c s = true) : Quiet k c s := by
  simp only [quietNow, Bool.and_eq_true, beq_iff_eq, Bool.not_eq_true', and_assoc] at h
  constructor <;> simp only [h, and_self]

/-! ### Every instruction is ready somewhere -/

/-- Every word of the core's groups that Decode.lean writes out is ready in the supervisor state (guards, modes and all). -/
theorem ready_core : ∀ e ∈ scalarWordsA ++ scalarWordsB ++ controlWords ++ vectorWordsA ++ vectorWordsB ++ jetWords ++ anvilWords ++
    memoryWordsA ++ memoryWordsB ++ messageWords ++ counterWords ++ tableWordsA ++ tableWordsB, ∃ f, e.2.fields = some f ∧ WellFormed e.2 ∧
      Ready 5 0 e.2 f supS := by
  have h : ∀ e ∈ scalarWordsA ++ scalarWordsB ++ controlWords ++ vectorWordsA ++ vectorWordsB ++ jetWords ++ anvilWords ++
      memoryWordsA ++ memoryWordsB ++ messageWords ++ counterWords ++ tableWordsA ++ tableWordsB,
      (match e.2.fields with | some f => legal e.2 && readyNow 5 0 e.2 f supS | none => false) = true := by decide +kernel
  intro e he
  have := h e he
  cases hf : e.2.fields with
  | none => simp [hf] at this
  | some f =>
    simp only [hf, Bool.and_eq_true] at this
    exact ⟨f, rfl, this.1, ready_of this.2⟩

/-- Every word of the farrier's group, and of the scalar group, is ready on the thread. -/
theorem ready_farrier : ∀ e ∈ scalarWordsA ++ scalarWordsB ++ farrierWords, ∃ f, e.2.fields = some f ∧ WellFormed e.2 ∧
    FarReady 0 0 e.2 f farS := by
  have h : ∀ e ∈ scalarWordsA ++ scalarWordsB ++ farrierWords,
      (match e.2.fields with | some f => legal e.2 && farReadyNow 0 0 e.2 f farS | none => false) = true := by decide +kernel
  intro e he
  have := h e he
  cases hf : e.2.fields with
  | none => simp [hf] at this
  | some f =>
    simp only [hf, Bool.and_eq_true] at this
    exact ⟨f, rfl, this.1, farReady_of this.2⟩

theorem wit_quiet : Quiet 5 0 userS ∧ Quiet 5 0 supS ∧ userS.prompt ∧ userS.faultsOnce 5 0 ∧ supS.faultsOnce 5 0 :=
  ⟨quiet_of (by decide +kernel), quiet_of (by decide +kernel), rfl, by unfold State.faultsOnce; decide +kernel,
    by unfold State.faultsOnce; decide +kernel⟩

/-! ### Single steps, with results worked out from the rules -/

/-- A register after one instruction that issued. -/
def gAfter (i : Instr) (r : Fin 16) (s : State) : Option W64 :=
  match exec i s with | .next t => if t.issued then some (t.ctx 5 0).hart.g[r] else none | _ => none
def ctxAfter (i : Instr) (s : State) : Option Ctx :=
  match exec i s with | .next t => if t.issued then some (t.ctx 5 0) else none | _ => none
def coreAfter (i : Instr) (s : State) : Option Core :=
  match exec i s with | .next t => if t.issued then some (t.core 5) else none | _ => none

theorem test_add_wraps : gAfter (.add (fld (.g 1) (.g 2) (.g 3) 0)) 1 (withG [(2, -1), (3, 2)]) = some 1 := by decide +kernel
theorem test_add_mi : gAfter (.add (fld (.g 1) (.g 2) .none 0xFFFFFFFE)) 1 (withG [(2, 1)]) = some (-1) := by decide +kernel
theorem test_mulh : gAfter (.mulh (fld (.g 1) (.g 2) (.imm 0x1FF) 0)) 1 (withG [(2, 5)]) = some (-1) := by decide +kernel
theorem test_mulhn : gAfter (.mulhn (fld (.g 1) (.g 2) (.imm 0x1FF) 0)) 1 (withG [(2, 5)]) = some 4 := by decide +kernel
theorem test_div_zero : gAfter (.div (fld (.g 1) (.g 2) (.imm 0) 0)) 1 (withG [(2, 5)]) = some (-1) := by decide +kernel
theorem test_div_corner : gAfter (.div (fld (.g 1) (.g 2) (.imm 0x1FF) 0)) 1 (withG [(2, 0x8000000000000000)]) =
    some 0x8000000000000000 := by decide +kernel
theorem test_rem_sign : gAfter (.remI (fld (.g 1) (.g 2) (.imm 3) 0)) 1 (withG [(2, -7)]) = some (-1) := by decide +kernel
theorem test_rem_corner : gAfter (.remI (fld (.g 1) (.g 2) (.imm 0x1FF) 0)) 1 (withG [(2, 0x8000000000000000)]) = some 0 := by
  decide +kernel
theorem test_sra : gAfter (.sra (fld (.g 1) (.g 2) (.imm 68) 0)) 1 (withG [(2, -32)]) = some (-2) := by decide +kernel
theorem test_lih : gAfter (.lih (fld (.g 1) .none .none 0x80000000)) 1 (withG [(1, 0x1234567887654321)]) =
    some 0x8000000087654321 := by decide +kernel
theorem test_ext : gAfter (.extI (fld (.g 1) (.g 2) .none (4 <<< 17 ||| 3 <<< 23 ||| 1 <<< 29))) 1 (withG [(2, 0xA5)]) =
    some (-6) := by decide +kernel
theorem test_clz : gAfter (.clz (fld (.g 1) (.g 2) .none 0)) 1 (withG [(2, 1)]) = some 63 := by decide +kernel
theorem test_c0 : (ctxAfter (.ceq (fld (.c 0) (.g 2) (.g 3) 0)) userS).map (·.hart.cond 0) = some true := by decide +kernel
theorem test_guard : gAfter (.add { fld (.g 1) (.g 2) (.g 3) 0 with hd := ⟨true, 3, 0, false, 0, 0⟩ }) 1 userS = some 0x100 := by
  decide +kernel
/-- R38: the offset counts instructions from the branch itself. -/
theorem test_br : (ctxAfter (.br (fld .none .none .none 0xFFFFFFFF)) userS).map (·.hart.pc) = some 0x174 := by decide +kernel
theorem test_call_same : (ctxAfter (.callr (fld (.g 2) (.g 2) .none 0)) (withG [(2, 0x240)])).map (fun x => (x.hart.pc, x.hart.g[2])) =
    some (0x240, 0x18C) := by decide +kernel
theorem test_loop : (ctxAfter (.add (fld (.g 1) (.g 2) (.g 3) 0)) (onCore (fun x =>
    { x with lc := Vector.replicate 2 2, ls := Vector.replicate 2 0x120, le := Vector.replicate 2 0x180 }) id)).map
    (fun x => (x.hart.pc, x.lc[0], x.lc[1])) = some (0x120, 2, 1) := by decide +kernel
theorem test_sys : (ctxAfter (.sysI (fld .none .none .none 0xF0000001)) userS).map (fun x => (x.ecause, x.epc, x.eaddr, x.sup, x.hart.pc)) =
    some (0x17, 0x18C, 0xF0000001, true, 0x3000) := by decide +kernel
theorem test_privileged : (ctxAfter (.halt (fld .none .none .none 0)) userS).map (fun x => (x.ecause, x.epc)) = some (0x02, 0x180) := by
  decide +kernel
theorem test_farrier_word : (ctxAfter (.fdoneRes (fld .none .none .none 0)) supS).map (fun x => (x.ecause, x.eaddr)) =
    some (0x01, 0x8000000E00E00E00) := by decide +kernel
theorem test_eret : (ctxAfter (.eret (fld .none .none .none 0)) (onCore (fun x => { x with sup := true, epc := 0x600, ien := false, pien := true })
    id)).map (fun x => (x.hart.pc, x.sup, x.ien)) = some (0x600, false, true) := by decide +kernel

/-- A vector register with one FP32 or other element in every lane. -/
def splat (w x : Nat) : V1024 := BitVec.ofNat 1024 ((List.range (1024 / w)).foldl (fun a e => a + x * 2 ^ (w * e)) 0)
def withV (l : List (Fin 32 × V1024)) : State :=
  onCore (fun x => { x with v := l.foldl (fun (v : Vector V1024 32) p => v.set p.1.val p.2) x.v }) id
def elemAfter (i : Instr) (r : Fin 32) (w e : Nat) (s : State) : Option Nat := (ctxAfter i s).map fun x => elemAt x.v[r] w e

/-- 1.5 + 2.25 = 3.75 in FP32. -/
theorem test_vadd : elemAfter (.vadd (fld (.v 3) (.v 1) (.v 2) 0x79)) 3 32 31
    (withV [(1, splat 32 0x3FC00000), (2, splat 32 0x40100000)]) = some 0x40700000 := by decide +kernel
/-- 1 - 1 by fused multiply and add, and the exact zero of RDN. -/
theorem test_vfma_zero : elemAfter (.vfma (fld (.v 3) (.v 1) (.v 2) 0x39)) 3 32 0
    (withV [(1, splat 32 0x3F800000), (2, splat 32 0x3F800000), (3, splat 32 0xBF800000)]) = some 0x80000000 := by decide +kernel
theorem test_vdiv_zero : (ctxAfter (.vdiv (fld (.v 3) (.v 1) (.v 2) 0x79)) (withV [(1, splat 32 0x3F800000)])).map
    (fun x => (elemAt x.v[3] 32 0, x.fflags)) = some (0x7F800000, 8) := by decide +kernel
theorem test_mask_z : (elemAfter (.vimul (fld (.v 3) (.v 1) (.v 2) (0x200FA))) 3 32 1 (withV [(1, splat 32 3), (2, splat 32 7), (3, splat 32 9)]),
    elemAfter (.vimul (fld (.v 3) (.v 1) (.v 2) (0x000FA))) 3 32 1 (withV [(1, splat 32 3), (2, splat 32 7), (3, splat 32 9)])) =
    (some 0, some 9) := by decide +kernel
theorem test_viadd_sat : (ctxAfter (.viadd (fld (.v 3) (.v 1) (.v 2) 0x40071)) (withV [(1, splat 8 0x7F), (2, splat 8 1)])).map
    (fun x => (elemAt x.v[3] 8 127, x.fflags)) = some (0x7F, 4) := by decide +kernel
/-- Order 2: (x + t)^2 has coefficients 9, 6, 1 at x = 3. -/
theorem test_jet_square : (ctxAfter (.vmul (fld (.v 2) (.v 0) (.v 1) 0x79)) (onCore (fun x =>
    { x with jord := 2, v := (((x.v.set 0 (splat 32 0x40400000)).set 1 (splat 32 0x3F800000)).set 4 (splat 32 0x40400000)).set 5 (splat 32 0x3F800000) }) id)).map
    (fun x => (elemAt x.v[8] 32 0, elemAt x.v[9] 32 0, elemAt x.v[10] 32 0, elemAt x.v[11] 32 0)) =
    some (0x41100000, 0x40C00000, 0x3F800000, 0) := by decide +kernel
theorem test_vred : gAfter (.vred (fld (.g 1) (.v 1) .none 0x7A)) 1 (withV [(1, splat 32 0xFFFFFFFF)]) = some (-32) := by decide +kernel

/-- Bytes of the core's own local memory after one instruction. -/
def locAfter (i : Instr) (a n : Nat) (s : State) : Option (List Byte) := (coreAfter i s).map fun co => memRead co.loc a n

theorem test_st : locAfter (.st (fld (.g 4) (.g 2) (.g 2) (0x10 ||| 4 <<< 24))) 0x200 6 (withG [(4, 0x8899AABBCCDDEEFF)]) =
    some [0xFF, 0xEE, 0xDD, 0xCC, 0, 0] := by decide +kernel
theorem test_post_increment : gAfter (.st (fld (.g 4) (.g 2) (.g 2) (0x10 ||| 4 <<< 24))) 2 userS = some 0x210 := by decide +kernel
theorem test_ld_signed : gAfter (.ld (fld (.g 4) (.g 2) .none (0x08 ||| 2 <<< 24))) 4 (onCore id fun co => { co with loc := [(0x208, 0xFE), (0x209, 0xFF)] }) =
    some (-2) := by decide +kernel
theorem test_aadd : (coreAfter (.aadd (fld (.g 1) (.g 2) (.imm 3) 0xA)) (onCore id fun co => { co with loc := [(0x200, 0xFF), (0x203, 0x80)] })).map
    (fun co => (co.ctxs[0].hart.g[1], memRead co.loc 0x200 4)) = some (0xFFFFFFFF800000FF, [2, 1, 0, 0x80]) := by decide +kernel
theorem test_ld_misaligned : (ctxAfter (.ld (fld (.g 4) (.g 2) .none (0x01 ||| 4 <<< 24))) userS).map (fun x => (x.ecause, x.eaddr, x.hart.g[4])) =
    some (0x05, 0x201, 0x400) := by decide +kernel
theorem test_st_beyond : (ctxAfter (.st (fld (.g 4) (.g 2) .none (0x1FE00 ||| 4 <<< 24))) userS).map (fun x => (x.ecause, x.eaddr)) =
    some (0x08, 0x20000) := by decide +kernel
theorem test_amma_ternary : (ctxAfter (.azero (fld (.z 1) .none .none 0)) (onCore (fun x => { x with z := Vector.replicate 4 (Vector.replicate 256 7) })
    id)).map (fun x => (x.z[1][255], x.z[2][255])) = some (0, 7) := by decide +kernel
theorem test_carm : (coreAfter (.carm (fld (.g 1) (.g 4) .none 0x40000)) (withG [(4, 0x1000), (5, 0x40), (6, 0), (7, 0)])).map
    (fun co => (co.ctxs[0].hart.g[1], co.ctrs[0].armed, co.ctrs[0].total)) = some (0x8000050000000000, true, 64) := by decide +kernel

/-- A thread after one instruction of a handler. -/
def threadAfter (i : Instr) (s : State) : Option Thread :=
  match exec i s with | .next t => some (t.thread 0 0) | _ => none

theorem test_far_add : (threadAfter (.add (fld (.g 1) (.g 2) (.imm 5) 0)) farS).map (fun x => (x.hart.g[1], x.hart.pc, x.fcurb)) =
    some (0x85, 0x6C, 15) := by decide +kernel
theorem test_far_kill : (threadAfter (.vadd (fld (.v 3) (.v 1) (.v 2) 0x79)) farS).map (·.busy) = some false := by decide +kernel
theorem test_tagrd : (threadAfter (.tagrd (fld (.g 1) (.g 2) (.imm 0) 0)) farS).map (·.hart.g[1]) = some 6 := by decide +kernel
theorem test_dirwr : (match exec (.dirwr (fld (.c 2) (.g 2) (.g 4) 0)) farS with | .next u => some (u.dirOf 0 2) | _ => none) =
    some ⟨0x100, 0x140⟩ := by decide +kernel

/-! ### For each statement, a state and operands that meet its hypotheses -/

theorem next_of {o : Host.Outcome State Fault Refusal} (p : State → Bool) (h : (match o with | .next t => p t | _ => false) = true) :
    ∃ t, o = .next t ∧ p t = true := by
  cases o with
  | next t => exact ⟨t, rfl, h⟩
  | fault => simp at h
  | refused => simp at h

/-- Three g operands, and others of common use. -/
def fG : Fields := fld (.g 1) (.g 2) (.g 3) 0
def fGN : Fields := fld (.g 1) (.g 2) .none 0
def fNG : Fields := fld .none (.g 2) .none 0
def fN : Fields := fld .none .none .none 0

theorem wit_ScalarRules : Ready 5 0 (.div fG) fG (withG [(2, 0x8000000000000000), (3, -1)]) ∧
    Ready 5 0 (.divn fG) fG (withG [(3, 0)]) ∧ Ready 5 0 (.remI fG) fG (withG [(2, 0x8000000000000000), (3, -1)]) ∧
    Ready 5 0 (.remn fG) fG (withG [(3, 1)]) ∧ Ready 5 0 (.clz fGN) fGN (withG [(2, 0)]) ∧ WellFormed (.clz fGN) ∧
    Ready 5 0 (.cand (fld (.c 1) (.c 2) (.c 0) 0x60000)) (fld (.c 1) (.c 2) (.c 0) 0x60000) userS ∧
    WellFormed (.cand (fld (.c 1) (.c 2) (.c 0) 0x60000)) :=
  ⟨ready_of (by decide +kernel), ready_of (by decide +kernel), ready_of (by decide +kernel), ready_of (by decide +kernel),
    ready_of (by decide +kernel), by decide +kernel, ready_of (by decide +kernel), by decide +kernel⟩

/-- On a farrier the next word lies in handler memory up to 0xFFF0. -/
theorem wit_ScalarResults : Ready 5 0 (.add fG) fG userS ∧ FarReady 0 0 (.add fG) fG farS ∧
    FarReady 0 0 (.add fG) fG (onThread (fun x => { x with hart := { x.hart with pc := 0xFFE4 } }) id) ∧
    ((0xFFE4 : PcW) + 12).toNat = 0xFFF0 :=
  ⟨ready_of (by decide +kernel), farReady_of (by decide +kernel), farReady_of (by decide +kernel), by decide +kernel⟩

theorem wit_DecodeEncode : (Instr.add fG).fields = some fG ∧ WellFormed (.add fG) ∧ decode (encode (.add fG)) = some (.add fG) := by
  decide +kernel

/-- A word placed where the next step fetches, and the state that step issues it in. -/
def placed : State := State.reset.withFetchWord 96 (encode (.add fG)).toNat
theorem wit_StepRunsDecoded :
    let s := placed.preClock 1
    (placed.agenda = [] ∧ placed.cur = .ctx 1 0 ∧ (placed.pkg (pkgOf 1)).bootst = 0 ∧ (s.ctx 1 0).wait = .none ∧ (s.core 1).order.filter (s.core 1).ready = [0] ∧
      (s.core 1).rfaults = [] ∧ s.irqOf 1 = none ∧ (s.pkg 0).retired (s.core 1).gen (s.ctx 1 0).hart.pc.toNat = false ∧
      fetchWord (s.core 1) (!(s.ctx 1 0).sup) (s.ctx 1 0).hart.pc = some (encode (.add fG)) ∧ (s.core 1).unitBusy 0 (.add fG) fG = false) ∧
    ∃ t, exec (.add fG) { s.modCore 1 (·.dropStale 0) with cur := .ctx 1 0, went := false } = .next t ∧ t.issued = true :=
  ⟨by decide +kernel, next_of _ (by decide +kernel)⟩

/-- A thread whose word at its program counter lies in handler memory. -/
def farPlaced : State := onThread id fun y => { y with hmem := memWrite [] 0x60 ((wordBytes (encode (.add fG))).map some) }
theorem wit_FarrierStepRunsDecoded :
    let s1 := State.dispatchRun { farPlaced with issued := false } 0
    farPlaced.agenda = [] ∧ farPlaced.cur = .thread 0 0 ∧ (farPlaced.pkg 0).bootst = 0 ∧ (s1.far 0).order.filter (fun q => (s1.far 0).threads[q].ready) = [0] ∧
    (s1.thread 0 0).script = none ∧ decode ((s1.far 0).word 0) = some (.add fG) ∧
    ∃ u, exec (.add fG) { s1 with cur := .thread 0 0, went := false } = .next u ∧ (u.issued && !u.went) = true :=
  ⟨rfl, rfl, rfl, by decide +kernel, rfl, by decide +kernel, next_of (fun u => u.issued && !u.went) (by decide +kernel)⟩

theorem wit_StepTurns : (Instr.releaseComplete 5).fields = none ∧ (Instr.add fG).fields = some fG ∧
    (∃ t, exec (.releaseComplete 5) { userS with agenda := [] } = .next t ∧ true = true) ∧
    ((userS.ctx 5 0).wait = .none ∧ (userS.pkg 0).retired (userS.core 5).gen 0x180 = false ∧
      fetchWord (userS.core 5) true (userS.ctx 5 0).hart.pc = none ∧ (userS.core 5).fetching 0 (userS.ctx 5 0).hart.pc = false ∧
      ({ userS with lag := [1] } : State).lag.headD 0 ≠ 0) ∧
    (State.reset.agenda = [] ∧ State.reset.cur = .ctx 1 0 ∧ (State.reset.pkg (pkgOf 1)).bootst ≠ 0 ∧
      ({ State.reset with cur := .thread 65 0 } : State).agenda = [] ∧ (State.reset.pkg (65 % 64)).bootst ≠ 0) :=
  ⟨rfl, rfl, next_of (fun _ => true) (by decide +kernel), by decide +kernel, by decide +kernel⟩

/-- A lookahead window open over g2 and an instruction that reads it. -/
def lookS : State := onCore (fun x => { x with lkchk := true, flight := [{ id := 1, pc := 0x174, left := 2, dests := [.g 2] }] }) id
theorem wit_IssueChecks :
    let f := { fG with hd := ⟨true, 3, 0, false, 0, 0⟩ }
    ((Instr.add f).fields = some f ∧ userS.cur = .ctx 5 0 ∧ (userS.ctx 5 0).windowWait = false ∧ (userS.ctx 5 0).fwdIn = 0 ∧
      wordCause (.add f) f userS = none ∧ (userS.ctx 5 0).lkchk = false ∧ (userS.ctx 5 0).hart.guard f.hd = false ∧
      (userS.ctx 5 0).wait = .none ∧ serial (.doneI f) = true ∧ (userS.ctx 5 0).undone = false) ∧
    wordCause (.fdoneRes fN) fN supS = some 0x01 ∧ (supS.ctx 5 0).undone = false ∧ supS.faultsOnce 5 0 ∧
    (privileged (.halt fN) = true ∧ wordCause (.halt fN) fN userS = some 0x02) ∧
    ((lookS.ctx 5 0).windowWait = false ∧ lkBroken (lookS.ctx 5 0) (.c 0 :: readsOf 0 (.add fG) fG) (writesOf 0 (.add fG) fG) = some 0x174) ∧
    (wordCause (.vmov fN) fN farS = some 0x01 ∧ (farS.thread 0 0).fcurb ≠ 0 ∧ (farS.thread 0 0).flight = [] ∧
      (farS.thread 0 0).msg = some msgA ∧ msgA.ty ≠ 0x38) :=
  ⟨by decide +kernel, by decide +kernel, by decide +kernel, wit_quiet.2.2.2.2, by decide +kernel, by decide +kernel, by decide +kernel⟩

/-- R116: a body's end with counts 0, 1 and 2 at either level. -/
def bodyX (a b : BitVec 32) : Ctx :=
  { ctxA with lc := #v[a, b], ls := Vector.replicate 2 0x120, le := Vector.replicate 2 0x180 }
theorem wit_LoopBodies :
    (∀ l : Fin 2, (bodyX 0 0).lc[l] = 0) ∧ (bodyX 0 2).lc[1] ≠ 0 ∧ (∀ l : Fin 2, ((bodyX 2 1).pair l).2 = 0x180) ∧
    1 < (bodyX 2 0).lc[0].toNat ∧ (bodyX 0 1).lc[1] = 1 ∧
    Ready 5 0 (.loopI (fld (.cr .lc1) (.g 0) .none 3)) (fld (.cr .lc1) (.g 0) .none 3) (withG [(0, 0)]) ∧
    Ready 5 0 (.loopI (fld (.cr .lc0) (.g 0) .none 3)) (fld (.cr .lc0) (.g 0) .none 3) (withG [(0, 1)]) :=
  ⟨by decide +kernel, by decide +kernel, by decide +kernel, by decide +kernel, by decide +kernel, ready_of (by decide +kernel),
    ready_of (by decide +kernel)⟩

/-- The first and the last address of the entry bundles in supervisor mode, the next one outside them, and an entry not yet done. -/
theorem wit_DoubleFault : ∀ x ∈ [(0x3000, true), (0x323F, true), (0x3240, false), (0x2FFF, false)],
    (onCore (fun y => { y with sup := true, hart := { y.hart with pc := BitVec.ofNat 57 x.1 } }) id).doubleFault 5 0 = x.2 ∧
    (onCore (fun y => { y with inEntry := true }) id).doubleFault 5 0 = true := by
  decide +kernel

theorem wit_Branches : Ready 5 0 (.jr fNG) fNG (withG [(2, 0x300)]) ∧ ((0x300 : W64).setWidth 57).toNat % 12 = 0 ∧
    FarReady 0 0 (.callr fGN) fGN (farG [(2, 0xFFF0)]) ∧ ((0xFFF0 : W64).setWidth 57).toNat % 12 = 0 ∧
    (FarReady 0 0 (.br (fld .none .none .none 0xFFFFFFF8)) (fld .none .none .none 0xFFFFFFF8) farS ∧ (0x60 : Int) + 12 * (0xFFFFFFF8 : BitVec 32).toInt = 0) ∧
    (FarReady 0 0 (.br (fld .none .none .none 0x2000)) (fld .none .none .none 0x2000) farS ∧ (farS.thread 0 0).busy = true ∧
      0xFFF0 < 0x60 + 12 * (0x2000 : BitVec 32).toInt) ∧
    (∀ e ∈ [(0xFFF0, true), (0xFFEF, false), (0, true)], (e.1 + 65532 - (fmGet {} ((farG []).far 0).sets 0).start) % 12 = 0 ↔ e.2 = true) ∧
    FarReady 0 0 (.callr fGN) fGN (farG [(2, 0xFFEF)]) ∧
    Ready 5 0 (.jr fNG) fNG (withG [(2, 0x301)]) ∧ userS.faultsOnce 5 0 :=
  ⟨ready_of (by decide +kernel), by decide +kernel, farReady_of (by decide +kernel), by decide +kernel,
    ⟨farReady_of (by decide +kernel), by decide +kernel⟩,
    ⟨farReady_of (by decide +kernel), by decide +kernel, by decide +kernel⟩, by decide +kernel, farReady_of (by decide +kernel),
    ready_of (by decide +kernel), wit_quiet.2.2.2.1⟩

theorem wit_LoopBreak : Ready 5 0 (.lbrk (fld (.cr .lc0) .none .none 0)) (fld (.cr .lc0) .none .none 0) userS ∧
    WellFormed (.lbrk (fld (.cr .lc1) .none .none 0)) :=
  ⟨ready_of (by decide +kernel), by decide +kernel⟩

/-- A thread that runs a set's INIT. -/
def initS : State := onThread (fun x => { x with msg := some { msgA with ty := 0x38, acc := false, party := .none } }) id
theorem wit_ControlRegisters :
    let f := fld (.cr .jord) (.g 2) (.g 1) 0
    Ready 5 0 (.csrw f) f (withG [(2, 7)]) ∧ csrWait f.a userS = false ∧ csrValueTrap (.csrw f) (withG [(2, 7)]) .jord 7 = none ∧
    Ready 5 0 (.csrr (fld (.g 1) (.cr .vl) .none 0)) (fld (.g 1) (.cr .vl) .none 0) userS ∧ csrWait (.cr .vl) userS = false ∧
    FarReady 0 0 (.csrr (fld (.g 1) (.cr .fid) .none 0)) (fld (.g 1) (.cr .fid) .none 0) farS ∧
    ∀ r ∈ [Csr.fdirb, .fdirn], ∀ e ∈ [Instr.csrw, .csrs, .csrc],
      let f := fld (.cr r) (.g 2) (.g 1) 0
      FarReady 0 0 (e f) f initS ∧ FarReady 0 0 (e f) f farS ∧ WellFormed (e f) ∧ msgA.ty ≠ 0x38 ∧
        ∃ m, (initS.thread 0 0).msg = some m ∧ m.ty = 0x38 :=
  ⟨ready_of (by decide +kernel), by decide +kernel, by decide +kernel, ready_of (by decide +kernel), by decide +kernel,
    farReady_of (by decide +kernel), fun r hr e he => by
      simp only [List.mem_cons, List.not_mem_nil, or_false] at hr he
      rcases hr with rfl | rfl <;> rcases he with rfl | rfl | rfl <;>
        exact ⟨farReady_of (by decide +kernel), farReady_of (by decide +kernel), by decide +kernel, by decide +kernel, _, rfl, rfl⟩⟩

theorem wit_SystemCalls : (userS.ctx 5 0).undone = false ∧ (userS.ctx 5 0).wait = .none ∧ userS.faultsOnce 5 0 ∧
    Ready 5 0 (.sysI fN) fN userS ∧ Ready 5 0 (.brk fN) fN supS ∧ (lookS.ctx 5 0).undone = true ∧
    (lookS.ctx 5 0).windowWait = false ∧ wordCause (.sysI fN) fN lookS = none :=
  ⟨by decide +kernel, by decide +kernel, wit_quiet.2.2.2.1, ready_of (by decide +kernel), ready_of (by decide +kernel),
    by decide +kernel, by decide +kernel, by decide +kernel⟩

/-- A release that took a count mismatch at the instruction epc names, the write-backs of its interval kept at the port; and a core
with one user message on its refusal list. -/
def failedRel : Rel :=
  { id := 2, ctx := 0, user := true, scope := 4, x := false, caps := [], words := [], descs := [], ivs := [(1, 3)], closed := true,
    failed := true, pc := 12 }
def keptPkt : FabPkt := { uid := 9, src := 0, dst := 1, flow := 7, reply := false, body := .wb 3 }
def resendS : State :=
  { onCore (fun x => { x with sup := true, epc := 12 }) (fun co => { co with rels := [failedRel] }) with pkgs := [(0, { bootst := 0, kept := [keptPkt] })] }
def listedS : State := onCore id fun co => { co with refused := [⟨⟨4, 7⟩, true⟩, ⟨⟨4, 7⟩, false⟩] }
theorem wit_ReturnsAndEndings :
    Ready 5 0 (.eret fN) fN (onCore (fun x => { x with sup := true, epc := 12 }) id) ∧
    Ready 5 0 (.eret fN) fN (onCore (fun x => { x with sup := true, epc := 13 }) id) ∧
    (onCore (fun x => { x with sup := true, epc := 13 }) id).faultsOnce 5 0 ∧
    (Ready 5 0 (.eret fN) fN resendS ∧ (resendS.ctx 5 0).epc = 12 ∧ (resendS.core 5).rels = [failedRel] ∧ failedRel.failed = true ∧
      failedRel.pc = 12 ∧ failedRel.ivs = [(1, 3)] ∧ resendS.ivMoving 0 1 3 = false ∧ (resendS.pkg 0).kept = [keptPkt]) ∧
    (userS.prompt ∧ Quiet 5 0 userS ∧ (userS.core 5).engineBusy 0 = false ∧ (userS.pkg 0).ivs = []) ∧
    (∀ sup ∈ [true, false], (listedS.core 5).refused.find? (fun l => l.sup == listedS.supClass 5 0 || listedS.isServer 5) =
        some ⟨⟨4, 7⟩, false⟩ ∧ readyNow 5 0 (.doneI fN) fN listedS = true ∧ (listedS.core 5).pre.step = 0 ∧ (listedS.core 5).l1 = [] ∧
      (onCore id fun co => { co with refused := [⟨⟨4, 7⟩, sup⟩], pre := { step := 3 } }).prompt) ∧
    Ready 5 0 (.doneI fN) fN userS ∧ WellFormed (.doneI fN) ∧ Ready 5 0 (.halt fN) fN supS ∧ Quiet 5 0 supS :=
  ⟨ready_of (by decide +kernel), ready_of (by decide +kernel), by unfold State.faultsOnce; decide +kernel,
    ⟨ready_of (by decide +kernel), by decide +kernel⟩,
    ⟨wit_quiet.2.2.1, wit_quiet.1, by decide +kernel, by decide +kernel⟩,
    fun sup _ => ⟨by decide +kernel, by decide +kernel, by decide +kernel, by decide +kernel, rfl⟩, ready_of (by decide +kernel), by decide +kernel,
    ready_of (by decide +kernel), wit_quiet.2.1⟩

/-- Each condition of `wait` met and not met, and an earlier instruction not complete. -/
theorem wit_Waits :
    let pend := onCore (fun x => { x with pend := [1] }) id
    let busy := onCore id fun co => { co with anvil := [{ id := 1, ctx := 0, user := true, op := .azero 0 }] }
    let late := fld .none (.imm 5) .none (3 <<< 17)
    (Ready 5 0 (.waitUnack fN) fN userS ∧ (userS.ctx 5 0).pend = [] ∧ (userS.core 5).engineBusy 0 = false) ∧
    (Ready 5 0 (.waitUnack fN) fN pend ∧ (pend.ctx 5 0).pend ≠ []) ∧
    (Ready 5 0 (.waitEng (fld .none .none .none (1 <<< 17))) (fld .none .none .none (1 <<< 17)) busy ∧ (busy.core 5).engineBusy 0 = true) ∧
    ((onCore id fun co => { co with drayBad := [⟨1, 0, true, 0x09, 5, false⟩] }).core 5).drayFailed 0 = true ∧
    (Ready 5 0 (.waitTime late) late userS ∧ (userS.core 5).cyc.toNat < ((userS.ctx 5 0).hart.opd late.b).toNat) ∧
    Ready 5 0 (.waitTime late) late (onCore id fun co => { co with cyc := 5 }) ∧
    ((lookS.ctx 5 0).undone = true ∧ wordCause (.waitAll fN) fN lookS = none) ∧
    (∃ w : BitVec 96, w.extractLsb' 86 10 = 0x048 ∧ w.getLsbD 19 = true) :=
  ⟨⟨ready_of (by decide +kernel), by decide +kernel, by decide +kernel⟩, ⟨ready_of (by decide +kernel), by decide +kernel⟩,
    ⟨ready_of (by decide +kernel), by decide +kernel⟩, by decide +kernel, ⟨ready_of (by decide +kernel), by decide +kernel⟩,
    ready_of (by decide +kernel), by decide +kernel, 0x120000000000000000080000, by decide +kernel⟩

theorem wit_SeriesResults : Ready 5 0 (.vadd (fld (.v 3) (.v 1) (.v 2) 0x79)) (fld (.v 3) (.v 1) (.v 2) 0x79) userS ∧
    WellFormed (.vadd (fld (.v 3) (.v 1) (.v 2) 0x79)) ∧ userS.prompt ∧ effRnd 7 (userS.ctx 5 0).fround ≤ 5 ∧ effRnd 5 0 ≤ 5 ∧
    Ready 5 0 (.vsqrt (fld (.v 1) (.v 2) .none 0x57)) (fld (.v 1) (.v 2) .none 0x57)
      (onCore (fun x => { x with jord := 7 }) id) :=
  ⟨ready_of (by decide +kernel), by decide +kernel, wit_quiet.2.2.1, by decide +kernel, by decide +kernel, ready_of (by decide +kernel)⟩

theorem wit_ExactResults : (∀ t ∈ [7, 8, 9], ∃ r : Rnd, r.t = t ∧ 0 < 2 ^ (floatFmt r.t).w) ∧
    (let r := userS.rnd (fld .none .none .none 0x79) 0;
      (r.val 0x7FC00000).1 = .nan ∧ (r.val 0x3F800000).1 ≠ .nan ∧ ((r.val 0).1 = .zero false ∧ (r.val 0x80000000).1 = .zero (!false)) ∧
      valCmp (r.val 0x3F800000).1 (r.val 0x40000000).1 = some .lt ∧ valCmp (r.val 0x40000000).1 (r.val 0x3F800000).1 = some .gt) ∧
    decodeFloat fFP32 0 ≠ .nan ∧ decodeFloat fE4M3 0x7F = .nan ∧ (userS.rnd (fld .none .none .none 0x79) 0).t = 9 ∧
    (userS.rnd (fld .none .none .none 0x79) 0).m ≤ 4 :=
  ⟨by simp only [List.mem_cons, List.not_mem_nil, or_false]; rintro t (rfl | rfl | rfl) <;> exact ⟨{ userS.rnd (fld .none .none .none 0x79) 0 with t := _ }, rfl, by decide⟩, by decide +kernel⟩

theorem wit_LaneResults : ∀ p ∈ [(Instr.viadd, (0x71 : BitVec 32)), (Instr.vand, 0x70), (Instr.vshr, 0x8007C), (Instr.vperm, 0x7C)],
    Ready 5 0 (p.1 (fld (.v 3) (.v 1) (.v 2) p.2)) (fld (.v 3) (.v 1) (.v 2) p.2) userS ∧ WellFormed (p.1 (fld (.v 3) (.v 1) (.v 2) p.2)) := by
  intro p hp
  simp only [List.mem_cons, List.not_mem_nil, or_false] at hp
  rcases hp with rfl | rfl | rfl | rfl <;> exact ⟨ready_of (by decide +kernel), by decide +kernel⟩

/-- Every form named: with and without SIDE, an element at 0, the last and beyond, integer and float splats. -/
theorem wit_VectorMoves : userS.prompt ∧ ∀ e ∈ [Instr.vsel (fld (.v 1) (.v 2) (.v 3) 0x70), .vmov (fld (.v 1) (.v 2) .none 0x70),
    .vins (fld (.v 1) (.g 2) .none 0x20079), .vins (fld (.v 1) (.g 2) (.imm 31) 0x79), .vextr (fld (.g 1) (.v 2) (.imm 0) 0x79),
    .vextr (fld (.g 1) (.v 2) (.imm 32) 0x79), .vextr (fld (.g 1) (.v 2) .none 0x20071), .vsplat (fld (.v 1) (.g 2) .none 0x79),
    .vsplat (fld (.v 1) (.imm 0x1FF) .none 0x73), .vsplat (fld (.v 1) (.imm 3) .none 0x09)], WellFormed e ∧
      ∃ f, e.fields = some f ∧ Ready 5 0 e f userS := by
  refine ⟨wit_quiet.2.2.1, fun e he => ?_⟩
  simp only [List.mem_cons, List.not_mem_nil, or_false] at he
  rcases he with rfl | rfl | rfl | rfl | rfl | rfl | rfl | rfl | rfl | rfl <;>
    exact ⟨by decide +kernel, _, rfl, ready_of (by decide +kernel)⟩

theorem wit_ComparesAndMasks : userS.prompt ∧ ∀ e ∈ [Instr.vcmp (fld (.m 0) (.v 1) (.v 2) 0x79), .vcmp (fld (.m 7) (.v 1) (.v 2) 0x79),
    .vcmp (fld (.c 0) (.v 1) (.v 2) 0x79), .vcmp (fld (.c 7) (.v 1) (.v 2) 0x200079), .mand (fld (.m 0) (.m 1) (.m 2) 0x60070),
    .mor (fld (.m 1) (.m 1) (.m 0) 0x70), .mxor (fld (.m 2) (.m 1) (.m 2) 0x20070), .vbound (fld (.m 1) (.imm 0) (.imm 5) 0x7A),
    .mcnt (fld (.g 1) (.m 0) .none 0x7C), .vwidth (fld (.g 1) .none .none 0x70)], WellFormed e ∧
      ∃ f, e.fields = some f ∧ Ready 5 0 e f userS := by
  refine ⟨wit_quiet.2.2.1, fun e he => ?_⟩
  simp only [List.mem_cons, List.not_mem_nil, or_false] at he
  rcases he with rfl | rfl | rfl | rfl | rfl | rfl | rfl | rfl | rfl | rfl <;>
    exact ⟨by decide +kernel, _, rfl, ready_of (by decide +kernel)⟩

/-- Conversions at the first and the last slice, to a narrower and to a wider type; a quantization; a compression. -/
theorem wit_VectorConversions : userS.prompt ∧ effRnd 0 0 ≤ 5 ∧ ∀ e ∈ [Instr.vcvt (fld (.v 1) (.v 2) .none (9 <<< 18 ||| 4)),
    .vcvt (fld (.v 1) (.v 2) .none (9 <<< 18 ||| 3 <<< 22 ||| 4)), .vcvt (fld (.v 1) (.v 2) .none (6 <<< 18 ||| 7 <<< 22 ||| 9)),
    .vquant (fld (.v 1) (.v 2) (.g 3) (7 <<< 18 ||| 1 <<< 22 ||| 1)), .vcomp (fld (.v 1) (.v 2) .none 0x71),
    .vexpd (fld (.v 1) (.v 2) .none 0x7A)], WellFormed e ∧ ∃ f, e.fields = some f ∧ Ready 5 0 e f userS := by
  refine ⟨wit_quiet.2.2.1, by decide +kernel, fun e he => ?_⟩
  simp only [List.mem_cons, List.not_mem_nil, or_false] at he
  rcases he with rfl | rfl | rfl | rfl | rfl | rfl <;> exact ⟨by decide +kernel, _, rfl, ready_of (by decide +kernel)⟩

/-- Core 4 and core 5 are user cores and a group of two; an entry with every contribution, and one with none. -/
def pairS : State := { userS with cores := (4, coreA) :: userS.cores }
def fQ (gs : BitVec 32) : Fields := fld (.v 1) (.v 2) (.imm 16) (0x79 ||| gs <<< 18)
/-- The same, waiting in an entry that holds the contribution of core 4, none, or one that does not agree. -/
def exchS (got : List (CoreId × BitVec 32)) (bad : Bool) : State :=
  { userS with cores := [(4, coreA), (5, { coreA with
      ctxs := (Vector.replicate 8 ({} : Ctx)).set 0 { ctxA with wait := .vqmax 16 }, exch := [⟨16, some 2, some 0, 0, got, bad⟩] })] }
theorem wit_ReductionsAndMaxima :
    (∀ f ∈ [0x7A, 0x2007A, 0x4007A, 0x6007A, 0x8007A, 0xA007A].map (fld (.g 1) (.v 1) .none), WellFormed (.vred f)) ∧
    WellFormed (.vred (fld (.g 1) (.v 1) .none 0x10007A)) ∧ WellFormed (.vred (fld (.g 1) (.v 1) .none 0x09)) ∧
    WellFormed (.vred (fld (.g 1) (.v 1) .none 0x20079)) ∧ WellFormed (.vred (fld (.g 1) (.v 1) .none 0x40079)) ∧
    Ready 5 0 (.vred (fld (.g 1) (.v 1) .none 0x09)) (fld (.g 1) (.v 1) .none 0x09) userS ∧
    (Ready 5 0 (.vqmax (fQ 0)) (fQ 0) userS ∧ WellFormed (.vqmax (fQ 0)) ∧ 2 ^ (fQ 0).bits 18 3 = 1 ∧ userS.userCore 5 = true ∧
      groupOf 5 1 = []) ∧
    (Ready 5 0 (.vqmax (fQ 1)) (fQ 1) userS ∧ userS.userCore 4 = false ∧ (userS.ctx 5 0).undone = false ∧ userS.faultsOnce 5 0) ∧
    (Ready 5 0 (.vqmax (fQ 1)) (fQ 1) pairS ∧ WellFormed (.vqmax (fQ 1)) ∧ groupOf 5 2 = [4] ∧ pairS.prompt ∧
      pairS.userCore 5 = true ∧ pairS.userCore 4 = true ∧ (pairS.core 5).exch = []) ∧
    ∀ g ∈ [[(4, 0x3F800000)], []], ∀ b ∈ [false, true],
      Eligible 5 0 (.vqmax (fQ 1)) (fQ 1) (exchS g b) ∧ (exchS g b).prompt ∧ ((exchS g b).ctx 5 0).wait = .vqmax 16 ∧
      (exchS g b).userCore 5 = true ∧ (exchS g b).userCore 4 = true ∧ (exchS g b).faultsOnce 5 0 ∧ ((exchS g b).ctx 5 0).undone = false ∧
      ((exchS g b).core 5).exch.find? (fun e => e.tag == 16) = some ⟨16, some 2, some 0, 0, g, b⟩ :=
  ⟨by decide +kernel, by decide +kernel, by decide +kernel, by decide +kernel, by decide +kernel, ready_of (by decide +kernel),
    ⟨ready_of (by decide +kernel), by decide +kernel⟩,
    ⟨ready_of (by decide +kernel), by decide +kernel, by decide +kernel, by unfold State.faultsOnce; decide +kernel⟩,
    ⟨ready_of (by decide +kernel), by decide +kernel, by decide +kernel, rfl, by decide +kernel⟩,
    fun g hg b hb => by
      simp only [List.mem_cons, List.not_mem_nil, or_false] at hg hb
      rcases hg with rfl | rfl <;> rcases hb with rfl | rfl <;>
        exact ⟨eligible_of (by decide +kernel), rfl, by decide +kernel, by decide +kernel, by decide +kernel,
          by unfold State.faultsOnce; decide +kernel, by decide +kernel⟩⟩

/-- `jset` and `jget` at n = K and at n = K + 1. -/
theorem wit_JetResults :
    let s := onCore (fun x => { x with jord := 1 }) id
    let f := fun n : BitVec 9 => fld (.v 4) (.v 8) (.imm n) 0x79
    (Ready 5 0 (.jset (f 1)) (f 1) s ∧ (f 1).bits 0 4 = 9 ∧ WellFormed (.jset (f 1)) ∧ (s.ctx 5 0).jord.toNat = 1) ∧
    Ready 5 0 (.jset (f 2)) (f 2) s ∧ Ready 5 0 (.jget (f 2)) (f 2) s ∧
    (WellFormed (.jget (fld (.v 4) (.v 8) (.imm 1) 0x40079)) ∧
      Ready 5 0 (.jget (fld (.v 4) (.v 8) (.imm 1) 0x40079)) (fld (.v 4) (.v 8) (.imm 1) 0x40079) s) ∧
    Ready 5 0 (.jint (f 0)) (f 0) s ∧ Ready 5 0 (.jshift (f 1)) (f 1) s :=
  ⟨⟨ready_of (by decide +kernel), by decide +kernel, by decide +kernel, by decide +kernel⟩, ready_of (by decide +kernel),
    ready_of (by decide +kernel), ⟨by decide +kernel, ready_of (by decide +kernel)⟩, ready_of (by decide +kernel), ready_of (by decide +kernel)⟩

/-- Products of v registers with stated types and with described rows, a load and a store of a tile over distinct rows, and a drain. -/
def fMma (ty : BitVec 32) : Fields := fld (.z 1) (.v 0) (.v 16) ty
def described : State := onCore (fun x => { x with vs := Vector.replicate 32 0x087F087F }) id
def rowsS : State := withG [(2, 0x40000010000), (3, 0x4000), (8, 0x800005000001FC00)]
theorem wit_AnvilResults :
    (Ready 5 0 (.amma (fMma 0x1C0007)) (userS.ammaFields (fMma 0x1C0007)) userS ∧ WellFormed (.amma (fMma 0x1C0007)) ∧
      (anvSrc (userS.ctx 5 0).hart (.v 0) 1).misaligned = none ∧ (anvSrc (userS.ctx 5 0).hart (.v 0) 1).outside = none ∧
      (∀ q ∈ (anvSrc (userS.ctx 5 0).hart (.v 16) 1).places, (userS.rowDesc q).fmt.toNat ≤ 0xA)) ∧
    (Ready 5 0 (.amma (fMma 0)) (described.ammaFields (fMma 0)) described ∧ WellFormed (.amma (fMma 0)) ∧
      (∀ q ∈ (anvSrc (described.ctx 5 0).hart (.v 0) 1).places, ammaMode (described.rowDesc q).fmt = ammaMode 8) ∧ ammaMode 8 ≠ 0) ∧
    (WellFormed (.amma (fMma 0x40003)) ∧ Ready 5 0 (.amma (fMma 0x40003)) (userS.ammaFields (fMma 0x40003)) userS) ∧
    Ready 5 0 (.azero (fld (.z 0) .none .none 0)) (fld (.z 0) .none .none 0) userS ∧
    Ready 5 0 (.ascale (fld (.z 0) (.z 3) (.v 1) 0x280009)) (fld (.z 0) (.z 3) (.v 1) 0x280009) userS ∧
    WellFormed (.ascale (fld (.z 0) (.z 3) (.v 1) 0x280009)) ∧
    Ready 5 0 (.arow (fld (.v 1) (.z 3) (.imm 15) 0x20080)) (fld (.v 1) (.z 3) (.imm 15) 0x20080) userS ∧
    WellFormed (.arow (fld (.v 1) (.z 3) (.imm 15) 0x20080)) ∧
    ([] : List (Int × Fl)).length = ([] : List Int).length :=
  ⟨⟨ready_of (by decide +kernel), by decide +kernel, by decide +kernel, by decide +kernel, by decide +kernel⟩,
    ⟨ready_of (by decide +kernel), by decide +kernel, by decide +kernel, by decide +kernel⟩,
    ⟨by decide +kernel, ready_of (by decide +kernel)⟩, ready_of (by decide +kernel), ready_of (by decide +kernel), by decide +kernel,
    ready_of (by decide +kernel), by decide +kernel, rfl⟩

/-- A load and a store of a tile over 32 rows apart from each other, and drains of either width at the top of local memory. -/
def rowsA : AnvSrc := anvSrc (rowsS.ctx 5 0).hart (.g 2) 2
theorem wit_AnvilResults_rows : rowsA.misaligned = none ∧ rowsA.outside = none ∧ (∀ q ∈ rowsA.places, (rowsS.rowDesc q).fmt ≠ 0xFF) ∧
    ∀ n < 32, ∀ m < n, rowsA.offs.getD n 0 + 32 ≤ rowsA.offs.getD m 0 ∨ rowsA.offs.getD m 0 + 32 ≤ rowsA.offs.getD n 0 := by
  have h : rowsA.offs = (List.range 32).map fun n => 0x10000 + 0x400 * n := by decide +kernel
  refine ⟨by decide +kernel, by decide +kernel, by decide +kernel, fun n hn m hm => ?_⟩
  simp only [h, List.getD_eq_getElem?_getD, List.getElem?_map, List.getElem?_range, hn, Nat.lt_trans hm hn, Option.map_some, Option.getD_some]
  omega
theorem wit_AnvilResults_stores : Quiet 5 0 rowsS ∧ Ready 5 0 (.ast (fld (.g 2) (.z 1) .none 9)) (fld (.g 2) (.z 1) .none 9) rowsS ∧
    WellFormed (.ast (fld (.g 2) (.z 1) .none 9)) ∧ Ready 5 0 (.ald (fld (.z 1) (.g 2) .none 0)) (fld (.z 1) (.g 2) .none 0) rowsS ∧
    WellFormed (.ald (fld (.z 1) (.g 2) .none 0)) ∧
    WellFormed (.adrain (fld (.g 8) (.z 1) .none 0x20007)) ∧ WellFormed (.adrain (fld (.g 8) (.z 1) .none 0x20009)) ∧
    Ready 5 0 (.adrain (fld (.g 8) (.z 1) .none 0x20007)) (fld (.g 8) (.z 1) .none 0x20007) rowsS ∧
    Ready 5 0 (.adrain (fld (.g 8) (.z 1) .none 0x20009)) (fld (.g 8) (.z 1) .none 0x20009) rowsS ∧
    rowsS.windowCore 5 0x800005000001FC00 = some 5 ∧ 0x1FC00 + 256 * 4 = 0x20000 ∧ rowsS.userCore 5 = true :=
  ⟨quiet_of (by decide +kernel), ready_of (by decide +kernel), by decide +kernel, ready_of (by decide +kernel), by decide +kernel,
    by decide +kernel, by decide +kernel, ready_of (by decide +kernel), ready_of (by decide +kernel), by decide +kernel, by decide +kernel⟩

/-- Accesses of the core's own local memory: at offset 0 or at the last place that fits, one byte beyond it, and misaligned. -/
def topS (n : Nat) : State := withG [(2, BitVec.ofNat 64 (0x20000 - n))]
def fLd : Fields := fld (.g 1) (.g 2) .none 0x6000000
def fV : Fields := fld (.v 4) (.g 2) .none 0

/-- One case for each cause of `BadAccess`: a window that names no core, one past the end, another core that is none of the job's, a
package no carrier reaches, a global address past the space, and a page, in the TLB, of a home the core may not have. -/
def afS (b : W64) (user : Bool) : State :=
  onCore (fun x => { x with hart := x.hart.setG 2 b, sup := !user }) fun co => { co with tlb := [⟨0, true, 0x3C00, true, false, true⟩] }
theorem wit_AccessTraps : (∀ b ∈ [true, false], quietNow 5 0 (afS 0 b) = true ∧ (afS 0 b).doubleFault 5 0 = false) ∧
    ([((0xBF00050000000000 : W64), true, (0x08 : Cause)), (0x8000050000000004, true, 0x05), (0x800005000001FFFF, true, 0x05),
        (0x800005000001FFF8, true, 0), (0x8000060000000000, true, 0x07), (0x8000060000000000, false, 0), (0x0200000000000000, false, 0x07),
        (0x0000000000001000, true, 0x07), (0x8000050000000000, true, 0)].all
      (fun e => [false, true].all fun wr => match (afS e.1 e.2.1).check wr true e.1 8 8 with | .error c => c == e.2.2 | .ok _ => e.2.2 == 0) = true) ∧
    (∀ b ∈ [0xBF00050000000000, 0x1000], let s := afS (BitVec.ofNat 64 b) true; let f := fld (.g 1) (.g 2) .none 0x16000000; let a := fld (.g 1) (.g 2) (.g 3) 0x10020A;
      readyNow 5 0 (.ld f) f s = true ∧ f.af1 = true ∧ readyNow 5 0 (.aadd a) a s = true) ∧
    ((afS 0 true).windowCore 5 0xBF00050000000000 = none ∧ ((afS 0 true).core 5).tlb.find? (fun e => e.has 0x1000) = some ⟨0, true, 0x3C00, true, false, true⟩ ∧
      (Tlb.refuses ⟨0, true, 0x3C00, true, false, true⟩ true false true = false) ∧ badHome (pkgOf 5) (Tlb.pa ⟨0, true, 0x3C00, true, false, true⟩ 0x1000) = true) := by
  decide +kernel

theorem wit_AccessIssue :
    (Quiet 5 0 (topS 7) ∧ (topS 7).faultsOnce 5 0 ∧ Ready 5 0 (.ld fLd) fLd (topS 7) ∧ ((topS 7).hart.ea fLd).toNat % 8 ≠ 0) ∧
    (Quiet 5 0 (topS 0) ∧ Ready 5 0 (.vst fV) fV (topS 0) ∧ ((topS 0).hart.ea fV).toNat % 128 = 0 ∧
      0x20000 < ((topS 0).hart.ea fV).toNat + 128) ∧
    (Ready 5 0 (.aadd (fld (.g 1) (.g 2) (.g 3) 0xC)) (fld (.g 1) (.g 2) (.g 3) 0xC) (topS 4) ∧ 0x1FFFC % 8 ≠ 0) ∧
    ({ topS 8 with lag := [1] }.check false false 0x1FFF8 8 8 = .ok (.bank 5 0x1FFF8) ∧ ({ topS 8 with lag := [1] } : State).poolLoad 0 < 4096 ∧
      Ready 5 0 (.ld fLd) fLd { topS 8 with lag := [1] } ∧ WellFormed (.ld fLd)) ∧
    ({ topS 8 with lag := [1] }.check true true 0x1234 4 4 = .ok (.glob 0x1234)) ∧
    (let f := fld .none (.g 2) .none 0x10000000;
      Ready 5 0 (.pref f) f { topS 8 with lag := [1] } ∧ WellFormed (.pref f)) ∧
    (let f := fld .none (.g 2) .none 0x10000000;
      let s := { withG [(2, 0x8000000000000000)] with lag := [1] };
      Ready 5 0 (.pref f) f s ∧ (s.hart.ea f).extractLsb' 57 7 ≠ 0) :=
  ⟨⟨quiet_of (by decide +kernel), by unfold State.faultsOnce; decide +kernel, ready_of (by decide +kernel), by decide +kernel⟩,
    ⟨quiet_of (by decide +kernel), ready_of (by decide +kernel), by decide +kernel, by decide +kernel⟩,
    ⟨ready_of (by decide +kernel), by decide +kernel⟩, ⟨rfl, by decide +kernel, ready_of (by decide +kernel), by decide +kernel⟩, rfl,
    ⟨ready_of (by decide +kernel), by decide +kernel⟩, ready_of (by decide +kernel), by decide +kernel⟩

/-- A base, and lane indices 0, 4, 8, …. -/
def gatherS : State :=
  onCore (fun x => { x with hart := x.hart.setG 2 0x1FF80, v := x.v.set 3 (BitVec.ofNat 1024 ((List.range 32).foldl (fun a e => a + 4 * e * 2 ^ (32 * e)) 0)) })
    fun co => { co with fill := -1 }
theorem wit_OwnLoads :
    (Quiet 5 0 (topS 8) ∧ Ready 5 0 (.ld fLd) fLd (topS 8) ∧ WellFormed (.ld fLd) ∧ ((topS 8).hart.ea fLd).toNat + 8 = 0x20000 ∧
      ((topS 8).core 5).locDesc 0x1FFF8 = {}) ∧
    (Ready 5 0 (.vld fV) fV (topS 128) ∧ WellFormed (.vld fV) ∧ Quiet 5 0 (topS 128)) ∧
    (let f := fld (.v 4) (.g 2) (.g 2) 0x8000080;
      Ready 5 0 (.vld f) f gatherS ∧ WellFormed (.vld f) ∧ Quiet 5 0 gatherS ∧ (gatherS.hart.ea f).toNat + 128 = 0x20000 ∧
      (gatherS.core 5).fillBit 1023 = true) ∧
    (let f := fld (.v 31) (.g 2) .none 0x1000000;
      Ready 5 0 (.ldblk f) f (topS 64) ∧ WellFormed (.ldblk f)) ∧
    (Ready 5 0 (.ldmeta (fld (.g 1) (.g 2) .none 0)) (fld (.g 1) (.g 2) .none 0) (topS 1) ∧ WellFormed (.ldmeta (fld (.g 1) (.g 2) .none 0))) ∧
    (let f := fld (.v 1) (.g 2) (.v 3) 0x9;
      Ready 5 0 (.vldx f) f gatherS ∧ WellFormed (.vldx f) ∧ ∀ e < 32, (gatherEa gatherS f e).toNat % 4 = 0 ∧
        (gatherEa gatherS f e).toNat + 4 ≤ 0x20000) ∧
    (let f := fld (.v 1) (.g 2) (.v 3) 0x9;
      Ready 5 0 (.vstx f) f gatherS ∧ WellFormed (.vstx f)) :=
  ⟨⟨quiet_of (by decide +kernel), ready_of (by decide +kernel), by decide +kernel, by decide +kernel, by decide +kernel⟩,
    ⟨ready_of (by decide +kernel), by decide +kernel, quiet_of (by decide +kernel)⟩,
    ⟨ready_of (by decide +kernel), by decide +kernel, quiet_of (by decide +kernel), by decide +kernel, by decide +kernel⟩,
    ⟨ready_of (by decide +kernel), by decide +kernel⟩, ⟨ready_of (by decide +kernel), by decide +kernel⟩,
    ⟨ready_of (by decide +kernel), by decide +kernel, by decide +kernel⟩, ready_of (by decide +kernel), by decide +kernel⟩

theorem wit_OwnWrites :
    (let f := fld (.g 1) (.g 2) .none 0x6000000;
      Ready 5 0 (.st f) f (topS 8) ∧ WellFormed (.st f) ∧ Quiet 5 0 (topS 8) ∧ f.af1 = false) ∧
    (Ready 5 0 (.vst fV) fV (topS 128) ∧ WellFormed (.vst fV) ∧ Quiet 5 0 (topS 128)) ∧
    (Ready 5 0 (.stblk fV) fV (topS 64) ∧ WellFormed (.stblk fV) ∧ Quiet 5 0 (topS 64)) ∧
    (let f := fld (.g 1) (.g 2) .none 0;
      Ready 5 0 (.stmeta f) f (topS 1) ∧ WellFormed (.stmeta f)) ∧
    (let f := fld (.g 1) (.g 2) (.g 3) 0x6C0C;
      Ready 5 0 (.aadd f) f (topS 64) ∧ WellFormed (.aadd f) ∧ f.af3 = false ∧ f.ordRel = true ∧ f.sc = 3 ∧
        0x1FFC0 % 64 + 8 ≤ 64 ∧ 0x1FFC0 + 64 ≤ 0x20000 ∧ ((topS 64).core 5).locDesc 0x1FFC0 ≠ ⟨0xFF, 0x7F⟩) ∧
    (let f := fld (.g 1) (.g 2) (.g 3) 0x9;
      Ready 5 0 (.afadd f) f (topS 64) ∧ WellFormed (.afadd f)) ∧
    (let f := fld (.v 1) (.g 2) (.v 3) (0xA ||| 2 <<< 18);
      Ready 5 0 (.ablk f) f (topS 64) ∧ WellFormed (.ablk f) ∧ (((topS 64).core 5).locDesc 0x1FFC0).fmt = 0) :=
  ⟨⟨ready_of (by decide +kernel), by decide +kernel, quiet_of (by decide +kernel), by decide +kernel⟩,
    ⟨ready_of (by decide +kernel), by decide +kernel, quiet_of (by decide +kernel)⟩,
    ⟨ready_of (by decide +kernel), by decide +kernel, quiet_of (by decide +kernel)⟩,
    ⟨ready_of (by decide +kernel), by decide +kernel⟩, ⟨ready_of (by decide +kernel), by decide +kernel⟩,
    ⟨ready_of (by decide +kernel), by decide +kernel⟩, ready_of (by decide +kernel), by decide +kernel⟩

theorem wit_FencesAndFills :
    let f := fld .none (.g 2) (.g 3) 0
    (Quiet 5 0 userS ∧ Ready 5 0 (.fence fN) fN userS ∧ Ready 5 0 (.phase fN) fN userS ∧ fN.sc ≠ 4) ∧
    (Ready 5 0 (.fset f) f (withG [(2, 0x1FF80), (3, 1)]) ∧ Quiet 5 0 (withG [(2, 0x1FF80), (3, 1)]) ∧ 0x1FF80 + 128 * 1 = 0x20000) ∧
    Ready 5 0 (.fclr f) f (withG [(2, 0), (3, 0)]) ∧
    (Ready 5 0 (.fset f) f (withG [(2, 1), (3, 1)]) ∧ (withG [(2, 1), (3, 1)]).faultsOnce 5 0) ∧
    (Ready 5 0 (.fset f) f (withG [(2, 0x1FF80), (3, 2)]) ∧ 0x20000 < 0x1FF80 + 128 * 2) :=
  ⟨⟨wit_quiet.1, ready_of (by decide +kernel), ready_of (by decide +kernel), by decide +kernel⟩,
    ⟨ready_of (by decide +kernel), quiet_of (by decide +kernel), by decide +kernel⟩, ready_of (by decide +kernel),
    ⟨ready_of (by decide +kernel), by unfold State.faultsOnce; decide +kernel⟩, ready_of (by decide +kernel), by decide +kernel⟩

/-- A fence at package scope while a store is counted, one at core scope over a store that stands in L1, and a `phase` behind a load. -/
def accA (kind : AKind) (tgt : Tgt) (stage : Stage) (n : Nat) : Access :=
  { id := 7, ctx := 0, user := true, kind := kind, pc := 0x174, counted := true,
    parts := [{ ea := 0x1000, tgt := tgt, off := 0, bytes := List.replicate n (some 0xAB), stage := stage }] }
def standS : State := onCore (fun x => { x with pend := [7] }) fun co =>
  { co with accs := [accA .st (.glob 0x1000) (.tagReq 0x1000) 4], l1 := [{ line := 0x20, valid := 1, dirty := 1 }] }
theorem wit_FenceWaits : readyNow 5 0 (.fence (fld .none .none .none 0xC00)) (fld .none .none .none 0xC00) standS = true ∧
    readyNow 5 0 (.fence fN) fN standS = true ∧ (fld .none .none .none 0xC00).sc = 3 ∧ fN.sc = 0 ∧
    standS.acc? 5 7 = some (accA .st (.glob 0x1000) (.tagReq 0x1000) 4) ∧ (standS.ctx 5 0).pend = [7] ∧
    (let copies := (standS.core (standS.l1Core 5 (0x1000 / 128))).l1.filter fun l => l.line == 0x1000 / 128;
      copies ≠ [] ∧ ∀ l ∈ copies, l.unmerged (0x1000 / 64 % 2) (byteMask 0x1000 (List.replicate 4 (some 0xAB))) = false) ∧
    readyNow 5 0 (.phase fN) fN (onCore id fun co => { co with accs := [accA (.ld 0 3) (.glob 0x1000) .wait 1] }) = true := by
  decide +kernel

/-- The first and the last place of each of the three spaces, and a misaligned address. -/
theorem wit_FarrierMemory :
    let ld := fld (.g 1) (.g 2) .none 0x6000000
    let af := fld (.g 1) (.g 2) .none 0x16000000
    farS.lag = [] ∧ (∀ a ∈ [0, 0xF8, 0x1000, 0x4FF8], farReadyNow 0 0 (.ld ld) ld (farG [(2, BitVec.ofNat 64 a)]) = true ∧
      farReadyNow 0 0 (.st ld) ld (farG [(2, BitVec.ofNat 64 a)]) = true ∧ a % 8 = 0) ∧
    (FarReady 0 0 (.ld af) af (farG [(2, 0x3FFFFFFFFFFFFF8)]) ∧ WellFormed (.ld af) ∧ WellFormed (.st af) ∧ 0x3FFFFFFFFFFFFF8 < 2 ^ 58) ∧
    (FarReady 0 0 (.ld ld) ld (farG [(2, 4)]) ∧ 4 % 8 ≠ 0 ∧ FarReady 0 0 (.ld ld) ld initS) ∧
    (∀ a ∈ [0x100, 0xFF8, 0x5000, 2 ^ 63], farReadyNow 0 0 (.ld ld) ld (farG [(2, BitVec.ofNat 64 a)]) = true ∧
      farReadyNow 0 0 (.st ld) ld (farG [(2, BitVec.ofNat 64 a)]) = true ∧ ((0x100 ≤ a ∧ a < 0x1000) ∨ 0x5000 ≤ a) ∧ a % 8 = 0) ∧
    FarReady 0 0 (.st af) af (farG [(2, 0x400000000000000)]) :=
  ⟨rfl, by decide +kernel, ⟨farReady_of (by decide +kernel), by decide +kernel, by decide +kernel, by decide +kernel⟩,
    ⟨farReady_of (by decide +kernel), by decide +kernel, farReady_of (by decide +kernel)⟩, by decide +kernel, farReady_of (by decide +kernel)⟩

theorem ok_of {α : Type} {e : Except Cause α} {x : α} (h : e.toOption = some x) : e = .ok x := by
  cases e <;> simp_all [Except.toOption]

/-- Dray commands whose checks pass: a copy of everything that fits, of nothing, into a slot; a gather and a scatter. -/
def lagS (l : List (Fin 16 × W64)) : State := { withG l with lag := [1] }
def recA : ProdRec := { cons := 4, buf := 2, free := 1, fill := 0, base := 0x400, size := 128, cnt := 2, inc := 1 }
/-- A list of one index, -1, at 0x800, and a table that begins at 0x2000 of the core's own local memory. -/
def ownRows : State := onCore (fun x => { x with hart := (((x.hart.setG 1 0x1000).setG 2 0x3000).setG 4 0x100000800).setG 5 0x8000050000002000 })
  fun co => { co with loc := [(0x800, 0xFF), (0x801, 0xFF), (0x802, 0xFF), (0x803, 0xFF)] }
theorem wit_DrayEntries :
    let f := fG
    let fs := fld (.g 1) (.g 2) (.g 3) 0x40000000
    let fg := fld (.g 1) (.g 4) .none 0x01000009
    let fd := fld (.g 4) (.g 2) .none 0x9
    let s := lagS [(1, 0), (2, 0), (3, 0x20000)]
    let slotted := { onCore (fun x => { x with hart := (x.hart.setG 1 0x8000040000000002).setG 3 128 }) (fun co => { co with prods := [recA] }) with lag := [1] }
    let t := lagS [(1, 0x1000), (2, 0x2000), (4, 0x100000800), (5, 0x40)]
    (Ready 5 0 (.dcopy f) f s ∧ WellFormed (.dcopy f) ∧ (s.core 5).dray.length < 2 ∧ s.lag.headD 0 ≠ 0 ∧
      s.place 5 true false 0 0x20000 = .ok (.bank 5 0)) ∧
    (Ready 5 0 (.dcopy f) f (lagS [(1, 0x1FFC0), (2, 0x1FFC0), (3, 0)]) ∧ s.place 5 true false 0x1FFC0 0 = .ok (.bank 5 0x1FFC0)) ∧
    (Ready 5 0 (.dcopy fs) fs slotted ∧ WellFormed (.dcopy fs) ∧ slotted.slotHandle 5 0x8000040000000002 = .ok (4, 2) ∧
      (slotted.core 5).prodRec 4 2 = some recA ∧ 128 ≤ recA.size) ∧
    (Ready 5 0 (.dgath fg) fg t ∧ WellFormed (.dgath fg) ∧ ((0x100000800 : W64).extractLsb' 32 16).toNat = 1 ∧ fg.bits 24 5 = 1 ∧
      t.place 5 true false 0x800 4 = .ok (.bank 5 0x800) ∧ t.place 5 true true 0x40 0 = .ok (.glob 0x40)) ∧
    (Ready 5 0 (.dscad fd) fd t ∧ WellFormed (.dscad fd)) ∧
    (Ready 5 0 (.dcopy f) f (withG [(1, 0), (2, 0x1FF80), (3, 0x80)]) ∧ Quiet 5 0 (withG [(1, 0), (2, 0x1FF80), (3, 0x80)])) ∧
    (Quiet 5 0 ownRows ∧ Ready 5 0 (.dgath fg) fg ownRows ∧ Ready 5 0 (.dscad fd) fd ownRows) :=
  ⟨⟨ready_of (by decide +kernel), by decide +kernel, by decide +kernel, by decide +kernel, ok_of (by decide +kernel)⟩, ⟨ready_of (by decide +kernel), ok_of (by decide +kernel)⟩,
    ⟨ready_of (by decide +kernel), by decide +kernel, ok_of (by decide +kernel), by decide +kernel, by decide +kernel⟩,
    ⟨ready_of (by decide +kernel), by decide +kernel, by decide +kernel, by decide +kernel, ok_of (by decide +kernel), ok_of (by decide +kernel)⟩,
    ⟨ready_of (by decide +kernel), by decide +kernel⟩, ⟨ready_of (by decide +kernel), quiet_of (by decide +kernel)⟩,
    quiet_of (by decide +kernel), ready_of (by decide +kernel), ready_of (by decide +kernel)⟩
/-- Row 1 of the table at 0x2000, reached by the last index of the list; nothing meets. -/
theorem wit_DrayEntries_rows : (ownRows.place 5 true true 0x8000050000002000 1).toOption = some (.bank 5 0x2000) ∧
    (let ea : W64 := 0x8000050000002000 + BitVec.ofInt 64 (signExt 32 (leNat (memRead (ownRows.core 5).loc 0x800 4)) * 64);
      ea = 0x8000050000001FC0 ∧ ownRows.windowCore 5 ea = some 5 ∧ ((ownRows.core 5).locDesc (ea.toNat % 2 ^ 17)).fmt = 0) := by
  decide +kernel

/-- A rank table of one package: rank 0 at core 5, rank 1 withheld, rank 2 not valid, rank 3 at core 6, no core of the job. -/
def rankS (r : W64) : State :=
  { withG [(1, r)] with
    pkgs := [(0, { rankBase := 0x1000, rankLen := 4 })]
    mem := [(0x1000, 5), (0x1002, 0x40), (0x1004, 5), (0x1006, 0xC0), (0x100C, 6), (0x100E, 0x40)] }
def fSend : Fields := fld (.g 1) (.g 10) .none 0x20123
def fullRetry : State := onCore id fun co =>
  { co with retry := Vector.replicate 8 (some ⟨{ uid := 1, target := 5, ty := 1, payload := [], kind := 0 }, .sent, 256⟩) }
theorem wit_MessagesSent :
    (Ready 5 0 (.send fSend) fSend fullRetry ∧ (fullRetry.core 5).freeSlot = none) ∧
    (let s := withG [(1, 0x8000050000000000)];
      Ready 5 0 (.send fSend) fSend s ∧ s.windowCore 5 0x8000050000000000 = some 5 ∧ s.jobMate 5 5 = true ∧ s.reaches 0 0 = true ∧
      (s.core 5).freeSlot = some 0 ∧ (s.ctx 5 0).pend.length < 0xFFFF) ∧
    (let s := withG [(1, 0x8000060000000000)];
      Ready 5 0 (.send fSend) fSend s ∧ s.windowCore 5 0x8000060000000000 = some 6 ∧ s.jobMate 5 6 = false ∧ s.faultsOnce 5 0) ∧
    (Ready 5 0 (.sendr fSend) fSend (rankS 0) ∧ (rankS 0).rankSeen 0 0 = 0x400005 ∧ rankCore 0x400005 = 5 ∧
      (rankS 1).rankSeen 0 1 = 0xC00005 ∧ (rankS 2).rankSeen 0 2 = 0 ∧ (rankS 3).rankSeen 0 3 = 0x400006 ∧
      (rankS 4).rankSeen 0 4 = 0 ∧ (rankS 3).jobMate 5 6 = false) ∧
    (let s := withG [(2, 0x8000050000000000)];
      Ready 5 0 (.hop fNG) fNG s ∧ Quiet 5 0 s ∧ (s.ctx 5 0).sup = false ∧ (s.ctx 5 0).fwd = none ∧
      s.windowCore 5 0x8000050000000000 = some 5 ∧ s.jobMate 5 5 = true ∧ s.reaches 0 0 = true ∧ (s.pkg 0).ivs = []) :=
  ⟨⟨ready_of (by decide +kernel), by decide +kernel⟩,
    ⟨ready_of (by decide +kernel), by decide +kernel⟩,
    ⟨ready_of (by decide +kernel), by decide +kernel, by decide +kernel, by unfold State.faultsOnce; decide +kernel⟩,
    ⟨ready_of (by decide +kernel), by decide +kernel⟩, ready_of (by decide +kernel), quiet_of (by decide +kernel), by decide +kernel⟩

/-- A slot buffer of two slots of 128 bytes, with `n` slots filled and `o` taken and not released. -/
def bufA (n o : Nat) : SlotBuf :=
  { base := 0x400, size := 128, cnt := 2, filled := n, out := o, counts := [0, 0], marks := [false, false], prod := 5, inc := 1 }
def slotS (n o : Nat) (g2 : W64) : State :=
  onCore (fun x => { x with hart := x.hart.setG 2 g2 }) fun co =>
    { co with slots := co.slots.set 2 (some (bufA n o)), prods := [{ recA with cons := 5, free := n }] }
theorem wit_SlotBuffers :
    (let f := fld (.g 1) (.g 2) (.imm 64) 0;
      let s := withG [(1, 0x8000050000000000), (2, 0x1E000)];
      Ready 5 0 (.slinit f) f s ∧ Quiet 5 0 s ∧ s.recs = [] ∧ s.rets = [] ∧ s.windowCore 5 0x8000050000000000 = some 5 ∧ s.jobMate 5 5 = true ∧
        (s.core 5).pre.step < 2 ∧ (∀ p ∈ (s.core 5).prods, p.inc ≤ s.ids) ∧ 0x1E000 + 128 * 64 = 0x20000) ∧
    (∀ n ∈ [0, 1], readyNow 5 0 (.slacqP fGN) fGN (slotS n 0 0x8000050000000002) = true ∧ WellFormed (.slacqP fGN) ∧
      quietNow 5 0 (slotS n 0 0x8000050000000002) = true ∧ ((slotS n 0 0).core 5).prodRec 5 2 = some { recA with cons := 5, free := n }) ∧
    (slotS 0 0 0).slotHandle 5 0x8000050000000002 = .ok (5, 2) ∧
    (let f := fld (.g 1) (.imm 2) .none 0x20000;
      WellFormed (.slacqC f) ∧ ∀ n ∈ [0, 2], readyNow 5 0 (.slacqC f) f (slotS n 0 2) = true ∧
        ((slotS n 0 2).core 5).slots[2] = some (bufA n 0)) ∧
    (∀ o ∈ [0, 2], readyNow 5 0 (.slrel fNG) fNG (slotS 0 o 2) = true) ∧
    (Ready 5 0 (.slrel fNG) fNG (slotS 0 0 3) ∧ ((slotS 0 0 3).core 5).slots[3] = none) :=
  ⟨⟨ready_of (by decide +kernel), quiet_of (by decide +kernel), rfl, rfl, by decide +kernel⟩,
    by decide +kernel, rfl, ⟨by decide +kernel, by decide +kernel⟩, by decide +kernel, ready_of (by decide +kernel), by decide +kernel⟩

def fTj : Fields := fld .none (.v 3) .none (1 ||| 9 <<< 8 ||| 16 <<< 16 ||| 1 <<< 21)
def fTr : Fields := fld (.v 3) .none .none 0
def treadS (n : Nat) (l : List Result) : State := onCore (fun x => { x with joined := n }) fun co => { co with extract := l }
def resA (bad : Bool) : Result := { ctx := 0, sig := fTj.mi, elems := [1, 2], flags := 0, bad := bad }
/-- A context that waits at `bar`, its episode not complete or complete. -/
def barS (d : List (Fin 8)) : State :=
  onCore (fun x => { x with wait := .bar 3 3 }) fun co => { co with barArr := co.barArr.set 3 [some 0], barDone := co.barDone.set 3 d }
theorem wit_GroupOperations :
    (Quiet 5 0 { withG [] with lag := [] } ∧ Ready 5 0 (.tjoin fTj) fTj { withG [] with lag := [0, 1] } ∧ WellFormed (.tjoin fTj) ∧
      sigScope fTj.mi = 1) ∧
    (WellFormed (.tread (fld (.g 1) .none .none 0)) ∧ WellFormed (.tread fTr) ∧ Ready 5 0 (.tread fTr) fTr (treadS 0 []) ∧ (treadS 0 []).faultsOnce 5 0 ∧
      Ready 5 0 (.tread fTr) fTr (treadS 1 []) ∧ ∀ b ∈ [true, false], quietNow 5 0 (treadS 1 [resA b]) = true ∧
        readyNow 5 0 (.tread fTr) fTr (treadS 1 [resA b]) = true) ∧
    (let f := fld .none .none .none (1 <<< 10);
      Ready 5 0 (.bar f) f userS ∧ Quiet 5 0 userS ∧ userS.members 5 1 = [5] ∧ f.sc = 1) ∧
    (let f := fld .none .none .none (3 <<< 10);
      Ready 5 0 (.bar f) f pairS ∧ Quiet 5 0 pairS ∧ pairS.members 5 3 = [4, 5] ∧ (pairS.core 4).barArr[3] = []) ∧
    (let f := fld .none .none .none (3 <<< 10);
      Eligible 5 0 (.bar f) f (barS []) ∧ Eligible 5 0 (.bar f) f (barS [0]) ∧ ((barS []).core 5).barArr[3] = [some 0] ∧
      ((barS [0]).core 5).l1 = [] ∧ ((barS [0]).core 5).fused = false ∧ ((barS [0]).core 5).barDone[3] = [0]) ∧
    Ready 5 0 (.qfence (fld .none .none .none 0xE0000)) (fld .none .none .none 0xE0000) userS :=
  ⟨⟨quiet_of (by decide +kernel), ready_of (by decide +kernel), by decide +kernel, by decide +kernel⟩,
    ⟨by decide +kernel, by decide +kernel, ready_of (by decide +kernel), by unfold State.faultsOnce; decide +kernel, ready_of (by decide +kernel), by decide +kernel⟩,
    ⟨ready_of (by decide +kernel), wit_quiet.1, by decide +kernel, by decide +kernel⟩,
    ⟨ready_of (by decide +kernel), quiet_of (by decide +kernel), by decide +kernel, by decide +kernel⟩,
    ⟨eligible_of (by decide +kernel), eligible_of (by decide +kernel), by decide +kernel⟩, ready_of (by decide +kernel)⟩

/-- Arming with every counter taken, with counter 15 alone free, and with counter 0 free; a counter armed at core 5. -/
def armS (n : Nat) : State :=
  onCore (fun x => { x with hart := (((x.hart.setG 4 0x1000).setG 5 0x40).setG 6 0).setG 7 0 }) fun co =>
    { co with ctrs := Vector.ofFn fun i : Fin 16 => if i.val < n then { alloc := true, armed := true, base := 0x2000, nlm1 := 0, total := 128, count := 5 } else {} }
def fArm : Fields := fld (.g 1) (.g 4) .none 0x40000
def ctrS : State := onCore (fun x => { x with hart := x.hart.setG 2 0x8000050000000000 }) fun co =>
  { co with ctrs := co.ctrs.set 0 { alloc := true, armed := true, total := 128, count := 5, owner := .core 5 } }
/-- An event that comes to a next state of which a test holds. -/
def evt (i : Instr) (s : State) (p : State → Bool) : Bool := match exec i s with | .next t => p t | _ => false

/-- A global window in the first two lines of a large page, its home slice with all its counters taken, all but the last, or none; a window
at the page's end, and one that an armed counter has. -/
def globS (n base : Nat) : State :=
  { onCore (fun x => { x with hart := (((x.hart.setG 4 (BitVec.ofNat 64 base)).setG 5 0x40).setG 6 0).setG 7 0 })
      (fun co => { co with tlb := [⟨0, true, 1, true, false, true⟩] }) with
    dies := [(homeDie (2 ^ 26 + base), { gctrs := (List.range n).map fun j => (homeSlice (2 ^ 26 + base) * 64 + j, { alloc := true }) })] }
def fGlob : Fields := fld (.g 1) (.g 4) .none 0x140000
theorem wit_CounterInstructions_global :
    (∀ n ∈ [0, 63, 64], quietNow 5 0 (globS n 0x1000) = true ∧ readyNow 5 0 (.carm fGlob) fGlob (globS n 0x1000) = true ∧
      (carmCheck (.carm fGlob) (carmArgs fGlob (globS n 0x1000).hart) (globS n 0x1000)).toOption = some 0 ∧
      evt (.carm fGlob) (globS n 0x1000) (fun t => ((t.ctx 5 0).hart.g[1] == BitVec.allOnes 64) == (n == 64)) = true) ∧
    (WellFormed (.carm fGlob) ∧ (carmArgs fGlob (globS 0 0x1000).hart).glob = true ∧ (carmArgs fGlob (globS 0 0x1000).hart).size = 128 ∧
      ((globS 0 0x1000).core 5).tlb.find? (fun e => e.has 0x1000) = some ⟨0, true, 1, true, false, true⟩ ∧
      isHbm (2 ^ 26 + 0x1000) = true ∧ homePkg (2 ^ 26 + 0x1000) = pkgOf 5 ∧ homeSlice (2 ^ 26 + 0x1000) < 80) ∧
    (let s := globS 0 0x1000; let t := { s with dies := [(3, { gctrs := [(5, { alloc := true, armed := true, base := 2 ^ 26 + 0x1000, total := 1 })] })] };
      s.faultsOnce 5 0 ∧ quietNow 5 0 t = true ∧ (t.dies.any fun e => e.1 / 8 == 0 && e.2.gctrs.any fun g => g.2.meets (2 ^ 26 + 0x1000) 128) = true) :=
  ⟨by decide +kernel, by decide +kernel, by unfold State.faultsOnce; decide +kernel, by decide +kernel, by decide +kernel⟩

theorem wit_CounterInstructions :
    (∀ n ∈ [0, 15, 16], readyNow 5 0 (.carm fArm) fArm (armS n) = true ∧ quietNow 5 0 (armS n) = true) ∧
    WellFormed (.carm fArm) ∧ (carmArgs fArm (armS 0).hart).glob = false ∧
    (carmCheck (.carm fArm) (carmArgs fArm (armS 0).hart) (armS 0)).toOption = some 0 ∧
    (carmArgs fArm (withG [(4, 0), (5, 0)]).hart).total = 0 ∧
    (Ready 5 0 (.cdis fGN) fGN ctrS ∧ Quiet 5 0 ctrS ∧ ctrS.ctrCheck 5 0x8000050000000000 = some (.loc 5 0) ∧
      (ctrS.ctr (.loc 5 0)).canFire = false) ∧
    Ready 5 0 (.cadd (fld .none (.g 2) (.imm 1) 0)) (fld .none (.g 2) (.imm 1) 0) ctrS ∧
    (∀ n ∈ [0, 1, 2], ∀ f ∈ [fld (.g 1) (.g 2) .none (BitVec.ofNat 32 (n * 2 ^ 17))], readyNow 5 0 (.crdTot f) f ctrS = true) ∧
    (let f := fld (.g 1) (.g 2) (.g 0) (9 <<< 17);
      Ready 5 0 (.crdStatW f) f ctrS ∧ WellFormed (.crdStatW f) ∧ (ctrS.ctr (.loc 5 0)).fires = ((ctrS.hart.opd (.g 0)).setWidth 16 : BitVec 16)) ∧
    (let f := fld (.g 1) (.g 2) (.g 3) (9 <<< 17);
      Ready 5 0 (.crdStatW f) f { ctrS with ids := 0 } ∧ (ctrS.hart.opd (.g 3)).setWidth 16 = (0x300 : BitVec 16)) ∧
    (let f := fld (.g 1) (.imm 2) .none (3 <<< 17);
      Ready 5 0 (.crdCons f) f (slotS 1 0 0) ∧ WellFormed (.crdCons f)) ∧
    (let f := fld (.g 1) (.imm 9) .none (6 <<< 17);
      Ready 5 0 (.crdMon f) f supS ∧ WellFormed (.crdMon f)) ∧
    (Ready 5 0 (.pcrd (fld (.g 1) (.imm 7) .none 0)) (fld (.g 1) (.imm 7) .none 0) userS) ∧
    (let f := fld .none (.imm 0) (.g 3) 0;
      Ready 5 0 (.pccfg f) f (onCore (fun x => { x with sup := true, hart := x.hart.setG 3 0x1FF13 }) id) ∧
      Ready 5 0 (.pccfg f) f (onCore (fun x => { x with sup := true, hart := x.hart.setG 3 0x3FF13 }) id) ∧
      ∀ n ∈ [0x1FF13, 0x3FF13], let v := BitVec.ofNat 64 n; (v.extractLsb' 0 8).toNat ≤ 0x13 ∧ v.extractLsb' 18 46 = 0 ∧ v.extractLsb' 0 8 ≠ 2) :=
  ⟨by decide +kernel, by decide +kernel, by decide +kernel, by decide +kernel, by decide +kernel,
    ⟨ready_of (by decide +kernel), quiet_of (by decide +kernel), by decide +kernel, by decide +kernel⟩, ready_of (by decide +kernel),
    by decide +kernel, ⟨ready_of (by decide +kernel), by decide +kernel, by decide +kernel⟩, ⟨ready_of (by decide +kernel), by decide +kernel⟩,
    ⟨ready_of (by decide +kernel), by decide +kernel⟩, ⟨ready_of (by decide +kernel), by decide +kernel⟩, ready_of (by decide +kernel),
    ready_of (by decide +kernel), ready_of (by decide +kernel), by decide +kernel⟩

/-! #### Events -/

/-- A wait for cycle 5 in the instruction cache, a gap, an occupancy and a window at their last cycle. -/
def waitW : BitVec 96 := encode (.waitTime (fld .none (.imm 5) .none (3 <<< 17)))
def timeS (cyc : W64) : State := onCore id fun co =>
  { co with cyc := cyc, ic := [{ va := 0x180, user := true, code := wordBytes waitW }] }
theorem wit_TimersAndErrors :
    (∀ n ∈ [0, 1, 2], evt (.gapCountExpiry 5 0) (onCore (fun x => { x with gap := n }) id) (fun t => (t.ctx 5 0).gap == if n = 1 then 0 else n) = true) ∧
    (evt (.occupancyEnd 5 0) (onCore (fun x => { x with occ := 1, unit := some .vec, swEnd := true }) id)
      (fun t => (t.core 5).order == [1, 2, 3, 4, 5, 6, 7, 0]) = true) ∧
    (((timeS 4).ctx 5 0).pool = .busy ∧ fetchWord ((timeS 4).core 5) true 0x180 = some waitW) ∧
    (((timeS 5).core 5).ready 0 = true ∧ (timeS 5).dueFirst 5 0 = false) ∧
    decode waitW = some (.waitTime (fld .none (.imm 5) .none (3 <<< 17))) ∧
    Ready 5 0 (.waitTime (fld .none (.imm 5) .none (3 <<< 17))) (fld .none (.imm 5) .none (3 <<< 17)) (timeS 5) ∧
    (evt (.instructionCompletion 5 0 1) (onCore (fun x => { x with flight := [{ id := 1, pc := 0, left := 1, dests := [], writes := [.g 3 7] }] }) id)
      (fun t => (t.ctx 5 0).hart.g[3] == 7) = true) ∧
    evt (.uncorrectableError (.glob 0x1040)) userS (fun t => (t.sideOf 0x41).desc.fmt == 0xFF && (t.pkg 0).irqs == [(0, 3)]) = true ∧
    evt (.dflagsUpdate 0 (-1)) (onCore (fun x => { x with fflags := 9 }) id) (fun t => (t.die 0).dflags == 9) = true :=
  by refine ⟨?_, ?_, ?_, ?_, ?_, ready_of ?_, ?_, ?_, ?_⟩ <;> decide +kernel

def regA : Region := { w0 := 0x3D, w1 := 0x1000000000 }
/-- The access, a region over the first gibibyte, the blocks 0x40 and 0x41 writable at home, and a counter on 0x1000 to 0x107F. -/
def accS (a : Access) : State :=
  { onCore (fun x => { x with pend := [7] }) (fun co => { co with accs := [a], loc := [(0x100, 0x80)] }) with
    pkgs := [(0, { bootst := 0, regions := [(0, regA)] })]
    side := [(0x40, { tag := some 2 }), (0x41, { tag := some 2 })]
    dies := [(0, { gctrs := [(0, { alloc := true, armed := true, base := 0x1000, total := 256, owner := .core 5 })] })] }
theorem wit_AccessEvents :
    (let s := accS (accA (.ld 0 3) (.bank 5 0x100) .wait 1);
      (s.core 5).accs.length = 1 ∧ (s.core 5).rels = [] ∧ memWf (s.core 5).loc = true ∧ memWf s.mem = true ∧ s.lag = [] ∧ s.fab = [] ∧
      evt (.accessReply 5 7) s (fun t => (t.ctx 5 0).hart.g[3] == (-128 : W64)) = true) ∧
    evt (.storeAck 5 7) (accS (accA .st (.bank 5 0x1FFF8) .wait 8)) (fun t => memGet (t.core 5).loc 0x1FFFF == 0xAB && (t.ctx 5 0).pend == []) = true ∧
    (let s := { accS (accA (.ld 0 3) (.bank 4 0x100) .wait 1) with cores := [(4, { coreA with loc := [(0x100, 0x80)] }), (5, { coreA with accs := [accA (.ld 0 3) (.bank 4 0x100) .wait 1] })] };
      pkgOf 4 = pkgOf 5 ∧ (s.core 4).pre.step < 2 ∧ evt (.remoteLoadRequest 5 7 0) s (fun t => t.stageOf 5 7 0 == some .served) = true) ∧
    (let s := accS (accA (.atomic .add 32 none 1 0) (.glob 0x1044) (.ready 0x1044) 4);
      isHbm 0x1044 = true ∧ homePkg 0x1044 = pkgOf 5 ∧ (s.core (s.l1Core 5 0x20)).l1 = [] ∧ s.regionOf 0 0x1044 = some (0, regA) ∧
      regA.hostOwned = false ∧ s.rebinding 0 0 = false ∧ s.homeTag 0x41 = 2 ∧ ctlBlk 0 + 64 ≤ 0x41 ∧ (s.homeDesc 0x41).fmt ≠ 0xFF ∧
      evt (.atomicAtHome 5 7) s (fun t => memGet t.mem 0x1044 == 1) = true) ∧
    (let s := accS (accA .st (.glob 0x107F) (.sent 0x107F) 1);
      s.armed 0x107F = true ∧ s.armed 0x1080 = false ∧ s.rebinding 0 0 = false ∧ 0x107F % 64 + 1 ≤ 64 ∧ evt (.countedStore 5 7 0) s (fun t => memGet t.mem 0x107F == 0xAB) = true) ∧
    (let s := { accS (accA .st (.glob 0x1000) (.tagReq 0x1000) 4) with
        dies := [], side := [(0x40, { tag := some 1 })], cores := [(5, { coreA with accs := [accA .st (.glob 0x1000) (.tagReq 0x1000) 4], l1 := [{ line := 0x20 }] })] };
      s.dieTag (dieOf 5) 0x40 ≠ 2 ∧ s.armed 0x1000 = false ∧ ((s.core (s.l1Core 5 (0x1000 / 128))).l1.any fun l => l.line == 0x1000 / 128) = true ∧ evt (.tagReply 5 7) s (fun t => t.stageOf 5 7 0 == some (.susp 0x1000)) = true) := by
  decide +kernel

/-- Tables whose four levels lie at 0x10000 (root), 0x14000, 0x16000 and 0x18000 for the page of 0x12345: `e` are the entries on its way. -/
def walkS (e : Nat → Nat) (blkTag : BitVec 2) (user : Bool) (kind : AKind) (root : BitVec 58) : State :=
  { accS { accA kind (.glob 0x12345) (.walk []) 4 with user := user } with
    dies := [(0, { root := root })]
    side := [(0x400, { tag := some 2 }), (0x500, { tag := some 2 }), (0x580, { tag := some 2 }), (0x600, { tag := some blkTag })]
    mem := memWrite (memWrite (memWrite (memWrite [] 0x10000 ((leBytes 8 (e 0)).map some)) 0x14000 ((leBytes 8 (e 1)).map some)) 0x16000
      ((leBytes 8 (e 2)).map some)) 0x18008 ((leBytes 8 (e 3)).map some) }
/-- Three tables and a leaf with the given low bits, at page frame 0x32. -/
def chain (low : Nat) : Nat → Nat := fun n => if n < 3 then [0x14001, 0x16001, 0x18001].getD n 0 else 0x320000 + low
/-- A leaf at level 3 or at level 2, one whose bits forbid the access, an entry with V = 0 (for a user and for a supervisor access), a
malformed one, a table block that may not be read, and a root with V = 0. -/
theorem wit_TranslationAndReleases_walks : (walkS (chain 0x13) 2 true (.ld 4 3) 0x10001).walkerFull 0 = false ∧
    ∀ e ∈ [(chain 0x13, (2 : BitVec 2), true, (0x10001 : BitVec 58), Stage.ready 0x322345), (chain 3, 2, false, 0x10001, .ready 0x322345),
        (fun n => if n = 2 then 0x8000013 else chain 0 n, 2, true, 0x10001, .ready 0x8012345),
        (chain 3, 2, true, 0x10001, .failed 0x06 0x1000), (chain 0x12, 2, true, 0x10001, .missed), (chain 0x12, 2, false, 0x10001, .failed 0x06 0x1000),
        (chain 0x33, 2, true, 0x10001, .failed 0x06 0x1000), (chain 0x1013, 2, true, 0x10001, .failed 0x06 0x1000),
        (fun n => if n = 0 then 0 else chain 0x13 n, 2, true, 0x10001, .missed), (chain 0x13, 0, true, 0x10001, .walkSusp 0x18008 []),
        (chain 0x13, 2, true, 0x10000, .missed)],
      evt (.translationWalk 5 7 0 false) (walkS e.1 e.2.1 e.2.2.1 (.ld 4 3) e.2.2.2.1) (fun t => t.stageOf 5 7 0 == some e.2.2.2.2) = true := by
  decide +kernel
/-- The tables are under a region and may be read, and each kind of access asks for its own bit of the leaf. -/
theorem wit_TranslationAndReleases_kinds :
    (let s := walkS (chain 0x13) 2 true (.ld 4 3) 0x10001; ∀ x ∈ [0x10000, 0x14000, 0x16000, 0x18008], s.regionOf 0 x = some (0, regA) ∧
      regA.hostOwned = false ∧ s.rebinding 0 0 = false ∧ tagReads (s.dieTag 0 (x / 64)) = true ∧
      leNat (((bytesB (s.dieBuf 0 (x / 64)).data).drop (x % 64)).take 8) = (if x = 0x18008 then 0x320013 else x + 0x2001 + if x = 0x10000 then 0x2000 else 0)) ∧
    ∀ e ∈ [(AKind.st, 0x13, false), (.st, 0x17, true), (.fetch, 0x13, false), (.fetch, 0x1B, true)],
      evt (.translationWalk 5 7 0 false) (walkS (chain e.2.1) 2 true e.1 0x10001) (fun t =>
        (t.stageOf 5 7 0 == some (.failed 0x06 0x1000)) != e.2.2) = true := by
  decide +kernel
theorem wit_TranslationAndReleases :
    isHbm (Tlb.pa ⟨1, false, 3, true, false, true⟩ 0x12345) = true ∧ userS.reaches 0 (homePkg 0x32345) = true ∧
    (∀ u ∈ [true, false], let s := { accS (accA .xlate (.glob 0x12345) .wait 4) with cores := [(5, { coreA with accs := [accA .xlate (.glob 0x12345) .wait 4], tlb := [⟨1, false, 3, true, false, u⟩] })] };
      (s.core 5).tlb.find? (fun e => e.has 0x12345) = some ⟨1, false, 3, true, false, u⟩ ∧
      evt (.translationWalk 5 7 0 false) s (fun t => t.stageOf 5 7 0 == some (if u then .served else .failed 0x06 0x1000)) = true) ∧
    (let s := accS (accA (.ld 4 3) (.glob 0x12345) .missed 4);
      (s.core 5).tlb = [] ∧ (s.die 0).tlb = [] ∧ (s.die 0).root.getLsbD 0 = false ∧
      (s.die 0).parked.length < 4096 ∧ (s.die 0).fbuf = [] ∧ evt (.accessPark 5 7 0) s (fun t => (t.die 0).fbuf.length == 1) = true) ∧
    (let s := onCore id fun co => { co with rels := [{ id := 2, ctx := 0, user := true, scope := 3, x := false, caps := [1], words := [], descs := [] }] };
      s.capLive 5 1 = false ∧ (s.core 5).landing { id := 2, ctx := 0, user := true, scope := 3, x := false, caps := [1], words := [], descs := [] } = false ∧
      evt (.releaseComplete 5) s (fun t => (t.core 5).rels == []) = true) := by
  decide +kernel

/-- A reply fault at a context that may take it, and an interrupt of a server core. -/
theorem wit_ContextEvents :
    (let r : RFault := { ctx := 0, seq := 1, user := true, cause := 0x09, eaddr := 0x77 };
      let s := onCore id fun co => { co with rfaults := [r] };
      (s.ctx 5 0).mayTrap = true ∧ (s.core 5).dueFault 0 = some r ∧ (s.core 5).pre.step = 0 ∧
      r.fetch = false ∧ r.early = false ∧ (s.ctx 5 0).wait = .none ∧
      evt (.replyFaultEntry 5 0) s (fun t => (t.ctx 5 0).ecause == 0x09 && (t.core 5).rfaults == []) = true) ∧
    (let r : RFault := { ctx := 0, seq := 1, user := false, cause := 0x09, eaddr := 0x77, early := true };
      let s := onCore (fun x => { x with sup := true }) fun co => { co with rfaults := [r] };
      (s.ctx 5 0).mayTrap = true ∧ (s.core 5).dueFault 0 = some r ∧
      evt (.replyFaultEntry 5 0) s (fun t => (t.ctx 5 0).wait == .finish 0 && (t.core 5).frozen) = true) ∧
    (let s : State := { cores := [(0, { coreA with ctxs := coreA.ctxs.set 0 { ctxA with ien := true } })], pkgs := [(0, { servers := [0], irqs := [(0, 3)] })], cur := .ctx 0 0 };
      s.irqOf 0 = some (0, 3) ∧ (s.core 0).irqCtx = some 0 ∧ (s.ctx 0 0).mayTrap = true ∧ (s.core 0).boundaryFault 0 = none ∧
      evt (.interruptEntry 0) s (fun t => (t.ctx 0 0).ecause == 0x18 && (t.ctx 0 0).eaddr == 3) = true) ∧
    (let s := onCore id fun co => { co with anvil := [{ id := 1, ctx := 0, user := true, op := .azero 0 }] };
      evt (.anvilEntryStart 5) s (fun t => (t.core 5).anvRun.isSome) = true) ∧
    (let s := onCore id fun co => { co with anvRun := some ({ id := 1, ctx := 0, user := true, op := .azero 0 }, []) };
      evt (.anvilEntryComplete 5 0) s (fun t => (t.core 5).anvRun == none) = true) ∧
    (let s := onCore id fun co => { co with drains := [{ id := 1, seq := 1, ctx := 0, user := true, dst := 5, off := 0, addr := 0x8000050000000000, desc := {}, lines := [], wake := some 0x12, x := 9 }] };
      (s.core 5).freeSlot = some 0 ∧ evt (.drainWakeup 5 1) s (fun t => (t.core 5).drains == []) = true) ∧
    (let s := { onCore id (fun co => { co with dray := [{ id := 1, ctx := 0, user := true, op := .dcopy 0 0x100 64 false false false false false }] }) with lag := [1] };
      evt (.drayEntryStart 5) s (fun t => (t.core 5).drayRun.isSome && (t.core 5).dray == []) = true) ∧
    (let s := onCore id fun co => { co with drayBad := [⟨1, 0, true, 0x09, 5, false⟩] };
      evt (.drayFaultReport 5) s (fun t => (t.core 5).rfaults.length == 1) = true) ∧
    (let s := { userS with cores := [(4, { coreA with drayOut := [{ n := 1, cmd := 1, ctx := 1, ea := 0x8000050000000040, dst := 5, off := 0x40, data := 7, desc := none, full := false }] }), (5, coreA)] };
      evt (.remoteWritePerformed 5 [.dray 4 1]) s (fun t => memGet (t.core 5).loc 0x40 == 7 && (t.core 4).drayOut == []) = true) := by
  decide +kernel

/-- A message of core 4 to core 5, its handler entry in memory, and a free context. -/
def msgM (ty : BitVec 12) (hop : Option HopImg) : RSlot :=
  ⟨{ uid := 9, target := 5, ty := ty, payload := [1, 2], kind := if hop.isSome then 3 else 0, ctx := some 2, hop := hop }, .sent, 256⟩
def hopA : HopImg :=
  { g := Vector.replicate 16 3, c := 1, pc := 0x240, lc := Vector.replicate 2 0, ls := Vector.replicate 2 0, le := Vector.replicate 2 0,
    jord := 1, fround := 0, mmrev := 2, srctr := 0, mask := 0 }
def mailS (r : RSlot) : State :=
  { cores := [(4, { coreA with retry := (Vector.replicate 8 (none : Option RSlot)).set 7 (some r) }), (5, { coreA with ctxs := Vector.replicate 8 {} })]
    pkgs := [(0, { bootst := 0, htabBase := 0x8000 })]
    mem := [(0x8091, 0x03), (0x8097, 0x06), (0xF801, 0x03), (0xF807, 0x06)], cur := .ctx 5 0 }
theorem wit_MessagesReceived :
    (∀ r ∈ [msgM 0x12 none, msgM 0xF00 none, msgM 0 (some hopA)], let s := mailS r;
      s.slot ⟨4, 7⟩ = some r ∧ s.mayArrive 5 ⟨4, 7⟩ = true ∧ (s.core 5).frozen = false ∧ (s.core 5).halted = false ∧ (s.core 4).accs = [] ∧
      (s.ctx 5 0).pool = .free ∧ s.lag = [] ∧ s.supClass 5 0 = false ∧ s.supClass 5 7 = true) ∧
    ((mailS (msgM 0x12 none)).handlerOf 0 0x12).getLsbD 57 = true ∧ ((mailS (msgM 0xF00 none)).handlerOf 0 0xF00).getLsbD 57 = true ∧
    evt (.messageArrival 5 [⟨4, 7⟩]) (mailS (msgM 0x12 none)) (fun t => (t.ctx 5 0).hart.pc == 0x300 && (t.ctx 5 0).hart.g[1] == 2) = true ∧
    evt (.messageArrival 5 [⟨4, 7⟩]) (mailS (msgM 0xF00 none)) (fun t => (t.ctx 5 7).sup && (t.ctx 5 7).pool == .busy) = true ∧
    evt (.hopMessageArrival 5 [⟨4, 7⟩]) (mailS (msgM 0 (some hopA))) (fun t => (t.ctx 5 0).hart.pc == 0x240 && (t.ctx 5 0).jord == 1) = true ∧
    (∀ st ∈ [RState.refused true, .refused false, .frozen, .backoff, .noticed, .accepted],
      (mailS { msgM 0x12 none with st := st }).slot ⟨4, 7⟩ = some { msgM 0x12 none with st := st }) ∧
    evt (.backoffRetry 4 7) (mailS { msgM 0x12 none with st := .backoff, delay := 16384 }) (fun t => (t.slot ⟨4, 7⟩).map (·.delay) == some 16384) = true ∧
    evt (.reservationLapse 5 3) (onCore id fun co => { co with ctxs := co.ctxs.set 3 { pool := .reserved } }) (fun t => (t.ctx 5 3).pool == .free) = true ∧
    (let s := onCore (fun x => { x with wait := .finish 4 }) id;
      s.quiet 5 0 4 = true ∧ evt (.contextFree 5 0) s (fun t => (t.ctx 5 0).pool == .free) = true) ∧
    (let s := { onCore (fun x => { x with fwd := some ⟨4, some 1, 8⟩ }) (fun co => { co with accs := [{ accA (.ld 0 3) (.bank 5 0x100) .served 1 with
        hopped := true, parts := [{ ea := 0, tgt := .bank 5 0x100, off := 0, bytes := [some 0], stage := .served, got := [0x11] }] }] }) with lag := [] };
      evt (.forwardedLoadReply 5 7) s (fun t => (t.ctx 4 1).hart.g[3] == 0x11 && (t.ctx 5 0).fwd == none) = true) := by
  decide +kernel

/-- A firing at exactly the total, and one byte short of it; the order of a tree is a constant of Config no check can compute. -/
theorem wit_CounterAndQueueEvents :
    (let s : State := { accS (accA .st (.glob 0) .wait 1) with pkgs := [(0, { counts := [(3, .glob 0 0 0, 64)] })] };
      evt (.countMessage 0 3) s (fun t => (t.ctr (.glob 0 0 0)).count == 64 && (t.pkg 0).counts == []) = true) ∧
    (let s := fun n => { onCore id (fun co => { co with ctrs := co.ctrs.set 3 { alloc := true, armed := true, total := 128, count := n } }) with lag := [1] };
      ((s 127).ctr (.loc 5 3)).canFire = false ∧ ((s 128).ctr (.loc 5 3)).canFire = true ∧
      evt (.counterFire (.loc 5 3)) (s 128) (fun t => (t.ctr (.loc 5 3)).pendn == 1 && !(t.ctr (.loc 5 3)).armed) = true) ∧
    (let s := onCore id fun co => { co with ctrs := co.ctrs.set 3 { alloc := true, pendn := 1, tgt := 4, ty := 0x12 } };
      evt (.launchEnqueue (.loc 5 3)) s (fun t => (t.slot ⟨5, 0⟩).map (·.msg.target) == some 4) = true) ∧
    (let s := { onCore (fun x => { x with wait := .carmReg (.glob 0 0 0) false }) id with dies := [(0, { gctrs := [(0, { alloc := true, reg := some 0, owner := .core 5 })] })] };
      evt (.windowRegistrationComplete 5 0) s (fun t => (t.ctr (.glob 0 0 0)).armed) = true) ∧
    (∀ a ∈ [({} : Arr), { alloc := true, reg := some 1, owner := .core 5 }], a.regBy 5 0 = false ∧
      evt (.windowRegistrationComplete 5 0) { onCore (fun x => { x with wait := .carmReg (.glob 0 0 0) false }) id with dies := [(0, { gctrs := [(0, a)] })] }
        (fun t => (t.ctr (.glob 0 0 0)) == a) = true) ∧
    (let s := onCore id fun co => { co with slots := co.slots.set 2 (some { bufA 0 0 with counts := [128, 128], marks := [false, true] }) };
      evt (.slotFilled 5 2) s (fun t => ((t.core 5).slots[2]).map (·.filled) == some 1) = true) ∧
    (let s := { onCore id (fun co => { co with prods := [{ recA with cons := 4 }] }) with rets := [{ n := 1, ctx := 0, dst := 5, cons := 4, buf := 2, inc := 1 }] };
      evt (.slotReturn 5 1) s (fun t => (t.core 5).prods.map (·.free) == [2] && t.rets == []) = true) ∧
    (let s := { userS with recs := [{ n := 1, dst := 5, src := 4, ctx := 0, rec_ := recA }] };
      evt (.slinitRecord 5 1) s (fun t => (t.core 5).prods == [recA]) = true) ∧
    (let e : Contrib := { core := 5, ctx := 0, sig := 0x210A01, elems := [1], rel := 0 };
      (evt (.treeInject 5) (onCore id fun co => { co with inject := [e] }) (fun t => (t.pkg 0).tree == [e]) = true) ∧
      (let s := { pairS with pkgs := [(0, { tree := [{ e with core := 4, sig := 0x610A01 }, { e with sig := 0x610A01, elems := [0x7FFFFFFF] }] })] };
        s.members 4 3 = [4, 5] ∧ sigScope 0x610A01 = 3 ∧ sigOpn 0x610A01 = 1)) ∧
    (let s := { userS with cores := [(4, { coreA with barArr := coreA.barArr.set 3 [some 1] }), (5, { coreA with barArr := coreA.barArr.set 3 [some 0] })] };
      (s.members 5 3).Nodup ∧ evt (.barrierComplete 5 3) s (fun t => (t.core 4).barDone[3] == [1] && (t.core 5).barArr[3] == []) = true) ∧
    (let s := { userS with vq := [{ n := 1, src := 4, dst := 5, tag := 16, gs := 2, m := 7 }] };
      evt (.vqmaxContribution 5 1) s (fun t => (t.core 5).exch.map (·.got) == [[(4, 7)]]) = true) ∧
    (∀ l ∈ [[(⟨16, some 2, some 0, 9, [], false⟩ : Exch)], (List.range 8).map fun n => ⟨BitVec.ofNat 16 n, some 2, none, 0, [], false⟩],
      let s := { onCore id (fun co => { co with exch := l }) with vq := [{ n := 1, src := 4, dst := 5, tag := 16, gs := 2, m := 7 }] };
      evt (.vqmaxContribution 5 1) s (fun t => (t.vq == []) == (l.length == 1)) = true) :=
  by and_intros <;> decide +kernel



/-! #### Tables -/

/-- Supervisor mode with registers changed, core 4 beside, and the tables of package 0. -/
def supG (l : List (Fin 16 × W64)) (p : Pkg) : State :=
  { onCore (fun x => { x with sup := true, hart := l.foldl (fun h q => h.setG q.1 q.2) x.hart }) id with pkgs := [(0, p)] }
def ret (a : Opd) (mi : BitVec 32) : Fields := fld a (.g 4) (.g 3) mi
/-- A region of host memory, owned by the device. -/
def hostReg : Region := { w0 := 0x0000800000000000 ||| 0x3D, w1 := 0x10C0000000 }

/-- The last index and the first past it; a region of HBM; a region of the host's memory on the device's side and on the host's. -/
theorem wit_RegionAndRankTables :
    (∀ n ∈ [0, 4095], let s := supG [(3, BitVec.ofNat 64 n), (4, regA.w0), (5, regA.w1), (6, 0)] {};
      readyNow 5 0 (.rtset (ret .none 0)) (ret .none 0) s = true ∧ legal (.rtset (ret .none 0)) = true ∧
      regA.illegal = false ∧ s.regionBad 0 n regA = false ∧
      evt (.rtset (ret .none 0)) s (fun t => t.region 0 n == regA) = true ∧
      readyNow 5 0 (.rtget (fld (.g 1) .none (.g 3) 0)) (fld (.g 1) .none (.g 3) 0) s = true) ∧
    (let s := supG [(3, 0), (4, regA.w0), (5, regA.w1), (6, 0)] { regions := [(0, regA)] };
      readyNow 5 0 (.rtset (ret .none 0)) (ret .none 0) s = true ∧ s.regionBad 0 0 regA = false ∧ s.regionOf 0 (0x41 * 64) = some (0, regA) ∧
      isHbm (0x41 * 64) = true ∧ homePkg regA.base = 0 ∧ regA.prot.toNat ≤ 5) ∧
    (let s := supG [(3, 4096), (4, regA.w0), (5, regA.w1)] {};
      (s.ctx 5 0).undone = false ∧ readyNow 5 0 (.rtset (ret .none 0)) (ret .none 0) s = true) ∧
    (∀ own ∈ [false, true], let r : Region := if own then { hostReg with w1 := hostReg.w1 ||| 1#64 <<< 45 } else hostReg;
      let s := supG [(4, 4095)] { regions := [(4095, r)], port0Host := true };
      let f := fld .none (.g 4) .none 0x20000;
      readyNow 5 0 (.pgownHost f) f s = true ∧ r.v = true ∧ r.home = 0xC ∧ r.own = own ∧ (s.pkg 0).rebind.contains 4095 = false ∧
      (s.pkg 0).far = []) ∧
    (let s := supG [(4, 7), (3, 0x400004)] { rankLen := 8, rankBase := 0x9000 };
      let f := fld .none (.g 4) (.g 3) 0;
      let t := { s with cores := (4, { memb := 0x1F }) :: s.cores };
      readyNow 5 0 (.rkset f) f t = true ∧ t.userCore (rankCore 0x400004) = true ∧ memWf t.mem = true ∧
      evt (.rkset f) t (fun u => u.rankEntry 0 7 == 0x400004 && (u.core 4).rank == 7) = true ∧
      (let u := t.setRank 0 7 0x400004; (u.rankEntry 0 7).getLsbD 22 = true ∧
        readyNow 5 0 (.rkmovHold (fld .none (.g 4) .none 0)) (fld .none (.g 4) .none 0) u = true ∧
        readyNow 5 0 (.rkmovRel (fld .none (.g 4) (.g 3) 0x20000)) (fld .none (.g 4) (.g 3) 0x20000) u = true)) := by
  decide +kernel

/-- A table of handlers at 0x8000, the last type of each class, both budgets of a retired range, an empty fault buffer. -/
theorem wit_TranslationTables :
    Quiet 5 0 (supG [] {}) ∧
    (∀ i ∈ [Instr.tlbinvPage (fld .none (.g 1) .none 0x800), .tlbinvAll (fld .none .none .none 0x20C00), .fbrd (fld (.g 1) .none (.imm 5) 0),
        .replay (fld (.g 1) .none .none 0xC00), .replayDeny (fld .none .none .none 0x20800), .genAck (fld (.g 1) .none .none 0),
        .genRd (fld (.g 1) .none .none 0x20000), .genFree (fld .none (.imm 15) .none 0x60000)],
      (match i.fields with | some f => readyNow 5 0 i f (supG [] {}) && legal i | none => false) = true) ∧
    (∀ b ∈ [false, true], (supG [] {}).walksIn 5 b = [] ∧
      (accS (accA (.ld 4 3) (.glob 0x12345) (.walk [9]) 4)).walksIn 5 b = [.walk 5 7 0]) ∧
    (let s := supG [] {}; (s.die 0).parked = [] ∧ (s.die 0).notice = false ∧ replayBusy s = false ∧ (s.pkg 0).genFree = some 0) ∧
    (∀ p ∈ [(0xEFF, false), (0xF00, true), (0xFFF, true)],
      let s := supG [(4, BitVec.ofNat 64 p.1), (3, 0x0600000000000240)] { ranges := if p.2 then [⟨0, 16, true, 0⟩] else [] };
      let f := fld .none (.g 4) (.g 3) 0;
      readyNow 5 0 (.htset f) f s = true ∧ (0xF00 ≤ p.1 → s.supCode 5 0x240 = true) ∧ quietNow 5 0 s = true ∧
      evt (.htset f) s (fun t => t.handlerOf 0 (BitVec.ofNat 12 p.1) == 0x0600000000000240) = true) ∧
    (∀ n ∈ [16, 56], let s := supG [(4, 0), (3, BitVec.ofNat 64 n)] {}; let f := ret (.g 1) 0x40000;
      readyNow 5 0 (.genRet f) f s = true ∧ evt (.genRet f) s (fun t => (t.pkg 0).dgen == 1 && (t.ctx 5 0).hart.g[1] == 1) = true) :=
  by refine ⟨quiet_of ?_, ?_, ?_, ?_, ?_, ?_⟩ <;> decide +kernel

def qc (b c : Opd) (mi : BitVec 32) : Fields := fld (.g 1) b c mi
/-- Core 5 names itself; a fuse value, a membership mask, table bases, a plan byte toward package 1 and the offered words. -/
theorem wit_Configuration :
    (let s := supG [(4, 0x8000050000000000), (3, 1)] {}; s.windowCore 5 0x8000050000000000 = some 5 ∧ s.reaches 0 0 = true ∧
      s.isServer 5 = false ∧ (s.core 5).wiq = [] ∧ quietNow 5 0 s = true ∧
      (∀ e ∈ [(Instr.qcfgFuse, (0 : BitVec 32)), (Instr.qcfgFuse, 0x200000), (Instr.qcfgMemb, 0x40000)], let f := qc (.g 4) (if e.2 = 0x200000 then .none else .g 3) e.2;
        readyNow 5 0 (e.1 f) f s = true) ∧
      (∀ e ∈ [(Instr.frzOn, (0 : BitVec 32)), (Instr.frzOff, 0x20000)], let f := fld .none (.g 4) .none e.2;
        readyNow 5 0 (e.1 f) f s = true ∧ evt (e.1 f) s (fun t => (t.core 5).frozen == (e.2 == 0)) = true)) ∧
    (let s := supG [(4, 0x8000050000000000), (3, 1)] {}; let t := { s with cores := s.cores.map fun e => (e.1, { e.2 with
        ctxs := (e.2.ctxs.set 0 { e.2.ctxs[0] with pool := .free }).set 7 { e.2.ctxs[0] with pool := .busy } }), cur := .ctx 5 7 };
      quietNow 5 7 t = true ∧ readyNow 5 7 (.qcfgFuse (qc (.g 4) (.g 3) 0)) (qc (.g 4) (.g 3) 0) t = true ∧
        (∀ d : Fin 8, d ≠ 7 → (t.ctx 5 d).pool ≠ .busy) ∧
        evt (.qcfgFuse (qc (.g 4) (.g 3) 0)) t (fun u => (u.core (quadCore 5 3)).fused && (u.core 5).fused) = true) ∧
    (∀ e ∈ [(3, 0x10000001), (0, 0x10000000), (0x400000, 0x9000), (1, 0x18000), (2047, 0x41)],
      let s := supG [(4, BitVec.ofNat 64 e.1), (3, BitVec.ofNat 64 e.2)] { podm := 3 }; quietNow 5 0 s = true ∧ (s.pkg 0).podm.getLsbD 1 = true) ∧
    (let s := supG [(4, 0), (3, 0x4000)] {}; let f := qc .none (.g 3) 0x20000;
      readyNow 5 0 (.qcfgRoot f) f s = true ∧ evt (.qcfgRoot f) s (fun t => (t.die 0).root == 0x4000) = true) ∧
    (let a := accA (.ld 4 3) (.glob 0x12345) (.walkSusp 0x16008 []) 4; let f := qc .none (.g 3) 0x20000;
      let s := { onCore (fun x => { x with sup := true, hart := x.hart.setG 3 0x4000 }) id with cores := (4, { coreA with accs := [a] }) :: (onCore (fun x => { x with sup := true, hart := x.hart.setG 3 0x4000 }) id).cores };
      readyNow 5 0 (.qcfgRoot f) f s = true ∧ quietNow 5 0 s = true ∧ s.walksIn 5 false = [.walk 4 7 0] ∧
      evt (.qcfgRoot f) s (fun t => t.dies == s.dies && (t.ctx 5 0).wait.begun) = true) ∧
    (let s := supG [(4, 0x400000), (3, 0x9000)] {}; let f := qc (.g 4) (.g 3) 0x60000;
      readyNow 5 0 (.qcfgRankt f) f s = true ∧ evt (.qcfgRankt f) s (fun t => (t.pkg 0).rankLen == 0x400000) = true) ∧
    (let s := supG [(3, 0x18000)] {}; let f := qc .none (.g 3) 0x80000;
      readyNow 5 0 (.qcfgHtab f) f s = true ∧ evt (.qcfgHtab f) s (fun t => (t.pkg 0).htabBase == 0x18000) = true) ∧
    (∀ v ∈ [0x41, 0x3F], let s := supG [(4, 2047), (3, BitVec.ofNat 64 v)] { podm := 3 }; let f := qc (.g 4) (.g 3) 0xA0000;
      readyNow 5 0 (.qcfgCplan f) f s = true ∧
      evt (.qcfgCplan f) s (fun t => (t.carrier 0 2047).plan.toNat == v && (t.carrier 0 2047).st == .down) = true) ∧
    (∀ n ∈ [0, 3, 4, 7], let s := supG [(4, BitVec.ofNat 64 n)] {}; let f := qc (.g 4) .none 0x2C0000;
      readyNow 5 0 (.qcfgFeat f) f s = true) :=
  ⟨by decide +kernel, by decide +kernel, by decide +kernel, by decide +kernel, by decide +kernel, by decide +kernel, by decide +kernel,
    by decide +kernel, by decide +kernel⟩

/-! #### Pre-emption -/

theorem wit_SaveBegins : (userS.die 0).state = 0 ∧ 5 ∈ userS.dieUsers 0 ∧ userS.barReady ⟨0, 0⟩ = true ∧ ((0 : DieId) = 0 * 8 + (0 : Fin 8).val) ∧
    ({ userS with dies := [(0, { slice := 1 })] } : State).die 0 = { slice := 1 } ∧ (userS.pkg (0 / 8)).pre < 2000 := by
  decide +kernel

/-- Core 5 at a step of the save, its slot at 0x40000000 + 5 · 0x50000, away from the control block. -/
def preS (p : Pre) (x : Ctx → Ctx) : State :=
  { onCore x (fun co => { co with pre := p }) with dies := [(0, { save := 0x40000000, state := if p.step = 5 then 5 else 0 })] }
/-- The first cores of the die have gone before, or the first of them has not. -/
def pastS (p : Pre) (n : Nat) (x : Ctx → Ctx) : State :=
  { preS p x with cores := ((List.range 5).map fun k => (k, ({ pre := { step := n + 1 }, memb := 0x1F } : Core))) ++ (preS p x).cores }
/-- A line with a dirty word, a pinned one, one with neither. -/
def lineS (pin : BitVec 8) (dirty : BitVec 32) : L1Line := { line := 9, valid := 3, dirty := dirty, pin := pin }
theorem wit_SaveAndResume :
    (∀ n ∈ [1, 2], let s := pastS { step := 1 } n id; memWf s.mem = true ∧ memWf (s.core 5).loc = true ∧ s.stopped 5 = true ∧
      s.turnOf 5 2 = (n == 2) ∧ (s.ctx 5 0).wait = .none ∧ ctlBlk 0 * 64 + 16 ≤ s.slotBase 5) ∧
    ((lineS 0 0).saved = none ∧ (lineS 1 0).saved = some (lineS 1 0) ∧ (lineS 0 1).saved = some { lineS 0 1 with valid := 1 }) ∧
    (pastS { step := 2 } 2 id).turnOf 5 2 = true ∧
    evt (.saveEntry 5) (preS { step := 3 } id) (fun t => (t.ctx 5 0).hart.pc == 0x3000 + 192 && (t.ctx 5 0).hart.g[15] == 0x1FF80 &&
      (t.core 5).pre.step == 3) = true ∧
    evt (.saveEntry 5) (preS { step := 3 } fun x => { x with pool := .reserved }) (fun t => (t.ctx 5 0).pool == .free &&
      (t.core 5).pre.step == 4) = true ∧
    (∀ n ∈ [0, 0x20000], let s := pastS { step := 4, entered := true, saved := 1, through := 1, maxN := n } 4 id;
      s.turnOf 5 4 = true ∧ (s.core 5).pre.maxN = n) ∧
    (∀ head ∈ [(0x0201 : Nat), 0x0200], let s := { preS { step := 5, saved := 3 } (fun x => { x with wait := .saved }) with
        mem := memWrite [] (0x40000000 + 5 * 0x50000 + 0x21080) ((leBytes 8 head).map some) };
      (s.die 0).state = 5 ∧ 5 ∈ s.dieUsers 0 ∧ (s.core 5).pre.out = false ∧ memWf s.mem = true ∧
      (let t := s.resumeCore 5; (t.core 5).pre.saved.toNat = head % 256 ∧ (((t.ctx 5 0).pool = .busy) ↔ head % 2 = 1))) ∧
    (∀ j ≠ 5, ((preS { step := 6, saved := 1, through := 1 } id).core j).pre.step ≠ 6) ∧
    (∀ j < 5, ((pastS { step := 6 } 5 id).core j).pre.step = 6 ∧ (({ pastS { step := 6 } 5 id with cores := (pastS { step := 6 } 5 id).cores.map fun e =>
      (e.1, { e.2 with pre := { e.2.pre with out := e.1 != 5 } }) } : State).core j).pre.out = true) ∧
    (let s := preS { step := 7 } (fun x => { x with wait := .restored 0x8000000000000240 9 }); (s.core 5).refused = [] ∧
      evt (.coreResume 5) s (fun t => (t.ctx 5 0).hart.pc == 0x240 && (t.ctx 5 0).sup && (t.ctx 5 0).hart.g[15] == 9) = true) := by
  refine ⟨?_, ?_, ?_, ?_, ?_, ?_, ?_, fun j hj => ?_, ?_, ?_⟩
  case refine_8 => simp [preS, onCore, State.core, fmGet, List.lookup, beq_eq_false_iff_ne.mpr hj]
  all_goals decide +kernel

/-- The least and the greatest image length of `pdone.save`, inside and outside step 3; `gen.rd` before and after its completion. -/
theorem wit_SaveEnds :
    (let f := fld (.g 1) .none .none 0x20000; let x := fun (w : CWait) => fun (y : Ctx) => { y with sup := true, wait := w };
      let done := onCore (x (.table .plain (some 3) true)) id
      (eligibleNow 5 0 (.genRd f) f done = true ∧ (done.ctx 5 0).wait = .table .plain (some 3) true) ∧
      readyNow 5 0 (.genRd f) f { supS with lag := [1] } = true ∧ ({ supS with lag := [1] } : State).lag.headD 0 = 1 ∧
      evt (.tableInstructionComplete 5 0) (onCore (x (.table .plain (some 3) false)) id)
        (fun t => (t.ctx 5 0).wait == .table .plain (some 3) true) = true) ∧
    (∀ n ∈ [0, 0x20000], ∀ p ∈ [({ step := 3, saved := 1 } : Pre), { step := 3, saved := 3 }, {}],
      let f := fld .none (.g 1) .none 0;
      let s := preS p fun x => { x with sup := true, inEntry := true, hart := x.hart.setG 1 (BitVec.ofNat 64 n) };
      readyNow 5 0 (.pdoneSave f) f s = true ∧ n % 128 = 0 ∧ (s.core 5).pre = p) ∧
    (∀ p ∈ [({ step := 6, saved := 1 } : Pre), {}], let f := fld .none .none .none 0x20000;
      let s := preS p fun x => { x with sup := true, inEntry := true };
      readyNow 5 0 (.pdoneRest f) f s = true ∧ (s.core 5).pre = p) :=
  ⟨by decide +kernel, by decide +kernel, by decide +kernel⟩

/-! #### The farriers -/

/-- A die's copy of block 0x40 and a directory entry of it. -/
def farT (l : List (Fin 16 × W64)) (held : Bool) : State :=
  { onThread (fun x => { x with hart := l.foldl (fun h p => h.setG p.1 p.2) x.hart }) (fun y =>
      { y with dir := [(0x40, ⟨if held then 0x80000001 else 1, 2⟩)] }) with
    dies := [(1, { l2 := [(0x40, { tag := 1, dirty := true })] })] }
/-- A directory cache that is full, its slot in the spill table within reach or not (the table has no slots, or 4096). -/
def fullS (n : BitVec 7) : State :=
  onThread (fun x => { x with hart := ((x.hart.setG 5 0x1000).setG 8 6).setG 9 3 }) fun y =>
    { y with dir := List.replicate 4096 (0x41, ⟨1, 2⟩), fdirb := 0x100000, fdirn := n.setWidth _ }
/-- The L2 of die 1 holds as many copies as it can, none of block 0x40. -/
def fullL2 : State :=
  { onThread (fun x => { x with hart := ((x.hart.setG 1 0x2000000000001000).setG 2 0x9000000000000000).setG 3 1 }) id with
    dies := [(1, { l2 := List.replicate l2Blocks (0x41, { tag := 1 }) })] }
theorem wit_FarrierBlocks_full : fullL2.l2Full 1 0x40 = true ∧ fullL2.lag = [] ∧
    FarReady 0 0 (.btx (fld (.g 1) (.g 2) (.g 3) 0)) (fld (.g 1) (.g 2) (.g 3) 0) fullL2 := by
  have h : (fullL2.die 1).l2 = List.replicate l2Blocks (0x41, { tag := 1 }) := rfl
  refine ⟨?_, rfl, farReady_of (by decide +kernel)⟩
  simp only [State.l2Full, State.l2, h, List.lookup_replicate, List.length_replicate]
  decide

/-- Each location: home by its two names, a die that holds a copy, one that does not, 9, and 10; another package's block. -/
theorem wit_FarrierTags :
    homePkg (0x40 * 64) = 0 ∧ homeDie (0x40 * 64) = 0 ∧ homePkg (2 ^ 52) = 1 ∧ (farT [] false).l2 1 0x40 = some { tag := 1, dirty := true } ∧
    (farT [] false).l2 2 0x40 = none ∧
    (∀ loc ∈ [0, 1, 2, 3, 8, 9, 10], let s := farT [(2, 0x1000), (3, BitVec.ofNat 64 loc)] false;
      let f := fld (.g 1) (.g 2) (.g 3) 0; let w := fld .none (.g 2) (.g 3) 0x20000; let d := fld .none (.g 2) (.g 3) 0x80000;
      s.lag = [] ∧ farReadyNow 0 0 (.tagrd f) f s = true ∧ legal (.tagrd f) = true ∧ farReadyNow 0 0 (.tagwr w) w s = true ∧
      legal (.tagwr w) = true ∧ farReadyNow 0 0 (.tagwr d) d s = true ∧ legal (.tagwr d) = true) ∧
    (let s := farT [(2, 2 ^ 52)] false; farReadyNow 0 0 (.tagrd (fld (.g 1) (.g 2) (.imm 0) 0)) (fld (.g 1) (.g 2) (.imm 0) 0) s = true ∧
      homePkg (((2 : W64) ^ 52).extractLsb' 6 52).toNat * 64 ≠ 1) ∧
    (∀ h ∈ [false, true], let s := farT [(5, 0x1000), (8, 0x80000006), (9, 3)] h;
      let r := fld (.g 4) (.g 5) .none 0; let w := fld (.c 3) (.g 5) (.g 8) 0; let w' := fld .none (.g 5) (.g 8) 0;
      farReadyNow 0 0 (.dirrd r) r s = true ∧ legal (.dirrd r) = true ∧ farReadyNow 0 0 (.dirwr w) w s = true ∧ legal (.dirwr w) = true ∧
      farReadyNow 0 0 (.dirwr w') w' s = true ∧ legal (.dirwr w') = true ∧
      evt (.dirwr w) s (fun t => t.dirOf 0 0x40 == ⟨if h then 0x80000006 else 6, 3⟩ && (t.thread 0 0).hart.c.getLsbD 3) = true) ∧
    (∀ n ∈ [0, 1], let s := fullS n; 4096 ≤ (s.far 0).dir.length ∧ (s.far 0).dir.lookup 0x40 = none ∧
      farReadyNow 0 0 (.dirwr (fld .none (.g 5) (.g 8) 0)) (fld .none (.g 5) (.g 8) 0) s = true ∧
      ∀ e ∈ (s.far 0).dir, (s.freeNat.2.spill 0 e.1 e.2).isSome = (n == 1)) := by
  refine ⟨?_, ?_, ?_, ?_, ?_, ?_, ?_, ?_, fun n hn => ?_⟩
  case refine_9 =>
    have hd : ((fullS n).far 0).dir = List.replicate 4096 (0x41, ⟨1, 2⟩) := rfl
    refine ⟨Nat.le_of_eq ((congrArg List.length hd).trans List.length_replicate).symm, by rw [hd, List.lookup_replicate, if_neg (by omega), if_neg (by decide)], ?_, fun e he => ?_⟩
    · simp only [List.mem_cons, List.not_mem_nil, or_false] at hn
      rcases hn with rfl | rfl <;> decide +kernel
    · rw [hd] at he
      obtain rfl := List.eq_of_mem_replicate he
      simp only [List.mem_cons, List.not_mem_nil, or_false] at hn
      rcases hn with rfl | rfl <;> decide +kernel
  all_goals decide +kernel

/-- Counts 0, 1, 4, 16 and 17 of `btx`, a bit too many in its address, and each form of `fsto`. -/
theorem wit_FarrierBlocks :
    isHbm (0x40 * 64) = true ∧
    (∀ n ∈ [0, 1, 4, 16, 17], let s := farG [(1, 0x9000000000000000), (2, 0x1000), (3, BitVec.ofNat 64 n)];
      let f := fld (.g 1) (.g 2) (.g 3) 0;
      farReadyNow 0 0 (.btx f) f s = true ∧ legal (.btx f) = true ∧
      (n = 4 → evt (.btx f) { s with side := [(0x41, { desc := ⟨4, 5⟩ })] } (fun t => (t.thread 0 0).buf[1].desc == ⟨4, 5⟩) = true)) ∧
    (let s := farG [(1, 0x1000), (2, 0x9000000000000040)]; let f := fld (.g 1) (.g 2) (.imm 1) 0; farReadyNow 0 0 (.btx f) f s = true) ∧
    (let s := farG [(1, 0x1001), (2, 0x9000000000000040)]; let f := fld (.g 1) (.g 2) (.imm 1) 0; farReadyNow 0 0 (.btx f) f s = true) ∧
    (let s := farG [(1, 0x9000000000000000), (2, 0x9000000000000040), (3, 0xFF)]; let f := fld (.g 1) (.g 2) (.g 3) 0x0;
      farReadyNow 0 0 (.fsto f) f s = true ∧ legal (.fsto f) = true) ∧
    ((stoOn .copy 0xFF {} { data := 7, desc := ⟨0, 3⟩ }).toOption = some (0xFF, { data := 7, desc := ({} : Desc) })) ∧
    (let b : Buf := { desc := ⟨0xFF, 0⟩ }; (stoOn .copy 1 b {}).toOption = some (0, b) ∧ ({} : Buf).desc.fmt ≠ 0xFF) ∧
    (match stoOn (.op .add 9) 1 { desc := ⟨4, 0⟩ } {} with | .error e => e == 0x11 | .ok _ => false) = true ∧
    -- a run past buffer 3, a location beyond 9, and masks that take whole words and part of one
    (∀ e ∈ [(0x90000000000000C0, 0x1000, 2), (0x9000000000000000, 0xA000000000001000, 1), (0x2000, 0x90000000000000C0, 2)],
      let s := farG [(1, BitVec.ofNat 64 e.1), (2, BitVec.ofNat 64 e.2.1), (3, BitVec.ofNat 64 e.2.2)]; let f := fld (.g 1) (.g 2) (.g 3) 0;
      farReadyNow 0 0 (.btx f) f s = true) ∧
    (∀ ty ∈ [9, 0xA], (stoOn (.op .add ty) 0xF0 { desc := ⟨ty, 0⟩ } {}).toOption.map (·.1) = some 0xF0 ∧
      (stoOn (.op .add ty) 0x30 { desc := ⟨ty, 0⟩ } {}).toOption.isNone = true) ∧
    ((0xF0 : BitVec 64).extractLsb' 4 4 = 0xF ∧ (0x30 : BitVec 64).extractLsb' 4 4 ≠ 0xF ∧ (0xF0 : BitVec 64).extractLsb' 0 4 = 0) ∧
    (∀ n ∈ [0, 1, 2, 8, 9], let s := farG [(2, 0x1000), (3, BitVec.ofNat 64 n)]; let f := fld .none (.g 2) (.g 3) 0;
      farReadyNow 0 0 (.fpoison f) f s = true ∧ legal (.fpoison f) = true) ∧
    (let s := onThread (fun x => { x with hart := x.hart.setG 2 0x1000 }) (fun y => { y with holds := [msgA, { msgA with uid := 4, blk := 0x41 }] });
      let f := fld .none (.g 2) .none 0;
      farReadyNow 0 0 (.fwake f) f s = true ∧
      evt (.fwake f) s (fun t => (t.far 0).reqs == [msgA] && (t.far 0).holds.length == 1) = true) ∧
    -- the copy of die 1 at location 2 (location 1 is the home's own die), one that die 2 lacks, and a block of another package
    homePkg (0x40 * 64) = 0 ∧ homeDie (0x40 * 64) = 0 ∧ homePkg (2 ^ 52) = 1 ∧
    (∀ e ∈ [((2 : Nat), true), (3, false)], ((farT [] false).l2 (e.1 - 1) 0x40).isSome = e.2 ∧
      let s := farT [(1, 0x9000000000000000), (2, BitVec.ofNat 64 (e.1 * 2 ^ 60 + 0x1000)), (3, 1)] false
      let f := fld (.g 1) (.g 2) (.g 3) 0
      farReadyNow 0 0 (.btx f) f s = true ∧ evt (.btx f) s (fun t => (t.thread 0 0).busy) = e.2) ∧
    (let s := farT [(1, 0x2000000000001000), (2, 0x9000000000000000), (3, 1)] false; let f := fld (.g 1) (.g 2) (.g 3) 0;
      farReadyNow 0 0 (.btx f) f s = true ∧ evt (.btx f) s (fun t => (t.l2 1 0x40).map (·.dirty) == some false) = true) ∧
    (let f := fld (.g 1) (.g 2) .none 0xE0000; (farG []).region 0 0 = {} ∧ f.bits 17 3 = 7 ∧ legal (.fsto f) = true ∧
      farReadyNow 0 0 (.fsto f) f (farG []) = true) ∧
    (let s := farG [(1, 0x1000), (2, 0x9000000000000040), (3, 1)]; let f := fld (.g 1) (.g 2) (.g 3) 0; let e : Buf := {};
      farReadyNow 0 0 (.fsto f) f s = true ∧ (stoOn .copy 1 (s.homeBuf 0x40) e).toOption.map (·.1) = some 1) := by
  and_intros <;> decide +kernel

/-- A request from farrier 0 to farrier 64, its answer, and a farrier number past the last. -/
def farTwo (x : Thread → Thread) (y : Thread → Thread) : State :=
  { pkgs := [(0, { far := [(0, { threads := (Vector.replicate 16 ({} : Thread)).set 0 (x threadA) }),
                           (1, { threads := (Vector.replicate 16 ({} : Thread)).set 2 (y threadA) })] })], cur := .thread 0 0 }
def sets (l : List (Fin 16 × W64)) (x : Thread) : Thread := { x with hart := l.foldl (fun h p => h.setG p.1 p.2) x.hart }
theorem wit_FarrierMessages :
    (∀ e ∈ [(fld (.g 1) (.g 2) (.g 3) 0x1A00000, true), (fld .none (.g 2) (.g 3) 0xA00000, false)],
      let s := farTwo (sets [(2, 64), (3, 0x1000)]) id;
      s.lag = [] ∧ s.fab = [] ∧ farReadyNow 0 0 (.freq e.1) e.1 s = true ∧ legal (.freq e.1) = true ∧ e.1.bit 24 = e.2 ∧
      s.podHas 0 0 = true ∧ (s.far 0).reserved < 64 ∧ (s.thread 0 0).awaits = none ∧
      (let ty : BitVec 6 := e.1.mi.extractLsb' 17 6; 0x10 ≤ ty.toNat ∧ ty.toNat < 0x38)) ∧
    (let f := fld .none (.g 2) (.g 3) 0; let s := farTwo (sets [(2, 64), (3, 0x1000)]) id; farReadyNow 0 0 (.freq f) f s = true) ∧
    (let f := fld .none (.g 2) (.g 3) 0x80000; let s := farTwo (sets [(2, 64 * 85), (3, 0x1000)]) id;
      farReadyNow 0 0 (.freq f) f s = true ∧ legal (.freq f) = true ∧ 84 < 64 * 85 % 2 ^ 13 / 64) ∧
    (let f := fld (.g 1) (.g 2) (.g 3) 0x1A00000;
      let s := farTwo (fun x => { x with awaits := some 8, answer := some ⟨9, 0, 8, 3, none⟩ }) id;
      farReadyNow 0 0 (.freq f) f s = true ∧ evt (.freq f) s (fun t => (t.thread 0 0).hart.g[1] == 3) = true) ∧
    (let f := fld (.g 3) (.imm 1) .none 0x20000; let K : W64 := 64 + 2 * 0x2000 + 8 * 0x20000;
      (farReadyNow 0 0 (.frep f) f (farTwo (sets [(3, 0x8000000000000000)]) id) = true) ∧
      (∀ y ∈ [fun (x : Thread) => { x with awaits := some 8 }, fun x => { x with blk := [7, 8] }, fun x => x],
        let s := farTwo (sets [(3, K)]) y; farReadyNow 0 0 (.frep f) f s = true ∧ legal (.frep f) = true ∧ (s.far 64).reps = []) ∧
      evt (.frep f) (farTwo (sets [(3, K)]) fun x => { x with blk := [7, 8] })
        (fun t => (t.thread 64 2).blk == [7] && (t.thread 64 2).blkN == 1) = true) ∧
    (let f := fld (.g 6) .none .none 0; farReadyNow 0 0 (.fblk f) f (farTwo id id) = true ∧ legal (.fblk f) = true ∧
      farReadyNow 0 0 (.fblk f) f (farTwo (fun x => { x with blk := [7] }) id) = true ∧
      evt (.fblk f) (farTwo (fun x => { x with blkN := 2, blkOr := 5 }) id) (fun t => (t.thread 0 0).hart.g[6] == 0x50002) = true) :=
  ⟨by decide +kernel, by decide +kernel, by decide +kernel, by decide +kernel, by decide +kernel, by decide +kernel⟩

/-- A request of farrier 64's thread 2, a plain access, and a message of no party. -/
theorem wit_HandlerEnds :
    let m : FMsg := { msgA with uid := 8, ty := 0x10, acc := false, party := .far 64 2 true }
    (∀ r ∈ [false, true], let s := farTwo (fun x => { x with msg := some m, replied := r }) fun x => { x with awaits := some 8 };
      s.lag = [] ∧ s.fab = [] ∧ (s.far 64).reps = [] ∧
      (∀ e ∈ [(Instr.fdoneRes, (0 : BitVec 32)), (Instr.fdoneSat, 0x20000), (Instr.fdoneDeny, 0x40000), (Instr.fdoneHold, 0x60000)],
        let f := fld .none .none .none e.2; farReadyNow 0 0 (e.1 f) f s = true) ∧
      (r = false → evt (.fdoneDeny (fld .none .none .none 0x40000)) s (fun t =>
        (t.thread 64 2).answer.map (·.status) == some 1 && !(t.thread 0 0).busy) = true)) ∧
    ((∀ p n, msgA.party ≠ .snoop p n) ∧ msgA.acc = true ∧ msgA.ty ≠ 0x09 ∧
      evt (.fdoneHold (fld .none .none .none 0x60000)) farS (fun t => (t.far 0).holds == [msgA]) = true) ∧
    (let s := onThread (fun x => { x with msg := some { msgA with ty := 0x38, acc := false, party := .none } }) id;
      ∀ e ∈ [(Instr.fdoneRes, (0 : BitVec 32)), (Instr.fdoneSat, 0x20000), (Instr.fdoneDeny, 0x40000), (Instr.fdoneHold, 0x60000)],
        let f := fld .none .none .none e.2; farReadyNow 0 0 (e.1 f) f s = true) :=
  ⟨by decide +kernel, ⟨fun _ _ h => by simp [msgA] at h, rfl, by decide +kernel, by decide +kernel⟩, by decide +kernel⟩

/-- Core 5's access, suspended, and the handler it posted to. -/
def setlS (kind : AKind) (st : Stage) (buf : Buf) (lag : List Nat) : State :=
  let s := onThread (fun x => { x with msg := some { msgA with party := .acc 5 7 0 }, buf := x.buf.set 0 buf }) id
  let a := { accA kind (.glob 0x1044) st 4 with parts := [{ ea := 0x1044, tgt := .glob 0x1044, off := 0, bytes := List.replicate 4 none, stage := st }] }
  { s with cores := [(5, { coreA with accs := [a] })], lag := lag }
def poisoned : Buf := { desc := ⟨0xFF, 0⟩ }
/-- Each kind with each end, deferred: what the element becomes. -/
theorem wit_Settlements :
    let sat := fld .none .none .none 0x20000; let deny := fld .none .none .none 0x40000
    (∀ e ∈ [(AKind.ld 2 3, Stage.susp 0x1044, Stage.ready 0x1044, Stage.served), (.st, .susp 0x1044, .tagReq 0x1044, .served),
        (.atomic .add 32 none 1 0, .susp 0x1044, .sent 0x1044, .served), (.st, .suspW 0x1044, .sent 0x1044, .served)],
      let s := setlS e.1 e.2.1 {} [1];
      farReadyNow 0 0 (.fdoneRes fN) fN s = true ∧ farReadyNow 0 0 (.fdoneSat sat) sat s = true ∧ farReadyNow 0 0 (.fdoneDeny deny) deny s = true ∧
      (s.core 5).rels = [] ∧ (s.core (s.l1Core 5 (0x1044 / 128))).l1 = [] ∧ msgA.ty ≠ 0x3F ∧ msgA.ty ≠ 0x09 ∧ msgA.acc = true ∧
      evt (.fdoneRes fN) s (fun w => w.stageOf 5 7 0 == some e.2.2.1) = true ∧ evt (.fdoneSat sat) s (fun w => w.stageOf 5 7 0 == some e.2.2.2) = true) ∧
    (let s := setlS (.ld 2 3) (.susp 0x1044) poisoned [1];
      evt (.fdoneSat sat) s (fun w => w.stageOf 5 7 0 == some (.failed 0x09 0x1044)) = true) ∧
    (let s := setlS (.ld 2 3) (.susp 0x1044) { data := 0x80000000 <<< 32 } [];
      (s.core 5).accs.map (·.parts.length) = [1] ∧ (s.core 5).rfaults = [] ∧
      evt (.fdoneSat sat) s (fun w => (w.core 5).accs == [] && (w.ctx 5 0).hart.g[3] == 0xFFFFFFFF80000000) = true ∧
      evt (.fdoneDeny deny) s (fun w => (w.core 5).rfaults.map (·.cause) == [0x14]) = true) := by
  decide +kernel

/-- A custom set's entry for GETS, the region that names it, and a standard handler's script. -/
def reqS (m : FMsg) (y : Farrier → Farrier) : State :=
  { pkgs := [(0, { far := [(0, y { reqs := [m], sets := [(9, { entries := [(0, 0x600), (0x3F, 0xC00)] })] })]
                   regions := [(0, { w0 := 0x3D, w1 := 0x1000000098 })] })] }
def msgC : FMsg := { msgA with prot := 8 }
theorem req_idle : ∀ p : Fin 16, ((reqS msgC id).thread 0 p).busy = false := by decide +kernel
theorem wit_HandlerStarts :
    let m := msgC
    (let s := reqS m id; (s.far 0).reqs = [m] ∧ s.inFab m.uid = false ∧ (s.thread 0 0).busy = false ∧ (s.thread 0 0).script = none ∧
      (∀ p, (s.thread 0 p).busy = true → ∀ n, (s.thread 0 p).msg = some n → n.blk ≠ m.blk) ∧ (s.dirOf 0 0x40).held = false ∧
      (s.region 0 0).hset = 9 ∧ (s.region 0 0).prot = 8 ∧ (s.far 0).entryOf 9 0 = some 0x600 ∧
      evt (.gets 0 0) s (fun t => (t.thread 0 0).hart.pc == 0x600 && (t.thread 0 0).hart.g[0] == 0x1000) = true) ∧
    (let s := reqS m fun y => { y with dir := [(0x40, ⟨0x80000000, 0⟩)] }; (s.dirOf 0 0x40).held = true ∧ m.acc = true ∧ m.sup = true ∧
      (s.far 0).entryOf 9 0x3F = some 0xC00 ∧ evt (.farrierDispatch 0) s (fun t => (t.thread 0 0).hart.pc == 0xC00) = true) ∧
    (let s := { reqS { m with party := .host 0 1, data := some { data := 7, desc := ⟨9, 9⟩ } } id with side := [(0x40, { desc := ⟨4, 5⟩ })] };
      evt (.farrierDispatch 0) s (fun t => (t.thread 0 0).buf[0] == ⟨7, ⟨4, 5⟩⟩) = true) :=
  ⟨⟨rfl, by decide +kernel, by decide +kernel, by decide +kernel, fun p h => absurd h (by simp [req_idle p]), by decide +kernel, by decide +kernel, by decide +kernel, by decide +kernel, by decide +kernel⟩,
    by decide +kernel, by decide +kernel⟩

theorem wit_HandlerActs : HandlerEvent (Instr.gets, [0x00]) ∧
    (∀ a ∈ [NAct.home 1, .dir 5 6, .homeBuf, .invDies 0xFF, .wake, .await], ∀ b ∈ [([] : List Nat), [7]],
      let s := { onThread (fun x => { x with script := some [a, .finish 1], blk := b }) id with lag := [1] };
      s.lag.headD 0 ≠ 0 ∧ (s.thread 0 0).busy = true ∧ (s.thread 0 0).msg = some msgA ∧ isHbm (0x40 * 64) = true ∧
      evt (.gets 0 0) s (fun t => (t.thread 0 0).script == some (if a == .await && b == [7] then [a, .finish 1] else [.finish 1])) = true) ∧
    (let r : FRep := ⟨9, 0, 8, 0, none⟩;
      ∀ x ∈ [{ threadA with awaits := some 8 }, { threadA with blk := [8] }],
        let s := onThread (fun _ => x) fun y => { y with reps := [r] }; (s.far 0).reps = [r] ∧ s.fab = [] ∧ (s.thread 0 0).script = none) ∧
    (∀ n ∈ [0, 1], let s := onThread (fun x => { x with fcurb := n }) id; (s.thread 0 0).busy = true ∧
      evt (.curbKill 0 0) s (fun t => (t.thread 0 0).busy == (n == 1)) = true) ∧
    (∀ x ∈ [{ threadA with blk := [8], inBlk := true }, { threadA with awaits := some 8 }, { threadA with blk := [8], script := some [.await] }],
      evt (.curbWaitTimeout 0 0) (onThread (fun _ => x) id) (fun t => !(t.thread 0 0).busy && (t.dirOf 0 64).held) = true) ∧
    evt (.curbWaitTimeout 0 0) (onThread (fun x => { x with blk := [8] }) id) (fun t => (t.thread 0 0).busy) = true :=
  ⟨by simp [HandlerEvent], by decide +kernel, by decide +kernel, by decide +kernel, by decide +kernel, by decide +kernel⟩

/-- A standard handler whose directory entry finds no place: the cache is full and the spill table has no slots. -/
def noRoom : State := onThread (fun x => { x with script := some [.dir 5 6, .finish 1] }) fun y => { y with dir := List.replicate 4096 (0x41, ⟨1, 2⟩) }
theorem wit_HandlerActs_dir : 4096 ≤ (noRoom.far 0).dir.length ∧ (noRoom.far 0).dir.lookup 0x40 = none ∧
    ∀ e ∈ (noRoom.far 0).dir, noRoom.freeNat.2.spill 0 e.1 e.2 = none := by
  have h : (noRoom.far 0).dir = List.replicate 4096 (0x41, ⟨1, 2⟩) := rfl
  rw [h]
  refine ⟨Nat.le_of_eq List.length_replicate.symm, by rw [List.lookup_replicate, if_neg (by omega), if_neg (by decide)], fun e he => ?_⟩
  obtain rfl := List.eq_of_mem_replicate he
  decide +kernel


/-! #### The host, the loader, platform and fabric -/

/-- A window over the first gibibyte of package 0, its region, and the home tags of a block: owned, read-only, held. -/
def winS (tag : BitVec 2) : State :=
  { pkgs := [(0, { wins := [(0, 1)], regions := [(0, regA)], cxl := [7] })], side := [(0x41, { tag := some tag })], mem := [(0x1041, 0x55)] }
/-- The first and the last byte of a block, and a whole block, in a window that is valid and in one that is not. -/
theorem wit_HostAccesses :
    (∀ p ∈ [(0x1040, 1), (0x107F, 1), (0x1040, 64), (2 ^ 36 - 64, 64)], p.1 % 64 + p.2 ≤ 64 ∧ p.1 + p.2 ≤ 2 ^ 36 ∧ (List.replicate p.2 (0 : Byte)).length = p.2) ∧
    (fmGet 0 ((winS 2).pkg 0).wins 0).getLsbD 0 = true ∧ (fmGet 0 ((winS 2).pkg 0).wins 1).getLsbD 0 = false ∧
    (winS 2).regionOf 0 0x1040 ≠ none ∧ (winS 2).regionOf 0 0x20000000 ≠ (winS 2).regionOf 0 0x40000000 ∧
    tagReads ((winS 2).homeTag 0x41) = true ∧ tagWrites ((winS 2).homeTag 0x41) = true ∧ tagReads ((winS 0).homeTag 0x41) = false ∧
    tagWrites ((winS 0).homeTag 0x41) = false ∧ ctlBlk (homeDie 0x1040) + 64 ≤ 0x41 ∧ isHbm 0x1040 = true ∧ memWf (winS 2).mem = true ∧
    evt (.hostWindowRead 0 0x1041 1) (winS 2) (fun t => (t.pkg 0).hostReps == [.data 1 [0x55] false]) = true ∧
    evt (.hostWindowRead 0 0x40001041 1) (winS 2) (fun t => (t.pkg 0).hostReps == [.unsupported 1]) = true ∧
    evt (.hostWindowWrite ⟨0, 1⟩ 0x1041 [0x66] false) (winS 2) (fun t => memGet t.mem 0x1041 == 0x66) = true ∧
    evt (.hostWindowRead 0 0x1041 1) (winS 0) (fun t => (t.pkg 0).hostAccs.length == 1) = true ∧
    (let s : State := { winS 2 with pkgs := [(0, { wins := [(0, 1)], regions := [(0, regA)], rebind := [0] })] };
      s.rebinding 0 0 = true ∧ evt (.hostWindowRead 0 0x1041 1) s (fun t => (t.pkg 0).hostAccs.map (·.posted) == [false]) = true) ∧
    7 ∈ ((winS 2).pkg 0).cxl ∧ 8 ∉ ((winS 2).pkg 0).cxl ∧
    evt (.hostSnoop 0 .inv 7) (winS 2) (fun t => (t.far (postFarrier 0 448)).reqs.map (fun m => (m.ty, m.blk)) == [(0x0C, 7)]) = true ∧
    evt (.hostSnoop 0 .inv 8) (winS 2) (fun t => (t.pkg 0).hostReps == [.snoop 8 false none]) = true := by
  decide +kernel

/-- The first write of an accepted feature word and the second; a window's value that fits and one that does not; the ends of the
ranges of PWRLIM and THR and of the mailbox commands. -/
theorem wit_ControlBar :
    (winS 2).barReady ⟨0, 1⟩ = true ∧
    (let s : State := { pkgs := [(0, { hostAccs := [{ n := 1, req := 1, pa := 0, data := some [0], len := 1, relaxed := false }] })] };
      s.barReady ⟨0, 1⟩ = false ∧ s.barReady ⟨0, 2⟩ = true) ∧
    ((winS 2).pkg 0).faccSet.getLsbD 0 = false ∧
    (∀ n ∈ [1, 0], let v : W64 := BitVec.ofNat 64 n; let pa := (v.extractLsb' 30 28).toNat * 2 ^ 30;
      v.extractLsb' 1 29 = 0 ∧ v.extractLsb' 58 6 = 0 ∧ (v.getLsbD 0 = true → homePkg pa = 0 ∧ isHbm pa = true)) ∧
    (3 : W64).extractLsb' 1 29 ≠ 0 ∧
    (∀ b ∈ [false, true], let s : State := { pkgs := [(0, { msixPend := 0x80000001, msixMask := 0x80000001 })] };
      s.barReady ⟨0, 1⟩ = true ∧ evt (.barRegisterWrite ⟨0, 1⟩ (0x5008 + 16 * 31) (if b then 0x100000000 else 0)) s (fun t =>
        ((t.pkg 0).msix.getLsbD 31, (t.pkg 0).msixPend.getLsbD 31, (t.pkg 0).msixPend.getLsbD 0) == (!b, b, true)) = true) ∧
    (∀ p ∈ [(1499, 5000), (1500, 1500), (5000, 5000), (5001, 5000)],
      evt (.barRegisterWrite ⟨0, 1⟩ 0x6010 (BitVec.ofNat 64 p.1)) (winS 2) (fun t => (t.pkg 0).pwrlim.toNat == p.2) = true) ∧
    (∀ p ∈ [(0x05000600, 0x064005A0), (0x06000500, 0x06000500), (0x07D00500, 0x064005A0)],
      evt (.barRegisterWrite ⟨0, 1⟩ 0x6020 (BitVec.ofNat 64 p.1)) (winS 2) (fun t => (t.pkg 0).thr.toNat == p.2) = true) ∧
    (∀ p ∈ [(0, none), (1, some 1), (4, some 4), (5, none)],
      evt (.barRegisterWrite ⟨0, 1⟩ 0x80000 (BitVec.ofNat 64 p.1)) (winS 2) (fun t => (t.pkg 0).mbCmd.map (·.toNat) == p.2) = true) := by
  decide +kernel

/-- An object of one code section of the given level and one handler at the given offset (R404-R406). -/
def objBytes (mmrev level hoff need : Nat) : List Byte :=
  leBytes 4 0x424F4E55 ++ leBytes 4 1 ++ leBytes 4 (2 + 65536 * mmrev) ++ leBytes 4 0 ++ leBytes 8 need ++ List.replicate 24 0 ++
  leBytes 4 0x80 ++ leBytes 4 0x10001 ++ leBytes 4 0xA0 ++ List.replicate 28 0 ++ leBytes 4 188 ++ List.replicate 36 0 ++
  (leBytes 4 (1 + 256 * level) ++ leBytes 4 0 ++ leBytes 4 0xB0 ++ leBytes 4 12 ++ leBytes 4 256 ++ List.replicate 12 0) ++
  (leBytes 4 0x122 ++ leBytes 4 hoff ++ List.replicate 8 0) ++ List.replicate 12 0
/-- The gates an object passes: form, revision, features, sections, handlers. -/
def gates (o : List Byte) : Bool × Bool × Bool × Option (List Nat) × Bool :=
  let x := parseObj o
  let kept := (selectSects x).getD []
  (wellFormedObj o x && !x.sup && x.regs == [] && x.launches == [] && x.relocs == [], x.mmrev == 2,
    needsMet (Vector.replicate 4 0) x, selectSects x, handlersOk x kept)
theorem wit_Loader_gates :
    (gates (objBytes 2 2 0 0) == (true, true, true, some [0], true)) = true ∧ (gates (objBytes 1 2 0 0) == (true, false, false, some [0], true)) = true ∧
    (gates (objBytes 2 2 0 8) == (true, true, false, some [0], true)) = true ∧ (gates (objBytes 2 3 0 0) == (true, true, true, none, true)) = true ∧
    (gates (objBytes 2 1 12 0) == (true, true, true, some [0], false)) = true ∧
    (let o := objBytes 2 2 0 0
     let x : Pkg := { mbCmd := some 3, mbLen := 188, mbBuf := memWrite [] 0 (o.map some) };
     (x.mail == o && x.flash.images == [] && x.ranges == [] && x.pages == []) = true) := by
  decide +kernel
/-- Memory for objects of package 0, in its regions, of which none is granted, and an object in its mailbox. -/
def loadS (regs : FMap Region) : State :=
  { pkgs := [(0, { bootst := 0, regions := regs, mbCmd := some 3, mbLen := 188, mbBuf := memWrite [] 0 ((objBytes 2 2 0 0).map some) })] }

/-- That object, what binding makes of it at a place, and a region with room for it. -/
def objA : Obj :=
  { sup := false, mmrev := 2, needs := [0, 0, 0, 0], sects := [⟨1, 2, 0, 0, 176, 12, 256, 0, 0⟩], hands := [⟨0x122, 0, 0, 0, 0⟩],
    regs := [], launches := [], relocs := [] }
def boundA (base at' : Nat) : Bound :=
  { base := base, lsz := 16, sup := false, sects := [⟨at', true, List.replicate 12 0, []⟩], regs := [],
    hands := [(0x122, handWord (at' + 0) 2)], launches := [] }
theorem objA_parsed : parseObj (objBytes 2 2 0 0) = objA := by decide +kernel
theorem objA_bound (base at' : Nat) : objA.bound (objBytes 2 2 0 0) [0] base [(0, at')] [] = some (boundA base at') := by
  have h : ((objBytes 2 2 0 0).drop 176).take 12 = List.replicate 12 0 := by decide +kernel
  have h2 : objA.codeLsz [0] = 16 := by decide +kernel
  simp [Obj.bound, linkSect, objA, boundA, h, Sect.descs] at h2 ⊢
  exact h2
def regL : Region := { w0 := 0x4000003D, w1 := 0x1000000000 }
theorem objA_placed (seed : Nat) : ∃ b, b % 65536 = 0 ∧ b + 65536 ≤ 2 ^ 57 ∧ placeSects objA [0] [] seed = some (b, [(0, (b + 767) / 768 * 768)]) := by
  obtain ⟨b, hb⟩ := Option.isSome_iff_exists.mp (freePlace_isSome (used := []) (lo := 0) (hi := 2 ^ 57) (size := 65536) (align := 65536)
    (a := 0) (pick seed 200) (.inl (by decide)) (by decide) (by decide) rfl)
  have hf := freePlace_spec hb
  refine ⟨b, hf.2.2.2, hf.2.1, ?_⟩
  have h2 : objA.codeLsz [0] = 16 := by decide +kernel
  have h3 : objA.kept [0] = [(⟨1, 2, 0, 0, 176, 12, 256, 0, 0⟩, 0)] := by decide +kernel
  have h4 : Nat.lcm 256 192 = 768 := by decide
  simp only [placeSects, h2, Nat.reducePow] at hb ⊢
  simp [hb, h3, Sect.step, h4]
/-- The state in which the load ends. -/
def loadU : State :=
  let s := loadS [(0, regL)]
  { s.modPkg 0 fun y => { y with flash := y.flash.recorded } with fresh := s.fresh + 8192 }
theorem loadU_ends (base : Nat) (key : BitVec 512) (_hb : base % 65536 = 0) :
    (loadU.finishLoad 0 [] [(0, key, boundA base ((base + 767) / 768 * 768), false)]).isSome = true := by
  have hr : ∀ d, (loadU.die d).root.toNat % 2 = 0 := fun d => rfl
  have h1 : (loadU.pkg 0).usedSpace key = [] := rfl
  have h2 : (loadU.pkg 0).genFree.isSome = true := by decide +kernel
  have hg : (loadU.pkg 0).pages = [] := by decide +kernel
  refine finishLoad_isSome (by simp [State.roomFor, h1, h2, boundA, apart]) ?_ rfl
  rw [storeBound_one (t := ⟨(base + 767) / 768 * 768, true, List.replicate 12 0, []⟩) rfl]
  refine placeSect_isSome (fun d => by simpa only [State.die, modPkg_dies] using hr d) (by simp only [pkg_modPkg_same, hg]) (by simp) (by simp; omega) fun va => ?_
  refine takePage_isSome (r := regL) (a := 2 ^ 30) key va ?_ (.inl (by decide +kernel)) (by decide +kernel) (by decide +kernel) ?_
  · rw [pageRegions_ranges]; decide +kernel
  · rw [usedMem_ranges hr]; decide +kernel
/-- The object is placed in the region's page: the hypotheses of a load that ends well. -/
theorem wit_Loader_loads :
    let s := loadS [(0, regL)]
    let img := objBytes 2 2 0 0
    (s.pkg 0).mail = img ∧ le img 0x58 4 = 188 ∧
    ∃ e b, placeSects (parseObj img) [0] (s.usedVirtual 0) (s.fresh + 8192) = some e ∧
      (parseObj img).bound (img.take 188) [0] e.1 e.2 [] = some b ∧
      ∀ key, ({ s.modPkg 0 fun y => { y with flash := y.flash.recorded } with fresh := s.fresh + 8192 }.finishLoad 0 [] [(0, key, b, false)]).isSome = true := by
  intro s img
  obtain ⟨base, hb, hb2, hp⟩ := objA_placed (s.fresh + 8192)
  have hu : s.usedVirtual 0 = [] := by decide +kernel
  refine ⟨by decide +kernel, by decide +kernel, _, boundA base ((base + 767) / 768 * 768), by rw [hu, objA_parsed]; exact hp, ?_, fun key => loadU_ends base key hb⟩
  have : img.take 188 = img := by decide +kernel
  rw [this, objA_parsed]; exact objA_bound ..

/-- A handler set that fills handler memory up to the last place of an instruction has one place there. -/
theorem wit_setRoom : 0 ∈ ({} : Farrier).room 8 0xFFFC := by simpa [Farrier.room] using ⟨0, by decide⟩

/-- What the loader finds depends on hashes and signatures, constants of Config no check can compute: the statement splits on them.
The rest of its conditions: each command pending, and a request in the retry buffer of a core of the groom. -/
theorem wit_LoaderCommands :
    (∀ b ∈ [1, 2, 3, 4], let s : State := { pkgs := [(0, { mbCmd := some (BitVec.ofNat 8 b), mbArg := 8 })] };
      (s.pkg 0).mbCmd = some (BitVec.ofNat 8 b) ∧ 8 ≤ (s.pkg 0).mbArg.toNat ∧ (s.pkg 0).mail = [] ∧ (s.pkg 0).flash.images = []) ∧
    wellFormedObj [] (parseObj []) = false ∧
    (let s : State := { pkgs := [(0, { bootst := 0, mbCmd := some 3 })] };
      wellFormedObj (s.view 0x1000 8) (parseObj (s.view 0x1000 8)) = false ∧
      evt (.submitCodeObject ⟨0, some (0x1000, 8)⟩) s (fun t => t.mem == [] && (t.pkg 0).mbCmd == some 3) = true) ∧
    (let r : RSlot := ⟨{ uid := 9, target := 5, ty := 0xF20, payload := [0x1000, 64, 255], kind := 0 }, .sent, 256⟩;
      let s := onCore id fun co => { co with retry := co.retry.set 0 (some r) };
      s.slot ⟨0 * 2 ^ 16 + (5 * 8) / 8 % 2 ^ 16, (5 * 8) % 8⟩ = some r ∧ s.fab = []) := by
  decide +kernel

def bootA : BootCfg :=
  { trainOk := true, podm := 1, port0Host := false, servers := some [0x100], pools := [], imgGroom := [], imgSets := Vector.replicate 6 [] }
/-- A package with an image to boot, or without one; its recovery state; the temperatures around the trip point. What passes and what does
not depends on hashes and signatures, constants of Config no check can compute: the statement splits on them. -/
def flashS (bootst : Byte) (firmware : List Byte) (pending : Option (List Byte)) (mail : List Byte) : State :=
  { pkgs := [(0, { bootst := bootst, fsvn := 2, flash := { firmware := firmware, pending := pending },
                   mbLen := BitVec.ofNat 32 mail.length, mbBuf := memWrite [] 0 (mail.map some) })] }
theorem wit_Resets :
    (∀ n ∈ [0, 0xFF, 7, 1, 6], ∀ fw ∈ [([] : List Byte), [1]], let x := (flashS (BitVec.ofNat 8 n) fw none [2]).pkg 0;
      decide (1 ≤ x.bootst.toNat ∧ x.bootst.toNat ≤ 6) = (n == 1 || n == 6) ∧ x.mail = [2] ∧ x.flash.pending.getD x.flash.firmware = fw ∧
      x.fsvn.toNat = 2) ∧
    ((flashS 0 [1] (some [3]) []).pkg 0).flash.pending = some [3] ∧
    evt (.deviceReset 0 bootA) (flashS 0 [] none [2]) (fun t => (t.pkg 0).bootst == 1 && (t.pkg 0).regions == []) = true ∧
    evt (.functionLevelReset 0 bootA) (flashS 6 [1] none []) (fun t => (t.pkg 0).bootst == 1) = true ∧
    evt (.powerLoss 0) userS (fun t => (t.cores.lookup 5).isNone) = true ∧
    (∀ p ∈ [((2000 : Int), true), (1999, false)], evt (.thermalTrip 0 p.1) userS (fun t => ((t.pkg 0).bootst == 7) == p.2) = true) ∧
    bootA.trainOk = true ∧ ({ bootA with trainOk := false } : BootCfg).trainOk = false ∧
    defaultServers.length = 64 ∧ 0 ∈ defaultServers ∧ 112 ∈ defaultServers ∧ 1 ∉ defaultServers ∧ 256 ∉ defaultServers := by
  decide +kernel

/-- The slowest point, a point removed between, the last platform event and the first that is none. -/
theorem wit_PlatformEvents :
    (let s : State := { dies := [(0, { freq := 4 })] }; (∀ m : Fin 5, (s.die 0).freq < m → m ∈ (s.die 0).cut) ∧
      evt (.frequencyStepDown 0 6000 0) s (fun t => (t.die 0).freq == 4) = true) ∧
    (let s : State := { dies := [(0, { freq := 1, cut := [2] })] }; (s.die 0).freq < 3 ∧ 3 ∉ (s.die 0).cut ∧
      (∀ m : Fin 5, (s.die 0).freq < m → m < 3 → m ∈ (s.die 0).cut) ∧ (s.pkg 0).pwrlim.toNat < 5001 ∧
      evt (.frequencyStepDown 0 5001 0) s (fun t => (t.die 0).freq == 3) = true ∧
      evt (.frequencyStepUp 0 5000 0) s (fun t => (t.die 0).freq == 0) = true) ∧
    (∀ n ∈ [0, 1, 4, 5], evt (.platformEvent 0 3 (BitVec.ofNat 5 n)) userS (fun t =>
      (t.pkg 0).irqs.length == (if n = 0 || n = 5 then 0 else 1)) = true) ∧
    evt (.assayRun 0 [7, 8] [3]) userS (fun t => (t.die 0).assay == 0x08070001 && (t.die 0).cut == [3]) = true := by
  decide +kernel

/-- Carrier 0 of package 0 toward package 1, which has one up in return, with a flow bound to it. -/
def linkS (st : CarState) (nak : Bool) (naks : Nat) (fab : List FabPkt) : State :=
  { pkgs := [(0, { podm := 3, carriers := [(0, { plan := 0x41, st := st, nak := nak, naks := naks, retune := st == .down })]
                   flows := [{ key := 7, reply := false, dst := 1, carrier := some 0 }]
                   ivs := [(1, { closed := [(1, 2)] })] }),
             (1, { podm := 3, carriers := [(0, { plan := 0x40, st := .up })], ivs := [(0, { rcvd := [(1, 2)] })] })]
    fab := fab }
def pktA : FabPkt := { uid := 3, src := 0, dst := 1, flow := 7, reply := false, body := .wb 1 }
/-- A release of core 5 that awaits an interval whose count is wrong. -/
def relS : Rel :=
  { id := 2, ctx := 0, user := true, scope := 4, x := false, caps := [], words := [], descs := [], ivs := [(1, 1)], pc := 0x60 }
def ivS : State :=
  { linkS .up false 0 [] with
    pkgs := [(0, { podm := 3, ivs := [(1, { closed := [(1, 2)] })] })], cores := [(5, { coreA with rels := [relS] })] }
theorem wit_FabricEvents_core : ivS.cores.lookup 5 = some (ivS.core 5) := rfl
theorem wit_FabricEvents :
    ((linkS .down false 0 []).carrier 0 0).en = true ∧ ((linkS .down false 0 []).carrier 0 0).retune = true ∧
    (let s := linkS .training false 0 []; (s.carrier 0 0).dpkg = 1 ∧ s.canLock 0 0 = true ∧ s.upTo 1 0 ≠ [] ∧
      evt (.carrierUp 0 0) s (fun t => (t.carrier 0 0).st == .up) = true) ∧
    (let many := (List.range 8).map fun n => (n, { podm := 3, carriers := [(0, { plan := 0x41 + 8, st := .up })] : Pkg });
      let s : State := { pkgs := many ++ [(8, { podm := 3, carriers := [(0, { plan := 0x49, st := .training })] })] };
      8 ≤ s.receivers (s.carrier 8 0).dpkg 0 + s.trainees (s.carrier 8 0).dpkg 0 (s.carrier 8 0).since ∧
      (s.carrier 8 0).st = .training) ∧
    (let s := linkS .up false 0 [pktA]; s.nextPkt 0 0 = some pktA ∧ (s.carrier 0 0).st = .up ∧
      pktA.seq = none ∧ (s.carrier 0 0).buf = [] ∧ (s.flowOf pktA).tx = (s.flowOf pktA).rx ∧
      evt (.fabricFrame 0 0 true) s (fun t => t.fab == [] && (t.carrier 0 0).txSeq == 1 && (t.flowOf pktA).rx == 1 &&
        (fmGet {} (t.pkg 1).ivs 0).rcvd.lookup 1 == some 3) = true ∧
      evt (.fabricFrame 0 0 false) s (fun t => (t.carrier 0 0).nak && t.fab.map (·.seq) == [some 1] && (t.carrier 0 0).buf == t.fab) = true ∧
      s.nextPkt 0 1 = none) ∧
    -- a copy of what has been delivered, and one a half turn away; a packet behind a damaged frame; a full replay buffer
    (∀ n ∈ [0, 0x8000], let x := { pktA with carrier := some 0, seq := some (BitVec.ofNat 16 n) };
      let s := (linkS .up false 0 [x]).modCarrier 0 0 fun c => { c with buf := [x] };
      (s.carrier 0 0).buf = [x] ∧ x ∈ s.fab ∧ (s.flowOf x).follows (x.seq.getD 0) = false ∧
      evt (.fabricFrame 0 0 true) s (fun t => t.fab == [] && (fmGet {} (t.pkg 1).ivs 0).rcvd.lookup 1 == some 2) = true) ∧
    (let x := { pktA with carrier := some 0, seq := some 1 }; let y := { pktA with uid := 4 };
      let s := fun n => (linkS .up true 0 [x, y]).modCarrier 0 0 fun c => { c with buf := List.replicate n x };
      ((s 1).carrier 0 0).buf.length = 1 ∧ (s 1).nextPkt 0 0 = some y ∧ ((s 128).carrier 0 0).buf.length = 128 ∧
      evt (.fabricFrame 0 0 true) (s 1) (fun t => (t.carrier 0 0).buf.length == 2) = true ∧
      evt (.fabricFrame 0 0 true) (s 128) (fun t => (t.carrier 0 0).buf.length == 128) = true) ∧
    (let s := linkS .up true 7 [pktA]; (s.carrier 0 0).nak = true ∧
      evt (.frameNak 0 0) s (fun t => (t.carrier 0 0).naks == 8 && evt (.carrierDown 0 0) t fun u => (u.carrier 0 0).st == .down) = true ∧
      evt (.carrierDown 0 0) s (fun t => (t.carrier 0 0).st == .up) = true) ∧
    ((ivS.core 5).rels = [relS] ∧ relS.failed = false ∧
      evt (.fabricIntervalConfirm 0 1 1) ivS (fun t => (t.core 5).rfaults.map (fun e => (e.cause, e.at')) == [(0x0D, some 0x60)]) = true) ∧
    (fmGet {} ((linkS .up false 0 []).pkg 0).ivs 1).closed.lookup 1 = some 2 ∧
    ((fmGet {} ((linkS .up false 0 []).pkg 1).ivs 0).rcvd.lookup 1).getD 0 = 2 ∧ (linkS .up false 0 []).ivMoving 0 1 1 = false := by
  decide +kernel

theorem wit_MemoryForm : memWf (winS 2).mem = true ∧ memWf State.reset.mem = true ∧
    (∃ t, step { userS with agenda := [.event (.hostWindowWrite ⟨0, 1⟩ 0 [1] false)] } = .next t ∧ true = true) :=
  ⟨by decide +kernel, by decide +kernel, next_of (fun _ => true) (by decide +kernel)⟩

/-- R202, R321, R339: the choice makes a die lose its copy; a writable one posts WBK. Without a choice it stays. -/
theorem test_wbk_replacement :
    (∀ e ∈ [((2 : BitVec 2), true, [(0x09 : BitVec 6)]), (1, true, []), (3, true, [])],
      evt (.wbk 0 3) { lag := [1], dies := [(1, { l2 := [(0x10, { tag := e.1 })] })] } (fun t =>
        (t.l2 1 0x10).isNone == e.2.1 && (t.far 0).reqs.map (·.ty) == e.2.2) = true) ∧
    evt (.wbk 0 3) { dies := [(1, { l2 := [(0x10, { tag := 2 })] })] } (fun t => (t.l2 1 0x10).isSome) = true := by
  decide +kernel
end Sys2Proof.Tests
end

section
/-! # Vector compares and mask instructions (R64, R137, R139, R140, R163)

A result delivered under a prompt choice is one update of the context; a mask register takes it bit by bit; the numbers a compare
writes there are sums of equal blocks of ones, one block an element. -/

namespace Sys2Proof.Proofs.RegisterState
open Sys2Proof.Machine

/-! ### Delivery of a prompt result -/

section
variable {k : CoreId} {c : Fin 8} {i : Instr} {f : Fields} {s : State}

/-- A prompt delivery writes all its registers and flags at once, on the state but for the model's own counters. -/
theorem deliver_prompt (hc : s.cur = .ctx k c) (hp : s.prompt) (u : Nat) (ws : List RegWrite) (fl : BitVec 40) (raises : Bool) :
    ∃ s' new, OnlyCtx k c s s' ∧ s'.ctx k c = s.ctx k c ∧
      deliver i f u ws fl raises s = .ok (s'.modCtx k c fun x => (applyWrites ws x).raiseFlags fl) new := by
  have hl : s.popLag.1 = 0 := hp
  have honly : OnlyCtx k c s s.popLag.2 := onlyCtx_popLag k c s
  cases hz : f.hd.look == 0 with
  | true => exact ⟨_, _, honly, rfl, by simp only [deliver, kc_ctx hc, hl, hz]; rfl⟩
  | false =>
    exact ⟨_, _, honly.trans (onlyCtx_newId ..), rfl, by simp only [deliver, kc_ctx hc, hl, hz]; rfl⟩

@[simp] theorem apply_wait (w : RegWrite) (x : Ctx) : (w.apply x).wait = x.wait := by
  cases w with
  | m r mask y => by_cases h : r = 0 <;> simp [RegWrite.apply, h]
  | _ => rfl

@[simp] theorem applyWrites_wait (ws : List RegWrite) (x : Ctx) : (applyWrites ws x).wait = x.wait := by
  induction ws generalizing x with
  | nil => rfl
  | cons w ws ih => exact (ih (w.apply x)).trans (apply_wait w x)

theorem raiseFlags_zero (x : Ctx) : x.raiseFlags 0 = x := by
  have hfl : x.fflags ||| 0 = x.fflags := BitVec.or_zero
  rw [Ctx.raiseFlags, hfl]

/-- A ready instruction whose effect is a prompt delivery leaves its writes and flags in its context and goes on. -/
theorem issue_deliver (h : Ready k c i f s) (hp : s.prompt) {eff : State → Res} {u : Nat} {ws : List RegWrite} {fl : BitVec 40}
    {raises : Bool} (he : eff s = deliver i f u ws fl raises s) :
    RunsTo k c ((applyWrites ws (s.ctx k c)).raiseFlags fl).advance s (issue i f never eff s) := by
  obtain ⟨s', new, honly, hctx, hd⟩ := deliver_prompt (i := i) (f := f) h.turn hp u ws fl raises
  have hw : ((s'.modCtx k c fun x => (applyWrites ws x).raiseFlags fl).ctx k c).wait = .none := by
    rw [ctx_modCtx_same, hctx]
    exact (applyWrites_wait ws _).trans h.anew
  have hrun := issue_goesOn (w := never) h rfl (he.trans hd) hw
  rw [GoesOn, ctx_modCtx_same, hctx] at hrun
  exact hrun.before (honly.trans (onlyCtx_modCtx ..))

/-- The same for one write that raises no flag. -/
theorem issue_deliver_one (h : Ready k c i f s) (hp : s.prompt) {eff : State → Res} {u : Nat} {w : RegWrite} {raises : Bool}
    (he : eff s = deliver i f u [w] 0 raises s) : RunsTo k c (w.apply (s.ctx k c)).advance s (issue i f never eff s) := by
  have hrun := issue_deliver h hp he
  rwa [raiseFlags_zero] at hrun

/-! ### Mask registers (R64) -/

theorem getLsbD_mergeBits {w : Nat} (mask old new : BitVec w) (j : Nat) :
    (mergeBits mask old new).getLsbD j = if mask.getLsbD j then new.getLsbD j else old.getLsbD j := by
  by_cases hj : j < w
  · simp only [mergeBits, BitVec.getLsbD_or, BitVec.getLsbD_and, BitVec.getLsbD_not, hj, decide_true, Bool.true_and]
    cases mask.getLsbD j <;> simp
  · simp [mergeBits, BitVec.getLsbD_of_ge, Nat.le_of_not_lt hj]

/-- A write of a mask register, m0's discarded, as an update of that register. -/
theorem apply_mask (r : Fin 8) (mask y : BitVec 128) (x : Ctx) :
    (RegWrite.m r mask y).apply x = { x with m := x.m.set r.val (if r = 0 then x.m[r] else mergeBits mask x.m[r] y) } := by
  by_cases hr : r = 0
  · subst hr; simp [RegWrite.apply]
  · simp [RegWrite.apply, hr]

/-- A ready instruction that delivers a mask register: m0 as it was, another bit by bit the new value where `mask` has it written. -/
theorem issue_deliver_mask (h : Ready k c i f s) (hp : s.prompt) {eff : State → Res} {u : Nat} {r : Fin 8} {mask y : BitVec 128}
    {raises : Bool} {bit : Nat → Bool} (he : eff s = deliver i f u [.m r mask y] 0 raises s)
    (hbit : ∀ j < 128, (if mask.getLsbD j then y.getLsbD j else (s.ctx k c).m[r].getLsbD j) = bit j) :
    ∃ z : BitVec 128, RunsTo k c { s.ctx k c with m := (s.ctx k c).m.set r.val z }.advance s (issue i f never eff s) ∧
      ∀ j < 128, z.getLsbD j = if r = 0 then (s.ctx k c).m[r].getLsbD j else bit j := by
  have hrun := issue_deliver_one h hp he
  rw [apply_mask] at hrun
  refine ⟨_, hrun, fun j hj => ?_⟩
  split
  · rfl
  · rw [getLsbD_mergeBits, hbit j hj]

theorem mIx_eq_zero {o : Opd} (ho : o.isM = true) : mIx o = 0 ↔ o = .m 0 := by
  cases o with
  | m r => simp [mIx]
  | _ => simp [Opd.isM] at ho

/-- The same for an instruction that writes every bit of its destination. -/
theorem issue_deliver_wholeMask (h : Ready k c i f s) (hp : s.prompt) (ha : f.a.isM = true) {eff : State → Res} {u : Nat}
    {y : BitVec 128} {raises : Bool} {bit : Nat → Bool} (he : eff s = deliver i f u [.m (mIx f.a) (BitVec.allOnes 128) y] 0 raises s)
    (hy : ∀ j < 128, y.getLsbD j = bit j) :
    ∃ z : BitVec 128, RunsTo k c { s.ctx k c with m := (s.ctx k c).m.set (mIx f.a).val z }.advance s (issue i f never eff s) ∧
      ∀ j < 128, z.getLsbD j = if f.a = .m 0 then (s.ctx k c).m[mIx f.a].getLsbD j else bit j := by
  simp only [← mIx_eq_zero ha]
  exact issue_deliver_mask h hp he fun j hj => by
    rw [BitVec.getLsbD_allOnes, decide_eq_true hj, if_pos rfl, hy j hj]

/-! ### General registers -/

/-- A ready instruction that delivers a general register. -/
theorem issue_deliver_dest (h : Ready k c i f s) (hp : s.prompt) (ha : f.a.isG = true) {eff : State → Res} {u : Nat} {y : W64}
    {raises : Bool} (he : eff s = deliver i f u [.g (gIx f.a) y] 0 raises s) :
    RunsTo k c ((s.ctx k c).withHart ((s.ctx k c).hart.dest f.a y)).advance s (issue i f never eff s) := by
  have hrun := issue_deliver_one h hp he
  cases hr : f.a with
  | g r => rw [hr] at hrun; exact hrun
  | _ => simp [hr, Opd.isG] at ha

end

/-! ### Sums of blocks of ones -/

theorem sum_map_filter (p : Nat → Bool) (g : Nat → Nat) (l : List Nat) :
    ((l.filter p).map g).sum = (l.map fun e => if p e then g e else 0).sum := by
  induction l with
  | nil => rfl
  | cons e l ih => cases hp : p e <;> simp [hp, ih]

/-- The number with blocks of `b` ones at the places where `p` holds, below place `n`. -/
def blocks (b : Nat) (p : Nat → Bool) (n : Nat) : Nat :=
  ((List.range n).map fun e => if p e then (2 ^ b - 1) * 2 ^ (e * b) else 0).sum

theorem blocks_succ (b : Nat) (p : Nat → Bool) (n : Nat) :
    blocks b p (n + 1) = 2 ^ (n * b) * (if p n then 2 ^ b - 1 else 0) + blocks b p n := by
  have hlast : (if p n then (2 ^ b - 1) * 2 ^ (n * b) else 0) = 2 ^ (n * b) * (if p n then 2 ^ b - 1 else 0) := by
    cases p n
    · rfl
    · exact Nat.mul_comm ..
  rw [blocks, List.range_succ, List.map_append, List.map_singleton, List.sum_append_nat, List.sum_singleton, hlast, Nat.add_comm,
    blocks]

theorem blocks_lt (b : Nat) (p : Nat → Bool) (n : Nat) : blocks b p n < 2 ^ (n * b) := by
  induction n with
  | zero => simp [blocks]
  | succ n ih =>
    have hpos : 0 < 2 ^ b := Nat.two_pow_pos b
    have htop : (if p n then 2 ^ b - 1 else 0) + 1 ≤ 2 ^ b := by split <;> omega
    calc blocks b p (n + 1) = 2 ^ (n * b) * (if p n then 2 ^ b - 1 else 0) + blocks b p n := blocks_succ ..
      _ < 2 ^ (n * b) * (if p n then 2 ^ b - 1 else 0) + 2 ^ (n * b) := Nat.add_lt_add_left ih _
      _ = 2 ^ (n * b) * ((if p n then 2 ^ b - 1 else 0) + 1) := (Nat.mul_succ ..).symm
      _ ≤ 2 ^ (n * b) * 2 ^ b := Nat.mul_le_mul_left _ htop
      _ = 2 ^ ((n + 1) * b) := by rw [← Nat.pow_add, Nat.succ_mul]

/-- Bit `j` lies in the block `j / b`. -/
theorem testBit_blocks {b : Nat} (hb : 0 < b) (p : Nat → Bool) (n j : Nat) :
    (blocks b p n).testBit j = (decide (j / b < n) && p (j / b)) := by
  induction n with
  | zero => simp [blocks]
  | succ n ih =>
    rw [blocks_succ, Nat.testBit_two_pow_mul_add _ (blocks_lt b p n)]
    have hlow : j < n * b ↔ j / b < n := (Nat.div_lt_iff_lt_mul hb).symm
    by_cases hj : j / b < n
    · simp [hlow, hj, ih, Nat.lt_succ_of_lt hj]
    · have hnext : j - n * b < b ↔ j / b < n + 1 := by
        rw [Nat.div_lt_iff_lt_mul hb, Nat.succ_mul]
        have := mt hlow.mp hj
        omega
      rw [if_neg (mt hlow.mp hj)]
      by_cases hn : j / b < n + 1
      · have hjn : j / b = n := by omega
        cases hp : p n <;> simp [hjn, hp, hnext.mpr hn]
      · cases hp : p n <;> simp [hn, hnext]

/-! ### Vector compare (R137, R163) -/

/-- The types a compare takes have elements of whole bytes. -/
theorem tyWidth_compare : ∀ t : BitVec 4, (tyInt t || ty789 t) = true → tyWidth t ∈ [8, 16, 32, 64] := by
  decide

section
variable {w : Nat} (hw : w ∈ [8, 16, 32, 64])
include hw

/-- Byte `j` of a register lies in element `8 * j / w`, one of the elements it holds. -/
theorem byte_in_element {j : Nat} (hj : j < 128) : 0 < w / 8 ∧ j / (w / 8) = 8 * j / w ∧ j / (w / 8) < 1024 / w := by
  simp only [List.mem_cons, List.not_mem_nil, or_false] at hw
  rcases hw with rfl | rfl | rfl | rfl <;> omega

/-- The mask bits of an element of whole bytes are a block of ones. -/
theorem maskElem_bytes (e : Nat) : maskElem w e = (2 ^ (w / 8) - 1) * 2 ^ (e * (w / 8)) := by
  simp only [List.mem_cons, List.not_mem_nil, or_false] at hw
  have hwide : ¬ w < 8 := by omega
  have hbyte : e * w / 8 = e * (w / 8) := Nat.mul_div_assoc e (by omega)
  rw [maskElem, if_neg hwide, hbyte]

/-- The mask of the elements where `p` holds, byte by byte. -/
theorem getLsbD_maskElems (p : Nat → Bool) {j : Nat} (hj : j < 128) :
    (BitVec.ofNat 128 (((List.range (1024 / w)).filter p).map (maskElem w)).sum).getLsbD j = p (8 * j / w) := by
  have hsum : (((List.range (1024 / w)).filter p).map (maskElem w)).sum = blocks (w / 8) p (1024 / w) := by
    simp only [sum_map_filter, maskElem_bytes hw, blocks]
  obtain ⟨hpos, helem, hin⟩ := byte_in_element hw hj
  rw [BitVec.getLsbD_ofNat, hsum, testBit_blocks hpos, decide_eq_true hj, decide_eq_true hin, helem, Bool.true_and,
    Bool.true_and]

/-- What a compare writes into a mask register: its result at the enabled elements, zero elsewhere with ZR. -/
theorem getLsbD_compareMask (en holds : Nat → Bool) (zr old : Bool) {j : Nat} (hj : j < 128) :
    let lanes := (List.range (1024 / w)).filter en
    (if (BitVec.ofNat 128 (if zr then 2 ^ 128 - 1 else (lanes.map (maskElem w)).sum)).getLsbD j
      then (BitVec.ofNat 128 ((lanes.filter holds).map (maskElem w)).sum).getLsbD j else old) =
    if en (8 * j / w) then holds (8 * j / w) else if zr then false else old := by
  intro lanes
  have hones : (BitVec.ofNat 128 ((lanes.filter holds).map (maskElem w)).sum).getLsbD j =
      (holds (8 * j / w) && en (8 * j / w)) := by
    rw [List.filter_filter]
    exact getLsbD_maskElems hw (fun e => holds e && en e) hj
  cases zr with
  | true =>
    have hall : (BitVec.ofNat 128 (2 ^ 128 - 1)).getLsbD j = true := by
      rw [BitVec.getLsbD_ofNat, Nat.testBit_two_pow_sub_one, decide_eq_true hj, Bool.true_and]
    rw [if_pos rfl, hall, hones]
    cases en (8 * j / w) <;> simp
  | false =>
    rw [if_neg Bool.false_ne_true, getLsbD_maskElems hw en hj, hones]
    cases en (8 * j / w) <;> simp

end

theorem vectorCompare : Clause.VectorCompare := by
  intro k c f s h hwf hp x w K holds
  have hty : (tyInt f.ty || ty789 f.ty) = true := by
    simp only [WellFormed, legal, Bool.and_eq_true] at hwf
    obtain ⟨⟨⟨⟨⟨⟨_, _⟩, _⟩, hty⟩, _⟩, _⟩, _⟩ := hwf
    exact hty
  rw [exec_vcmp, execVcmp]
  refine ⟨fun r ha => ?_, fun r ha => ?_⟩
  · refine issue_deliver_mask h hp (u := w) (raises := true)
      (mask := BitVec.ofNat 128 (if f.zr then 2 ^ 128 - 1 else ((x.lanes f).map (maskElem w)).sum))
      (y := BitVec.ofNat 128 (((x.lanes f).filter holds).map (maskElem w)).sum) ?_
      fun j hj => getLsbD_compareMask (tyWidth_compare f.ty hty) (enabled (x.mask f.mkn) w) holds f.zr _ hj
    simp only [ha, me_ctx h.turn]
    rfl
  · refine issue_deliver_one h hp (w := .c r (if f.bit 21 then (x.lanes f).all holds else (x.lanes f).any holds)) (u := w)
      (raises := true) ?_
    simp only [ha, me_ctx h.turn]
    rfl

/-! ### Mask instructions (R64, R139, R140) -/

section
variable {k : CoreId} {c : Fin 8} {i : Instr} {f : Fields} {s : State}

/-- A source of a mask operation, inverted or not. -/
theorem getLsbD_invert (m : BitVec 128) (inv : Bool) {j : Nat} (hj : j < 128) :
    (if inv then ~~~m else m).getLsbD j = xor (m.getLsbD j) inv := by
  cases inv <;> simp [hj]

/-- A mask operation that works bit by bit, as `op` does on bits. -/
theorem maskOp2_runs (h : Ready k c i f s) (hp : s.prompt) (ha : f.a.isM = true) {op : BitVec 128 → BitVec 128 → BitVec 128}
    {opb : Bool → Bool → Bool} (hop : ∀ b c j, (op b c).getLsbD j = opb (b.getLsbD j) (c.getLsbD j)) :
    ∃ z : BitVec 128,
      RunsTo k c { s.ctx k c with m := (s.ctx k c).m.set (mIx f.a).val z }.advance s (maskOp2 i f op s) ∧
      ∀ j < 128, z.getLsbD j = if f.a = .m 0 then (s.ctx k c).m[mIx f.a].getLsbD j else
        opb (xor (((s.ctx k c).mask (mIx f.b)).getLsbD j) (f.bit 17)) (xor (((s.ctx k c).mask (mIx f.c)).getLsbD j) (f.bit 18)) := by
  refine issue_deliver_wholeMask h hp ha rfl fun j hj => ?_
  rw [hop, getLsbD_invert _ _ hj, getLsbD_invert _ _ hj, me_ctx h.turn]

/-- The mask of the places where `p` holds. -/
theorem getLsbD_places (p : Nat → Prop) [DecidablePred p] {j : Nat} (hj : j < 128) :
    (BitVec.ofNat 128 ((List.range 128).map fun j => if p j then 2 ^ j else 0).sum).getLsbD j = decide (p j) := by
  have hsum : ((List.range 128).map fun j => if p j then 2 ^ j else 0).sum = blocks 1 (fun j => decide (p j)) 128 := by
    simp [blocks]
  rw [BitVec.getLsbD_ofNat, hsum, testBit_blocks Nat.one_pos, Nat.div_one, decide_eq_true hj, Bool.true_and, Bool.true_and]

end

/-- The destination of a legal instruction that rounds nothing is of the class its form accepts. -/
theorem class_of_legal {f : Fields} {a b c : Opd → Bool} {mask : BitVec 32} {p : Bool}
    (h : (f.opds a b c && f.only mask && noRound f && p) = true) : a f.a = true := by
  simp only [Fields.opds, Bool.and_eq_true] at h
  obtain ⟨⟨⟨⟨⟨ha, _⟩, _⟩, _⟩, _⟩, _⟩ := h
  exact ha

theorem isM_of_maskOp {f : Fields} (h : maskOp f = true) : f.a.isM = true :=
  class_of_legal (p := true) (by rw [Bool.and_true]; exact h)

theorem maskResults : Clause.MaskResults := by
  intro k c f s hp x w src mask
  refine ⟨fun h hwf => ?_, fun h hwf => ?_, fun h hwf => ?_, fun h hwf => ?_, fun h hwf => ?_, fun h hwf => ?_⟩
  · exact maskOp2_runs h hp (isM_of_maskOp hwf) fun _ _ _ => BitVec.getLsbD_and
  · exact maskOp2_runs h hp (isM_of_maskOp hwf) fun _ _ _ => BitVec.getLsbD_or
  · exact maskOp2_runs h hp (isM_of_maskOp hwf) fun _ _ _ => BitVec.getLsbD_xor
  · have ha : f.a.isM = true := class_of_legal hwf
    refine issue_deliver_wholeMask h hp ha rfl fun j hj => ?_
    rw [getLsbD_places _ hj, hart_ctx h.turn]
  · have ha : f.a.isG = true := class_of_legal hwf
    refine issue_deliver_dest h hp ha (u := 8) (raises := true) ?_
    simp only [me_ctx h.turn, List.countP_eq_length_filter]
    rfl
  · have ha : f.a.isG = true := class_of_legal hwf
    refine issue_deliver_dest h hp ha (u := 8) (raises := true) ?_
    simp only [beq_iff_eq]
    rfl

/-- Settles O24: a compare writes the bytes of the enabled elements where its relation holds, or their any or all; a mask instruction
writes each bit of its destination from the same bits of its sources, and m0 stays as it is. -/
theorem comparesAndMasks : Obligations.ComparesAndMasks := by
  unfold Obligations.ComparesAndMasks
  exact ⟨vectorCompare, maskResults⟩

end Sys2Proof.Proofs.RegisterState
end
